-- ==== Sys2Proof/Word.lean ====
section
/-! DEFINITION. The word types of the device: a 32-bit register word, a byte, a 64-bit engine register and a 128-bit
microword (R20, R314). -/
namespace Sys2Proof

/-- A register of BAR0 (32 bits). -/
abbrev Word := BitVec 32
/-- A byte of a memory or of a frame. -/
abbrev Byte := BitVec 8
/-- An engine register (R314). -/
abbrev Word64 := BitVec 64
/-- A microword (R314). -/
abbrev Micro := BitVec 128

end Sys2Proof
end

