-- ==== Sys2Proof/Syntax.lean ====
section
/-! DEFINITION. The commands the block takes, one constructor per row of the opcode table, and the frames, flits and
other values they carry. A command that happens at an instant of its own carries it as `t`, in TU since the PTP epoch:
the counter is at that instant when the happening occurs. -/
namespace Sys2Proof

/-- The channel of an EGRESS_PACKET, and whether its packet waited for the spine, which logic speed decides (R207). -/
structure EgressTake where
  fc : Nat
  spineWait : Bool
deriving DecidableEq, Repr

/-- What configuration writes ask of a function: its Bus Master Enable, and D3hot (R130). -/
structure FnControl where
  bme : Bool
  d3hot : Bool
deriving DecidableEq, Repr

/-- A dword of a function's MSI-X table, by its number, and the value written to it (R131). -/
structure TableWrite where
  dw : Nat
  v : Word
deriving DecidableEq, Repr

/-- A MAC frame at a port: the octets from the destination address to the last before the FCS, whether the FCS is
right, the counter at its message timestamp point (R69), and the codewords that the sub-port's FEC corrected, and could
not correct, since the frame before (R215). -/
structure Frame where
  t : Nat
  bytes : List Byte
  fcsOk : Bool
  fecCorr : Nat := 0
  fecBad : Nat := 0
deriving DecidableEq, Repr

/-- A code-group of the timing ring (R84): a data octet, a control group by its octet (K28.1 is 0x3C, K29.7 is 0xFD), or a
violation of the code. -/
inductive CodeGroup where
  | data (b : Byte)
  | control (b : Byte)
  | violation
deriving DecidableEq, Repr

/-- The fields of a HEARTBEAT (R414), instants as Short Time. -/
structure Heartbeat where
  send : Nat
  echoSend : Nat
  echoArr : Nat
  epoch : Nat
  grid : Nat
  pair : Nat
  sideB : Bool
  run : Bool
  origin : Bool
  holdover : Bool
  pfw : Bool
  driving : List Nat
deriving DecidableEq, Repr

/-- An access carried over the link (R410, R431). -/
structure AccessFlit where
  master : Nat
  num : Nat
  bar2 : Bool
  addr : Nat
  data : Word
  write : Bool
deriving DecidableEq, Repr

/-- A mirrored pin item, or an item of pin state (R418, R433). -/
inductive PinItem where
  | push (pc t : Nat) (level : Bool)
  | duty (pc v : Nat)
  | load (pc : Nat)
  | stop (pc : Nat)
  | restart (pc : Nat)
  | qflush (pc : Nat)
  | cntClr (pc : Nat)
  | axis (a : Nat) (steps pcru psta t : Nat) (v : Word)
  | lastDuty (pc v : Nat)
  | pendLoad (pc v t : Nat)
  | axisAt (a st n j tNext nr pcru psta : Nat) (pos : Int) (neg homed : Bool)
  | demand (g k a st p : Nat)
deriving DecidableEq, Repr

/-- The payload of a flit (R410). -/
inductive FlitBody where
  | access (a : AccessFlit)
  | response (m result : Nat) (data : Word)
  | prepared (dom target id : Nat) (digests : List Nat)
  | decide (dom target : Nat)
  | decideAck (dom target : Nat)
  | refused (dom target : Nat)
  | withdrawn (dom target : Nat)
  | twinFail (dom target rule : Nat)
  | abort (dom target : Nat)
  | digest (epoch : Nat) (doms : List Nat)
  | pin (at_ : Nat) (item : PinItem)
  | xfeed (fc : Nat) (f : Frame)
  | fault (m num cause addr : Nat)
  | joinReq (ej : Nat)
  | joinOk (items : List PinItem)
  | pinState (items : List PinItem)
  | leave
  | handover (th : Nat) (mask : List Nat)
  | handoverAck (th : Nat)
deriving DecidableEq, Repr

/-- A sequenced flit (R409): its number and its payload. -/
structure Flit where
  seq : Nat
  body : FlitBody
deriving DecidableEq, Repr

/-- The straps sampled at the release of device reset (R479). -/
structure Straps where
  sideB : Bool
  bootMode : Nat
  oscDly : Nat
  celRc : Bool
deriving DecidableEq, Repr

/-- One directory entry of the flash (R467): type, scope, tile and where its image stands in the area. -/
structure DirEntry where
  typ : Nat
  scope : Nat
  tile : Nat
  offset : Nat
  length : Nat
deriving DecidableEq, Repr

/-- What the steward reads from the flash (R466-R468): whether SFDP is readable and the size enough, the two
directories that are valid with their SEQ and entries, and the two image areas as (offset, octets) pieces. -/
structure BootFlash where
  ok : Bool
  dirA : Option (Nat × List DirEntry)
  dirB : Option (Nat × List DirEntry)
  areaA : List (Nat × List Byte)
  areaB : List (Nat × List Byte)
deriving DecidableEq, Repr

/-- The commands of spec/opcode_table.json, one constructor per row. `m` is the master that sends an access, `t` an instant in TU. -/
inductive Instr where
  /-- R53: A write of HTIM_CTRL.RUN starts the hearth running, with any TSET_GO or STEP_GO in the same write judged with RUN = 0. -/
  | hearthRun (m : Nat) (v : Word)
  /-- R54: The TSET_GO command arms a load of HTIM_TSET, or it is refused while RUN = 1 or when its nanosecond field is out of range. -/
  | tsetGo (m : Nat) (v : Word)
  /-- R54: At the first TPLL cycle after an accepted TSET_GO, the counter takes the TSET value. -/
  | tsetLoad
  /-- R56: STEP_GO with METHOD = STEP arms a phase step d for the step instant that STEP_AT selects, or it is refused. -/
  | stepGo (m : Nat) (v : Word)
  /-- R59: STEP_GO with METHOD = SLEW starts absorbing d at plus or minus RATE ppm, or it is refused. -/
  | slewGo (m : Nat) (v : Word)
  /-- R57: At the step instant the counter takes s + d, and each placement element, grid point, periodic channel and angle unit handles the skipped or repeated interval. -/
  | phaseStepApply
  /-- R59: The final cycle absorbs the remainder of d, the slew ends and 0x3003 is emitted. -/
  | slewComplete
  /-- R61: A write of HTIM_FTRIM sets the frequency trim from the next TPLL cycle. -/
  | ftrimWrite (m : Nat) (v : Word)
  /-- R55: A read of HTIM_NOW0 latches the whole counter for the reading master. -/
  | nowRead (m : Nat)
  /-- R63: A write of HSRC_SEL selects a TPLL source, or it changes only AUTO and PRIO, or it is refused for a source that is not READY. -/
  | sourceSelect (m : Nat) (v : Word)
  /-- R63: A write of HSRC_CFG is refused when it changes the field describing the selected source. -/
  | hsrcCfgWrite (m : Nat) (v : Word)
  /-- R64: After the phase error has stayed within 1 ns for 1 ms, the TPLL enters LOCKED and EVER_LOCKED is set. -/
  | tpllLock
  /-- R64: The selected source loses READY, and the TPLL enters HOLDOVER or falls back to the RCO. -/
  | sourceReadyLoss (src : Nat)
  /-- R64: A source becomes READY, and with AUTO = 1 in HOLDOVER the TPLL selects the highest-priority READY source. -/
  | sourceReadyGain (src : Nat)
  /-- R68: At the end of each 1 s trim gate, the RCO corrects its trim and updates TRIMMED. -/
  | rcoTrimGate (ofs : Int)
  /-- R68: The trim source is lost, the RCO keeps its last trim, TRIM_LOST is set and 0x3030 is emitted. -/
  | trimSourceLoss
  /-- R68: A write of HRCO_CTRL.TSRC selects the trim source, or it is refused for HEARTH while the TPLL source is the RCO. -/
  | hrcoCtrlWrite (m : Nat) (v : Word)
  /-- R75: A read of HCAP_E3 moves the head entry into the reading master's latch. -/
  | captureFifoPop (m : Nat)
  /-- R75: A read of HCAP_LOST returns the count of discarded entries and clears it. -/
  | capLostRead (m : Nat)
  /-- R77: A frame mark on a reference input is stamped, captured and counted toward LOCK. `found` says that the input's signal
  shows a format of the table, which then is `fmt`. -/
  | refFrameMark (n fmt : Nat) (found : Bool) (t : Nat)
  /-- R77: Two missing marks take an input out of LOCK, set LOST and emit 0x3010 + n. -/
  | refMarkMissing (n : Nat)
  /-- R75: A rising edge of the 1PPS input is stamped into the capture FIFO. -/
  | ppsInEdge (t : Nat)
  /-- R78: A reference output places its sync reference point at an alignment point plus HREF_OFS. -/
  | refOutputEdge (n : Nat)
  /-- R78: The 1PPS or 10 MHz output places an edge at its counter instant plus PPSOFS. -/
  | ppsOutputEdge (ten : Bool)
  /-- R81: A read of HEPC_EPOCH latches the boundary instants for the reading master. -/
  | epochRead (m : Nat)
  /-- R88: At a grid point the epoch number steps, locked commits switch, the filling slot is chosen, and budgets, alive counters, pins and modes are processed. -/
  | boundary
  /-- R85: The ring origin sends a MARK frame in the first code-group slot at or after the boundary. -/
  | ringMarkSend
  /-- R85: A ring frame is checked whole, forwarded with CORR and HOPS updated, and an OFFSET entry is captured, or the frame is ended. -/
  | ringFrameReceive (port : Nat) (gs : List CodeGroup) (t : Nat)
  /-- R87: Code-group sync on a ring input is gained or lost, and 0x3020 or 0x3021 is emitted. -/
  | ringLinkChange (port : Nat) (up : Bool)
  /-- R88: At B − GUARD each ready commit targeting the next epoch locks and every commit not ready ends. -/
  | lockInstant
  /-- R88: At B + DRAIN the closing epoch's accumulators close, the retiring bank is discarded, publication areas are copied and 0x3101 is emitted. -/
  | drainClose
  /-- R88: The epoch's records are written, the slot is marked PUBLISHED and CURRENT, and 0x3102 is emitted. -/
  | publicationComplete
  /-- R104: A read of a snapshot window or an RS field is served from one slot, and reads of FILLING slots count as straddles. -/
  | snapshotRead (m slot off len : Nat)
  /-- R106: HSNP_PIN.PIN pins CURRENT for the master, or the pin is refused. -/
  | snapshotPin (m : Nat)
  /-- R106: HSNP_PIN.UNPIN releases the master's pin. -/
  | snapshotUnpin (m : Nat)
  /-- R103: A master's read of its own HSNP_STRADDLE returns the straddle count and clears it. -/
  | straddleRead (m : Nat)
  /-- R114: HCOM_CMD.COMMIT freezes the domain's landing and starts a check, or it ends at the write as NOT_OWNER, LATE, CHECK_FAIL or POWER_FAIL_ABORT. -/
  | commit (m dom : Nat) (twin : Bool)
  /-- R492: HCOM_CMD.WITHDRAW ends the domain's unlocked commit with SUPERSEDED. -/
  | withdraw (m dom : Nat)
  /-- R116: A commit's check ends: CHECKED, or AGREEING with PREPARED sent, or CHECK_FAIL with HCOM_CHECK and HCOM_FLOG filled. -/
  | checkComplete (dom : Nat)
  /-- R124: PFW_N asserts: unlocked commits abort, a save is abandoned, LOCKED commits abort when far enough from their boundary, and a joined side yields its pins. -/
  | pfwAssert (t : Nat)
  /-- R124: PFW_N deasserts and emits 0x3111, which starts the 1 ms window. -/
  | pfwDeassert (t : Nat)
  /-- R124: 1 ms after deassertion, commits and saves are admitted again. -/
  | pfwWindowEnd
  /-- R125: HCOM_SAVE.SAVE_GO starts writing the live settings into the flash settings slot that is not in use. -/
  | saveGo (m : Nat)
  /-- R125: A save ends, done or failed, and emits 0x3112. -/
  | saveComplete (ok : Bool)
  /-- R128: HCOM_LFACK.ACK from the house owner ends the block on commits set by a late fault. -/
  | lfack (m : Nat)
  /-- R144: A write to a register without a row of its own is checked against ownership, and then staged or applied. -/
  | registerWrite (m addr : Nat) (v : Word)
  /-- R134: A BAR2 write TLP is accepted only when every byte it touches lies in a bank for which the master qualifies. -/
  | mediaStoreWrite (m addr : Nat) (data : List (Option Byte))
  /-- R134: A BAR2 read TLP is served, or completed with Unsupported Request when refused. -/
  | mediaStoreRead (m addr len : Nat)
  /-- R135: An I/O, AtomicOp or unsupported Message request completes with Unsupported Request and is counted. -/
  | unsupportedTlp (f : Nat)
  /-- R135: A poisoned or partial-byte-enable BAR0 write is discarded and counted in BAD. -/
  | poisonedWrite (f : Nat) (poisoned : Bool)
  /-- R132: An FLR resets the master's per-master state and emits 0x3408. -/
  | functionLevelReset (f : Nat)
  /-- R132: A function's move from D3hot to D0 resets that master's per-master state. -/
  | d3hotToD0 (f : Nat)
  /-- R132: A conventional reset or link-down resets all six functions' per-master state. -/
  | pcieConventionalReset
  /-- R137: A service-port frame with a correct CRC performs its read or write and returns STATUS. -/
  | svcFrame (bytes : List Byte)
  /-- R137: SVC_CS_N rising before the last CRC bit discards the frame without effect. -/
  | svcFrameAbort
  /-- R136: A read of HSVC_ERR returns the service-port fault counts and clears them. -/
  | hsvcErrRead (m : Nat)
  /-- R147: HOWN_REQ.CLAIM opens or joins an election for a domain. -/
  | claim (m dom prio : Nat)
  /-- R150: HOWN_REQ.HANDOVER from the owner offers the domain to a target master. -/
  | handover (m dom target : Nat)
  /-- R150: HOWN_REQ.ACCEPT from the offer's target makes it the owner. -/
  | accept (m dom prio : Nat)
  /-- R151: HOWN_REQ.RELEASE from the owner ends ownership at once. -/
  | release (m dom : Nat)
  /-- R151: HOWN_REQ.FORCE_LAPSE from the house owner ends a room's ownership or election. -/
  | forceLapse (m dom : Nat)
  /-- R147: At the end of the 100,000-cycle window, the highest-priority claimant becomes owner. -/
  | electionEnd (dom : Nat)
  /-- R150: An offer not accepted within 1,000,000 cycles expires and the domain returns to OWNED. -/
  | handoverDeadline (dom : Nat)
  /-- R144: A read of HOWN_WREFUSED returns a master's refused-write count and clears it. -/
  | hownWrefusedRead (m who : Nat)
  /-- R154: PG_CTRL.ERR_CLR clears the page's ERR_CNT. -/
  | errClr (m page : Nat)
  /-- R154: A write of 1 to an EV_FORCE bit sets EV_STAT and emits forced event 0x3F00 + k. -/
  | evForce (m page : Nat) (v : Word)
  /-- R210: A MAC frame is received, stamped and checked, then classified to a flow channel, delivered to the host queue or discarded. -/
  | portFrameReceive (lane : Nat) (f : Frame)
  /-- R166: The flow datapath checks, counts, merges, measures, polices and stores a classified packet, or refuses it. -/
  | ingressPacket (T : Nat) (beWait spineWait : Bool)
  /-- R170: A path that has delivered nothing for 1 ms becomes silent and pulses PATH_STATE. -/
  | pathSilent (fc path : Nat)
  /-- R180: FCH_CTL.RESYNC restarts the channel's model at its next packet. -/
  | flowResync (m fc : Nat)
  /-- R188: An egress channel takes a stored source packet, maps its frame to a slot and computes its request instant, or refuses it. -/
  | egressPacket (x : EgressTake)
  /-- R190: At δ(Σ) the slot is accepted or left empty, switching is decided, and requests enter the calendar. -/
  | slotDecision (fc : Nat)
  /-- R217: At a slot point Σ the channel pulses SLOT_START. -/
  | slotStart (fc : Nat)
  /-- R198: The retiring binding is released at S + TROFFSET_old. -/
  | bindingRelease (fc : Nat)
  /-- R193: A departure request reaches its sub-port's calendar and joins the queue, with lateness counted. -/
  | calendarRequest (lane : Nat)
  /-- R194: The calendar starts the head frame on the wire and classifies its slip, or refuses it as EXPIRED. -/
  | packetDeparture (lane : Nat)
  /-- R211: A read of PRT_HRX0 moves the head host receive descriptor into the reading master's latch. -/
  | hostRxPop (m n : Nat)
  /-- R211: A write of PRT_HFREE returns a receive buffer under the free tests. -/
  | hostFree (m n : Nat) (v : Word)
  /-- R212: A read of PRT_HALLOC by the house owner takes a buffer from TXPOOL. -/
  | hostAlloc (m n : Nat)
  /-- R212: A write of PRT_HTX1 queues a host frame, or it sets HTX_FULL when the queue is full. -/
  | hostTransmit (m n : Nat) (v : Word)
  /-- R214: A sub-port link goes up or down and is pulsed. -/
  | portLinkChange (lane : Nat) (v : Word)
  /-- R214: Link training of a sub-port fails, which sets LT_FAIL and pulses. -/
  | linkTrainingFail (lane : Nat)
  /-- R223: The interpolator places an output edge at its requested instant. -/
  | edgePlacement (pc : Nat)
  /-- R227: An edge-queue entry reaches the interpolator, and a late entry is issued earliest or skipped. -/
  | edgeRequestArrival (pc : Nat)
  /-- R229: A periodic channel begins period n, taking its duty and pulsing PERIOD. -/
  | periodStart (pc : Nat)
  /-- R230: At C the old waveform ends, the new one begins, and pending loads are discarded. -/
  | waveformSwitch (pc : Nat)
  /-- R233: A write of PCH_EQ2 pushes an entry to the channel's edge queue, or it is refused. -/
  | edgeQueuePush (m pc : Nat) (level : Bool)
  /-- R235: PCH_CTL.RESTART restarts a TRAIN or PWM channel from a later grid point. -/
  | channelRestart (m pc : Nat)
  /-- R235: PCH_CTL.STOP places no further active edge. -/
  | channelStop (m pc : Nat)
  /-- R233: PCH_CTL.QFLUSH discards every unplaced queue entry. -/
  | qflush (m pc : Nat)
  /-- R245: PCH_CTL.CNT_CLR sets the count to 0. -/
  | cntClr (m pc : Nat)
  /-- R238: PCH_CTL.LOAD freezes the shadow duties of the load group into a pending set. -/
  | pwmLoad (m pc : Nat)
  /-- R238: A write of PCH_DUTY schedules a duty change, or updates the shadow duty. -/
  | dutyWrite (m pc : Nat) (v : Word)
  /-- R241: A PWM trigger compare pulses TRIG, and TRIGOUT channels place their pulses. -/
  | triggerInstant (pc i : Nat)
  /-- R243: A TDC stamps an input transition, which is filtered or held for qualification. -/
  | pinInputTransition (pc : Nat) (level : Bool) (t : Nat)
  /-- R243: A transition that holds for FILT qualifies and is delivered to capture or count. -/
  | inputQualified (pc : Nat)
  /-- R244: A read of PCH_CAP0 moves the head capture into the reading master's latch. -/
  | capturePop (m pc : Nat)
  /-- R248: A write of TMR_ARM1 arms a timer to start at the written instant. -/
  | timerArm (m T i : Nat) (v : Word)
  /-- R248: A pulse with the timer's GID starts it at the pulse stamp plus SOFS. -/
  | timerGlobalStart (T i : Nat)
  /-- R248: A timer reaches its start instant S and pulses START. -/
  | timerStart (T i : Nat)
  /-- R249: The timer value becomes CMP and MATCH is pulsed. -/
  | timerMatch (T i : Nat)
  /-- R249: The timer wraps and WRAP is pulsed. -/
  | timerWrap (T i : Nat)
  /-- R249: TMR_CTL.STOP freezes the timer at the write's arrival. -/
  | timerStop (m T i : Nat)
  /-- R251: A read of TMR_CTL.SLEPT returns the count of matches passed in sleep and clears it. -/
  | sleptRead (m T i : Nat)
  /-- R262: A trip input changes to its asserted level and starts its FILT qualification. -/
  | tripInputTransition (i : Nat) (level : Bool) (t : Nat)
  /-- R264: At t_q the trip latches TRIPPED and sets its cause bit on every masked channel. -/
  | trip (i : Nat)
  /-- R263: At the end of a blanking window, a held assertion trips or is ignored as BLANKED. -/
  | blankWindowEnd (i : Nat)
  /-- R265: TRIP_CTL.CLEAR clears a trip whose input is no longer asserted, or it is refused. -/
  | tripClear (m i : Nat)
  /-- R264: A read of TRIP_CNT returns the trip and blanked counts and clears them. -/
  | tripCntRead (m i : Nat)
  /-- R258: At t_c + Λ the pin takes the level that SAFE gives. -/
  | safeLevelApply (pc : Nat)
  /-- R260: 24 ns after the exit arrival, the channel resumes its mode. -/
  | channelResume (pc : Nat)
  /-- R266: The hearth stamps the stop of the engine and sets cause 6 or 7 on the chosen channels. -/
  | engineLossStamp (T : Nat)
  /-- R271: AX_CMD.GO plans a move, or it is refused with a result. -/
  | axisGo (m a : Nat) (v : Word)
  /-- R275: AX_CMD.HOME_GO starts a homing seek, or it is refused. -/
  | homeGo (m a : Nat) (v : Word)
  /-- R272: AX_CMD.STOP shortens the move to a ramp-down, and acts as ABORT in HOME_SEEK. -/
  | axisStop (m a : Nat) (v : Word)
  /-- R272: AX_CMD.ABORT places no further step. -/
  | axisAbort (m a : Nat) (v : Word)
  /-- R274: AX_CMD.CLR clears chatter and hard stop when the axis is quiet, or it is refused. -/
  | axisClr (m a : Nat) (v : Word)
  /-- R271: The direction pin changes 24 ns after GO arrives. -/
  | dirEdge (a : Nat)
  /-- R269: A step pulse is placed and AX_POS changes, ending the move at its last step or at HMAX. -/
  | stepPulse (a : Nat)
  /-- R273: A limit turns active at t_q and stops or hard-stops the axis. -/
  | limitQualified (pc : Nat)
  /-- R275: HOME turns active in HOME_SEEK, which sets AX_POS to HPOS and HOMED. -/
  | homeFound (a : Nat)
  /-- R281: A member's demand begins and its pull-in is scheduled after the previous one. -/
  | groupDemandStart (g k : Nat)
  /-- R280: A member's demand ends, and a demand whose pull-in never began is dropped. -/
  | groupDemandEnd (g k : Nat)
  /-- R282: A member's pull-in ends and chopping at HOLD_DUTY begins. -/
  | pullInEnd (g k : Nat)
  /-- R282: A member starts a hold chopping period. -/
  | holdChop (g k : Nat)
  /-- R290: An encoder stamp reaches its angle unit and updates the count, state, estimate and output schedule. It names the stamp: the
  line, its level and instant, and whether another was lost behind it (R289). -/
  | encoderEdge (u line : Nat) (level : Bool) (t : Nat) (overrun : Bool)
  /-- R297: No edge for STALL_T holds the angle, sets STALL and pulses. -/
  | stallTimeout (u : Nat)
  /-- R300: At t_p an output entry places its level on its pin and may repeat. -/
  | outputFire (u out : Nat)
  /-- R299: A write of AU_Q2 inserts an entry into an output queue, or it is refused. -/
  | angleQueuePush (m u out : Nat) (v : Word)
  /-- R302: AU_QSTAT.FLUSH discards an output's entries. -/
  | angleQueueFlush (m u out : Nat)
  /-- R293: A write of AU_SETC1 arms the count to be set at the next edge. -/
  | setcArm (m u : Nat) (v : Word)
  /-- R293: AU_CTL.RESYNC forces a loss with cause RESYNC. -/
  | angleResync (m u : Nat)
  /-- R296: A read of AU_POS0 latches the estimate, speed and instant for the reading master. -/
  | anglePosRead (m u : Nat)
  /-- R304: At t_e + HOLD_MAX − 2 µs each unit of the set freezes its edges and states its position at t_e. -/
  | exposureFreeze (u : Nat)
  /-- R305: At t_e + HOLD_MAX the leader injects the angle packet into FLOWCH. -/
  | anglePacketInject (u : Nat)
  /-- R387: A tile controller accepts a pulse, places it in the inbox and forwards any host copy. -/
  | tilePulseAccept (T : Nat)
  /-- R326: The engine chooses an inbox entry by domain arbitration and starts its routine. -/
  | dispatch (T : Nat)
  /-- R319: The microword NOP does nothing. -/
  | nop (T : Nat)
  /-- R319: The microword MOV copies operand b to the destination. -/
  | mov (T : Nat)
  /-- R319: The microword ADD adds a and b. -/
  | add (T : Nat)
  /-- R319: The microword SUB subtracts b from a. -/
  | sub (T : Nat)
  /-- R319: The microword AND forms the bitwise and. -/
  | and (T : Nat)
  /-- R319: The microword OR forms the bitwise or. -/
  | or (T : Nat)
  /-- R319: The microword XOR forms the bitwise exclusive or. -/
  | xor (T : Nat)
  /-- R319: The microword SHL shifts left. -/
  | shl (T : Nat)
  /-- R319: The microword SHR shifts logically right. -/
  | shr (T : Nat)
  /-- R319: The microword SAR shifts arithmetically right. -/
  | sar (T : Nat)
  /-- R319: The microword MUL gives the low 64 bits of the product. -/
  | mul (T : Nat)
  /-- R319: The microword MULH gives the high 64 bits of the unsigned product. -/
  | mulh (T : Nat)
  /-- R319: The microword EXT extracts a bit field. -/
  | ext (T : Nat)
  /-- R319: The microword INS inserts a bit field. -/
  | ins (T : Nat)
  /-- R319: The microword FFS finds the lowest set bit. -/
  | ffs (T : Nat)
  /-- R319: The microword CMP sets the flags of a − b. -/
  | cmp (T : Nat)
  /-- R319: The microword TCMP compares two times by modular difference. -/
  | tcmp (T : Nat)
  /-- R319: The microword TNOW reads the counter as Short Time. -/
  | tnow (T : Nat)
  /-- R319: The microword CALL pushes NXT and continues at ALT. -/
  | call (T : Nat)
  /-- R319: The microword RET continues at the popped address. -/
  | ret (T : Nat)
  /-- R319: The microword JX jumps to a computed address. -/
  | jx (T : Nat)
  /-- R319: The microword WAITEV waits for all tags and ends the routine, or ends INIT and brings the tile online. -/
  | waitev (T : Nat)
  /-- R329: The microword WAITT waits until a counter instant, or traps WAIT_RANGE. -/
  | waitt (T : Nat)
  /-- R319: The microword WAITM waits for the named tags. -/
  | waitm (T : Nat)
  /-- R319: The microword TRAP raises a software trap. -/
  | trap (T : Nat)
  /-- R331: The microword RETT restores state from the trap frame and continues at RPC. -/
  | rett (T : Nat)
  /-- R323: The microword RDS reads a special register. -/
  | rds (T : Nat)
  /-- R323: The microword WRS writes a special register. -/
  | wrs (T : Nat)
  /-- R320: The microword LD loads from the pantry under the window checks. -/
  | ld (T : Nat)
  /-- R320: The microword ST stores to the pantry under the window checks. -/
  | st (T : Nat)
  /-- R320: The microword LDC loads from the context block. -/
  | ldc (T : Nat)
  /-- R320: The microword STC stores to the context block. -/
  | stc (T : Nat)
  /-- R319: The microword XADD performs an atomic fetch-and-add in the pantry. -/
  | xadd (T : Nat)
  /-- R321: The microword MRD starts a transfer from the media store to the pantry on a tag. -/
  | mrd (T : Nat)
  /-- R321: The microword MWR starts a transfer from the pantry to the media store on a tag. -/
  | mwr (T : Nat)
  /-- R367: The microword BALLOC allocates a buffer handle from a pool. -/
  | balloc (T : Nat)
  /-- R368: The microword BFREE frees a handle under the tests of the free table. -/
  | bfree (T : Nat)
  /-- R319: The microword EMIT emits a pulse with the engine's ID. -/
  | emit (T : Nat)
  /-- R319: The microword PUSHQ pushes an edge-queue entry to a pin channel. -/
  | pushq (T : Nat)
  /-- R319: The microword PUSHA pushes an entry to an angle-unit output queue. -/
  | pusha (T : Nat)
  /-- R321: The microword REGW writes an immediate register of its domain. -/
  | regw (T : Nat)
  /-- R321: The microword REGR reads a BAR0 register. -/
  | regr (T : Nat)
  /-- R312: A waiting word's instant is reached or its tags complete, and the engine returns to RUN. -/
  | waitEnd (T : Nat)
  /-- R322: A media-store transfer on a tag completes. -/
  | transferComplete (T tag : Nat)
  /-- R328: A dispatch completing SLICE words ends, and SLICE_OVER is counted. -/
  | sliceOver (T : Nat)
  /-- R328: A handler's 256th word without RETT stops the engine with DOUBLE. -/
  | trapHandlerLimit (T : Nat)
  /-- R347: A dispatch that has held the engine for TURN ns ends at its next word completion. -/
  | turnExpiry (T : Nat)
  /-- R332: TENG_DBG.HALT halts the engine when the word in progress completes. -/
  | engineHalt (m T : Nat)
  /-- R312: TENG_DBG.RESUME returns a halted engine to its state at the halt. -/
  | engineResume (m T : Nat)
  /-- R312: TENG_DBG.STEP runs one word, or makes one dispatch, while halted. -/
  | engineStep (m T : Nat)
  /-- R332: A write of TENG_DBGV1 writes the selected item while the engine is halted. -/
  | debugValueWrite (m T : Nat) (v : Word)
  /-- R335: TENG_LDCMD.LOAD resets the tile and queues an image load. -/
  | engineLoad (m T : Nat)
  /-- R335: TENG_LDCMD.PATCH resets the tile and queues a patch load. -/
  | enginePatch (m T : Nat)
  /-- R335: The device serves the next queued load. -/
  | loadStart
  /-- R334: A load's checks end, and the image is written and INIT started, or RESULT is set and the tile stays offline. -/
  | loadEnd (T : Nat)
  /-- R355: OLD's model state reaches NEW, which processes its held packets in stamp order. -/
  | migrationHandoff (old : Nat)
  /-- R356: OLD's sequence counter value reaches the new egress channel. -/
  | migSeqHandoff (old : Nat)
  /-- R363: QMEM_BANK.GIVE hands a bank toward a target domain through SCRUBBING, or it is refused. -/
  | bankGive (m b : Nat) (v : Word)
  /-- R364: The bank becomes held by TARGET and BANK_DONE is pulsed. -/
  | scrubComplete (b : Nat)
  /-- R372: QMEM_MTCMD.GO starts a bank test, or it is discarded. -/
  | bankTestGo (m q : Nat) (v : Word)
  /-- R372: A bank test ends with its result and pulses TEST_END. -/
  | bankTestEnd (q : Nat) (fails : List Nat)
  /-- R372: TPAN_MTCMD.GO starts a pantry test, or it is discarded. -/
  | pantryTestGo (m T : Nat) (v : Word)
  /-- R372: A pantry test ends with its result and pulses TEST_END. -/
  | pantryTestEnd (T : Nat) (fails : List Nat)
  /-- R371: A read of TPAN_PDATA0 reads the pantry word at PADDR into the master's latch. -/
  | pantryRead (m T : Nat)
  /-- R371: A write of TPAN_PDATA1 writes one pantry word when it qualifies. -/
  | pantryWrite (m T : Nat) (v : Word)
  /-- R362: A read of QMEM_CONF returns a client's store wait count and clears it. -/
  | qmemConfRead (m q c : Nat)
  /-- R368: A read of POOL_F0 or POOL_F1 returns the free fault counts and clears them. -/
  | poolFaultRead (m q P w : Nat)
  /-- R369: A read of TPAN_CONF returns the pantry wait counts and clears them. -/
  | tpanConfRead (m T : Nat)
  /-- R378: DMA_CMD.RUN starts the channel's program at DMA_PROG. -/
  | dmaRun (m c : Nat)
  /-- R378: DMA_CMD.STOP ends the channel with STOPPED after its writes in flight. -/
  | dmaStop (m c : Nat)
  /-- R379: DMA_CMD.REGGO performs one register-mode move. -/
  | dmaReggo (m c : Nat)
  /-- R375: The instruction MOVE checks and starts a strided copy. -/
  | dmaMove (c : Nat)
  /-- R376: The last write of a MOVE is acknowledged and the program continues. -/
  | dmaMoveComplete (c : Nat)
  /-- R375: The instruction LOOP loads, decrements or clears a counter and jumps or falls through. -/
  | dmaLoop (c : Nat)
  /-- R375: The instruction WAIT holds the channel until a time, a pulse or a delay. -/
  | dmaWait (c : Nat)
  /-- R376: A DMA WAIT's condition holds, or its timeout faults the channel. -/
  | dmaWaitEnd (c : Nat)
  /-- R375: The instruction SIGNAL waits for earlier write responses and pulses SIGNAL n. -/
  | dmaSignal (c : Nat)
  /-- R375: The instruction END waits for responses, stores the check value, pulses DONE and stops. -/
  | dmaEnd (c : Nat)
  /-- R383: A read of HLFL_E0 moves the head log entry into the master's latch. -/
  | lateFaultLogPop (m : Nat)
  /-- R383: A read of HLFL_LOST returns the discarded log entry count and clears it. -/
  | hlflLostRead (m : Nat)
  /-- R382: A read of HLFL_ORIG returns a master's late-fault count and clears it. -/
  | hlflOrigRead (m who : Nat)
  /-- R391: A quadrant controller accepts a pulse and sends, coalesces or holds its MSI-X message. -/
  | quadrantPulseAccept (q : Nat)
  /-- R390: The house controller accepts a house pulse and delivers it by its domain word. -/
  | housePulseAccept
  /-- R394: A privileged pulse is sent at once to every enabled function of PMASK. -/
  | privilegedPulse
  /-- R391: A coalescing window ends and any pending message is sent. -/
  | maskWindowEnd (ctl dom cls : Nat)
  /-- R391: A function of FMASK becomes enabled and a WAITING class sends its message. -/
  | functionEnable (f : Nat) (c : FnControl) (msix : Bool)
  /-- R393: An MSI-X vector is unmasked and its pending message is sent. -/
  | vectorUnmask (f : Nat) (x : TableWrite)
  /-- R389: A read of TIRQ_DROP returns the discarded engine copies and clears them. -/
  | tirqDropRead (m T : Nat)
  /-- R391: A read of HIRQ_MSGS or HIRQ_NOTGT returns its count and clears it. -/
  | hirqCountRead (m : Nat) (notgt : Bool)
  /-- R400: CVU_CMD.GO starts a scan, or it is discarded while a scan runs. -/
  | cvuGo (m c : Nat)
  /-- R400: CVU_CMD.STOP ends a scan with STOPPED. -/
  | cvuStop (m c : Nat)
  /-- R400: An EVERY_N or REPEAT trigger starts a scan after the guard pass, or counts SCAN_OVERRUN. -/
  | scanStart (c : Nat)
  /-- R401: A scan ends, stores and compares its value, and pulses SCAN_DONE, MISMATCH or FAULT. -/
  | scanEnd (c : Nat)
  /-- R412: The Zynjo link reaches UP and resumes replay from the twin's ACK. -/
  | zynLinkUp (twinSideB : Bool) (ack lanes : Nat)
  /-- R408: The loss of any lane takes the Zynjo link DOWN. -/
  | zynLinkDown (lanes : Nat)
  /-- R412: After 1 ms DOWN the replay buffer is flushed, with late faults and read failures. -/
  | linkDownFlush
  /-- R414: A HEARTBEAT flit is sent in the first slot after each whole µs. -/
  | heartbeatSend
  /-- R416: At each whole µs a missing heartbeat is counted, and the third miss in JOINED makes the pair SUSPECT. -/
  | heartbeatTick
  /-- R415: A heartbeat gives an offset and round-trip sample and ends SUSPECT or SEVERED. -/
  | heartbeatReceive (bytes : List Byte) (t : Nat)
  /-- R417: ZY_HB_IN shows no edge for 3 µs, and a SEVERED pair takes over at once. -/
  | hbWireSilent
  /-- R411: A NAK makes the sender resend from the named SEQ, or flush when it is gone. -/
  | nakReceive (seq : Nat)
  /-- R431: An ACCESS flit is applied as an M7 access, with the reply or fault sent back. -/
  | accessReceive (seq ack : Nat) (a : AccessFlit)
  /-- R431: A RESPONSE completes the master's mailbox read. -/
  | responseReceive (seq ack : Nat) (m result : Nat) (data : Word)
  /-- R426: A PREPARED with group digests is held, and side A decides or sends TWIN_FAIL. -/
  | preparedReceive (seq ack : Nat) (dom target id : Nat) (digests : List Nat)
  /-- R120: Side B marks its commit agreed and sends DECIDE_ACK. -/
  | decideReceive (seq ack : Nat) (dom target : Nat)
  /-- R120: Side A marks its commit agreed. -/
  | decideAckReceive (seq ack : Nat) (dom target : Nat)
  /-- R120: A twin REFUSED ends the matching commit with TWIN_NO_AGREE. -/
  | refusedReceive (seq ack : Nat) (dom target : Nat)
  /-- R120: A twin WITHDRAWN ends the matching commit with TWIN_NO_AGREE. -/
  | withdrawnReceive (seq ack : Nat) (dom target : Nat)
  /-- R426: Side B ends its commit with CHECK_FAIL and the twin rule code. -/
  | twinFailReceive (seq ack : Nat) (dom target rule : Nat)
  /-- R426: An ABORT before the target boundary ends the matching commit with POWER_FAIL_ABORT. -/
  | abortReceive (seq ack : Nat) (dom target : Nat)
  /-- R429: The twin's digests are compared and ZYN_DIVMAP is updated. -/
  | digestReceive (seq ack : Nat) (epoch : Nat) (doms : List Nat)
  /-- R418: A PIN flit carries a mirrored item to be applied at its instant. -/
  | pinReceive (seq ack : Nat) (at_ : Nat) (item : PinItem)
  /-- R418: The shadowing side applies a mirrored item at its counter value, or late at arrival. -/
  | mirrorApply
  /-- R425: A cross-fed packet enters path B of its channel, or it is discarded. -/
  | xfeedReceive (seq ack : Nat) (fc : Nat) (f : Frame)
  /-- R432: A FAULT flit makes the originator count the late fault. -/
  | faultReceive (seq ack : Nat) (m num cause addr : Nat)
  /-- R433: A JOIN_REQ is taken by a joining side, or held for 1 ms. -/
  | joinReqReceive (seq ack : Nat) (ej : Nat)
  /-- R433: The twin's JOIN_OK and pin state are held for installation at t_j. -/
  | joinOkReceive (seq ack : Nat) (items : List PinItem)
  /-- R417: Pin state from the twin is installed for the pairs it drives. -/
  | pinStateReceive (seq ack : Nat) (items : List PinItem)
  /-- R417: A LEAVE from the twin returns the pair to SOLO. -/
  | leaveReceive (seq ack : Nat)
  /-- R422: A planned handover is acknowledged when it arrives in time. -/
  | handoverReceive (seq ack : Nat) (th : Nat) (mask : List Nat)
  /-- R422: The yielding side holds the ACK for its handover instant. -/
  | handoverAckReceive (seq ack : Nat) (th : Nat)
  /-- R411: A read of a Zynjo count register returns it and clears it. -/
  | zynCountRead (m w : Nat)
  /-- R417: ZYN_CTL.JOIN sends JOIN_REQ and starts the join, or it is refused. -/
  | join (m : Nat)
  /-- R433: No twin JOIN_REQ within 1 ms ends the join with TIMEOUT. -/
  | joinDeadline
  /-- R433: At t_j both sides install the pin state and become JOINED, or end with TIMEOUT. -/
  | joinInstant
  /-- R417: ZYN_CTL.LEAVE sends LEAVE and returns the pair to SOLO. -/
  | leave (m : Nat)
  /-- R419: ZYN_CTL.TAKE schedules this side to drive every paired channel. -/
  | take (m : Nat)
  /-- R419: At the whole µs chosen, this side begins to drive the paired channels. -/
  | takeApply
  /-- R422: ZYN_CTL.YIELD_ALL sends HANDOVER for every pair this side drives. -/
  | yieldAll (m : Nat)
  /-- R422: ZYN_CTL.HANDBACK sends HANDOVER for the pairs whose PRIMARY is the twin. -/
  | handback (m : Nat)
  /-- R422: At t_h the drive passes, or it stays when no ACK was held. -/
  | handoverInstant
  /-- R420: At t_k the pair enters ALONE and takes over the twin's pins. -/
  | takeover
  /-- R423: Side B yields channels that both sides drive. -/
  | conflictRelease
  /-- R431: ZYN_MGO.WRITE sends an ACCESS write to the twin. -/
  | mailboxWrite (m : Nat)
  /-- R431: ZYN_MGO.READ sends an ACCESS read to the twin. -/
  | mailboxRead (m : Nat)
  /-- R431: A mailbox read with no response within 100 µs ends with TIMEOUT. -/
  | mailboxTimeout (m : Nat)
  /-- R49: Settling completes, SETTLING clears and 0x3110 is emitted. -/
  | modeSettled
  /-- R440: A write of HCLK_MSEL changes the MPLL source or frequency, or it is refused. -/
  | mpllSelect (m : Nat) (v : Word)
  /-- R440: An MFREQ glide completes. -/
  | mfreqGlideEnd
  /-- R438: A 1 ms frequency gate ends and updates READY. -/
  | clockGate (src : Nat) (ppm : Int) (first : Bool)
  /-- R438: 1 µs without an edge drops a source's READY. -/
  | clockEdgeLoss (src : Nat)
  /-- R439: The OCXO start delay ends and its gates begin. -/
  | ocxoDelayEnd
  /-- R445: HPWR_CTL.SLEEP requests SLEEP at the next boundary. -/
  | sleepRequest (m : Nat)
  /-- R445: HPWR_CTL.DEEP requests DEEP SLEEP at the next boundary. -/
  | deepRequest (m : Nat)
  /-- R445: HPWR_CTL.WAKE wakes the device from SLEEP. -/
  | wakeRequest (m : Nat)
  /-- R447: After publication, the device aborts commits, enters SLOW_HOLD, releases pins, drops links and lowers VDD_CORE. -/
  | deepSleepEntry
  /-- R445: WAKE_N falling wakes the device from SLEEP or DEEP SLEEP. -/
  | wakeNFall (makeup : Nat)
  /-- R445: The cellar count reaches HPWR_ALARM and wakes the device from DEEP SLEEP. -/
  | cellarAlarm (makeup : Nat)
  /-- R449: Every 50 µs the speed monitors are compared and a new VDD_CORE is requested. -/
  | avsTick (ok : Bool) (want readBack : Nat) (slow : Bool)
  /-- R451: Every 100 µs Tj is read, with WARN, OUT_OF_SPEC and thermal trip handled. -/
  | thermalSample (tj : Int)
  /-- R455: Every 1 µs the governor starts the queued activations that fit BUDGET. -/
  | governorTick
  /-- R457: A read of HGOV_STAT, HGOV_DMAX or HGOV_DSUM returns its count and clears it. -/
  | governorCountRead (m w : Nat)
  /-- R458: VDD_CELLAR rising resets everything, the cellar included. -/
  | powerOnReset
  /-- R459: RST_N low enters device reset. -/
  | rstNAssert
  /-- R458: HRST_CTL.DEVICE resets the device. -/
  | deviceResetCmd (m : Nat)
  /-- R464: At the release of device reset, the straps are sampled, the MPLL and OTP start and the boot steward runs. -/
  | deviceResetRelease (st : Straps) (otp : List Word) (otpBad : List Nat) (flash : BootFlash)
  /-- R460: HRST_CTL.QUAD resets a quadrant. -/
  | quadResetCmd (m mask : Nat)
  /-- R460: A quadrant reset completes and emits 0x3502. -/
  | quadResetComplete (q : Nat)
  /-- R461: HRST_TILE.GO resets a tile. -/
  | tileResetCmd (m T : Nat)
  /-- R461: The engine enters OFFLINE after its word completes, and 0x3502 is emitted. -/
  | tileResetComplete (T : Nat)
  /-- R472: HOTP_CMD.PROG programs an OTP word, or it is refused. -/
  | otpProgram (m : Nat)
  /-- R472: An OTP program ends, done or failed, and emits 0x3501. -/
  | otpProgramEnd (valid : Bool)
  /-- R484: A core, SRAM or analog supply below its threshold holds the device in reset and closes the hallway. -/
  | supplyFail (rail : Nat)
  /-- R484: A pin bank below 80 % releases its drivers and asserts its trips. -/
  | pinBankSupplyLoss (bank : Nat)
  /-- R437: An SPLL gains or loses lock on its REFCLK, which starts or stops the lanes of its port octets and updates HCLK_STAT.SPLL_LOCK. -/
  | spllLockChange (q : Nat) (locked : Bool)
  /-- R130: The PCIe link completes training and HPCI_LINK shows its speed and width. -/
  | pcieLinkUp (speed width : Nat)
  /-- R135: A malformed TLP, receiver overflow or flow-control protocol error is handled as the base specification requires, with fatal AER logging and 0x3409. -/
  | malformedTlp (f bit : Nat)
  /-- R484: A VDDIO_PB bank rises back into range, so its drivers may drive again, its inputs are stamped again and its trips are no longer forced asserted. -/
  | pinBankSupplyReturn (bank : Nat)
  /-- R411: A flit with a bad CRC, an unexpected SEQ or a reserved type is discarded, counted, and for sequenced flits answered with a NAK naming the SEQ expected. -/
  | sequencedFlitDiscard (seq : Nat) (kind : Nat)
deriving DecidableEq, Repr

end Sys2Proof
end

