-- ==== Sys2Proof/WellFormed.lean ====
section
/-! DEFINITION. When a command can be spelled at all: every operand that names a resource names one the device has (R26, R27,
R29), an address is aligned and in its space, a sequence number fits its field. -/
namespace Sys2Proof

/-- The ownership domains: rooms 0 to 255 and the house, 0x100 (R139). -/
def domOk (d : Nat) : Bool := decide (d ≤ 0x100)

/-- The command is well formed. -/
def Instr.wf : Instr → Bool
  | .hearthRun m _ => decide (m < 8)
  | .tsetGo m _ => decide (m < 8)
  | .tsetLoad => true
  | .stepGo m _ => decide (m < 8)
  | .slewGo m _ => decide (m < 8)
  | .phaseStepApply => true
  | .slewComplete => true
  | .ftrimWrite m _ => decide (m < 8)
  | .nowRead m => decide (m < 8)
  | .sourceSelect m _ => decide (m < 8)
  | .hsrcCfgWrite m _ => decide (m < 8)
  | .tpllLock => true
  | .sourceReadyLoss src => decide (src < 4)
  | .sourceReadyGain src => decide (src < 4)
  | .rcoTrimGate _ => true
  | .trimSourceLoss => true
  | .hrcoCtrlWrite m _ => decide (m < 8)
  | .captureFifoPop m => decide (m < 8)
  | .capLostRead m => decide (m < 8)
  | .refFrameMark n fmt _ _ => decide (n < 4) && decide (fmt < 14)
  | .refMarkMissing n => decide (n < 4)
  | .ppsInEdge _ => true
  | .refOutputEdge n => decide (n < 4)
  | .ppsOutputEdge _ => true
  | .epochRead m => decide (m < 8)
  | .boundary => true
  | .ringMarkSend => true
  | .ringFrameReceive port _ _ => decide (port < 2)
  | .ringLinkChange port _ => decide (port < 2)
  | .lockInstant => true
  | .drainClose => true
  | .publicationComplete => true
  | .snapshotRead m slot off len => decide (m < 8) && decide (slot < 4) && decide (off % 4 = 0) && decide (off < 2 ^ 24) && decide (len % 4 = 0) && decide (0 < len) && decide (off % 4096 + len ≤ 4096)
  | .snapshotPin m => decide (m < 8)
  | .snapshotUnpin m => decide (m < 8)
  | .straddleRead m => decide (m < 8)
  | .commit m dom _ => decide (m < 8) && domOk dom
  | .withdraw m dom => decide (m < 8) && domOk dom
  | .checkComplete dom => domOk dom
  | .pfwAssert _ => true
  | .pfwDeassert _ => true
  | .pfwWindowEnd => true
  | .saveGo m => decide (m < 8)
  | .saveComplete _ => true
  | .lfack m => decide (m < 8)
  | .registerWrite m addr _ => decide (m < 8) && decide (addr % 4 = 0) && decide (addr < 2 ^ 27)
  | .mediaStoreWrite m addr _ => decide (m < 8) && decide (addr < 2 ^ 29)
  | .mediaStoreRead m addr len => decide (m < 8) && decide (addr < 2 ^ 29) && decide (0 < len)
  | .unsupportedTlp f => decide (f < 6)
  | .poisonedWrite f _ => decide (f < 6)
  | .functionLevelReset f => decide (f < 6)
  | .d3hotToD0 f => decide (f < 6)
  | .pcieConventionalReset => true
  | .svcFrame _ => true
  | .svcFrameAbort => true
  | .hsvcErrRead m => decide (m < 8)
  | .claim m dom prio => decide (m < 8) && domOk dom && decide (prio < 16)
  | .handover m dom target => decide (m < 8) && domOk dom && decide (target < 8)
  | .accept m dom prio => decide (m < 8) && domOk dom && decide (prio < 16)
  | .release m dom => decide (m < 8) && domOk dom
  | .forceLapse m dom => decide (m < 8) && domOk dom
  | .electionEnd dom => domOk dom
  | .handoverDeadline dom => domOk dom
  | .hownWrefusedRead m who => decide (m < 8) && decide (who < 8)
  | .errClr m page => decide (m < 8) && decide (page % 4096 = 0) && decide (page < 2 ^ 26)
  | .evForce m page _ => decide (m < 8) && decide (page % 4096 = 0) && decide (page < 2 ^ 26)
  | .portFrameReceive lane _ => decide (lane < 128)
  | .ingressPacket T _ _ => decide (T < 260)
  | .pathSilent fc path => decide (fc < 32768) && decide (path < 2)
  | .flowResync m fc => decide (m < 8) && decide (fc < 32768)
  | .egressPacket x => decide (x.fc < 32768)
  | .slotDecision fc => decide (fc < 32768)
  | .slotStart fc => decide (fc < 32768)
  | .bindingRelease fc => decide (fc < 32768)
  | .calendarRequest lane => decide (lane < 128)
  | .packetDeparture lane => decide (lane < 128)
  | .hostRxPop m n => decide (m < 8) && decide (n < 16)
  | .hostFree m n _ => decide (m < 8) && decide (n < 16)
  | .hostAlloc m n => decide (m < 8) && decide (n < 16)
  | .hostTransmit m n _ => decide (m < 8) && decide (n < 16)
  | .portLinkChange lane _ => decide (lane < 128)
  | .linkTrainingFail lane => decide (lane < 128)
  | .edgePlacement pc => decide (pc < 256)
  | .edgeRequestArrival pc => decide (pc < 256)
  | .periodStart pc => decide (pc < 256)
  | .waveformSwitch pc => decide (pc < 256)
  | .edgeQueuePush m pc _ => decide (m < 8) && decide (pc < 256)
  | .channelRestart m pc => decide (m < 8) && decide (pc < 256)
  | .channelStop m pc => decide (m < 8) && decide (pc < 256)
  | .qflush m pc => decide (m < 8) && decide (pc < 256)
  | .cntClr m pc => decide (m < 8) && decide (pc < 256)
  | .pwmLoad m pc => decide (m < 8) && decide (pc < 256)
  | .dutyWrite m pc _ => decide (m < 8) && decide (pc < 256)
  | .triggerInstant pc i => decide (pc < 256) && decide (i < 2)
  | .pinInputTransition pc _ _ => decide (pc < 256)
  | .inputQualified pc => decide (pc < 256)
  | .capturePop m pc => decide (m < 8) && decide (pc < 256)
  | .timerArm m T i _ => decide (m < 8) && decide (T < 260) && decide (i < 8)
  | .timerGlobalStart T i => decide (T < 260) && decide (i < 8)
  | .timerStart T i => decide (T < 260) && decide (i < 8)
  | .timerMatch T i => decide (T < 260) && decide (i < 8)
  | .timerWrap T i => decide (T < 260) && decide (i < 8)
  | .timerStop m T i => decide (m < 8) && decide (T < 260) && decide (i < 8)
  | .sleptRead m T i => decide (m < 8) && decide (T < 260) && decide (i < 8)
  | .tripInputTransition i _ _ => decide (i < 16)
  | .trip i => decide (i < 16)
  | .blankWindowEnd i => decide (i < 16)
  | .tripClear m i => decide (m < 8) && decide (i < 16)
  | .tripCntRead m i => decide (m < 8) && decide (i < 16)
  | .safeLevelApply pc => decide (pc < 256)
  | .channelResume pc => decide (pc < 256)
  | .engineLossStamp T => decide (T < 260)
  | .axisGo m a _ => decide (m < 8) && decide (a < 32)
  | .homeGo m a _ => decide (m < 8) && decide (a < 32)
  | .axisStop m a _ => decide (m < 8) && decide (a < 32)
  | .axisAbort m a _ => decide (m < 8) && decide (a < 32)
  | .axisClr m a _ => decide (m < 8) && decide (a < 32)
  | .dirEdge a => decide (a < 32)
  | .stepPulse a => decide (a < 32)
  | .limitQualified pc => decide (pc < 256)
  | .homeFound a => decide (a < 32)
  | .groupDemandStart g k => decide (g < 64) && decide (k < 4)
  | .groupDemandEnd g k => decide (g < 64) && decide (k < 4)
  | .pullInEnd g k => decide (g < 64) && decide (k < 4)
  | .holdChop g k => decide (g < 64) && decide (k < 4)
  | .encoderEdge u line _ _ _ => decide (u < 8) && decide (line < 3)
  | .stallTimeout u => decide (u < 8)
  | .outputFire u out => decide (u < 8) && decide (out < 4)
  | .angleQueuePush m u out _ => decide (m < 8) && decide (u < 8) && decide (out < 4)
  | .angleQueueFlush m u out => decide (m < 8) && decide (u < 8) && decide (out < 4)
  | .setcArm m u _ => decide (m < 8) && decide (u < 8)
  | .angleResync m u => decide (m < 8) && decide (u < 8)
  | .anglePosRead m u => decide (m < 8) && decide (u < 8)
  | .exposureFreeze u => decide (u < 8)
  | .anglePacketInject u => decide (u < 8)
  | .tilePulseAccept T => decide (T < 260)
  | .dispatch T => decide (T < 260)
  | .nop T => decide (T < 260)
  | .mov T => decide (T < 260)
  | .add T => decide (T < 260)
  | .sub T => decide (T < 260)
  | .and T => decide (T < 260)
  | .or T => decide (T < 260)
  | .xor T => decide (T < 260)
  | .shl T => decide (T < 260)
  | .shr T => decide (T < 260)
  | .sar T => decide (T < 260)
  | .mul T => decide (T < 260)
  | .mulh T => decide (T < 260)
  | .ext T => decide (T < 260)
  | .ins T => decide (T < 260)
  | .ffs T => decide (T < 260)
  | .cmp T => decide (T < 260)
  | .tcmp T => decide (T < 260)
  | .tnow T => decide (T < 260)
  | .call T => decide (T < 260)
  | .ret T => decide (T < 260)
  | .jx T => decide (T < 260)
  | .waitev T => decide (T < 260)
  | .waitt T => decide (T < 260)
  | .waitm T => decide (T < 260)
  | .trap T => decide (T < 260)
  | .rett T => decide (T < 260)
  | .rds T => decide (T < 260)
  | .wrs T => decide (T < 260)
  | .ld T => decide (T < 260)
  | .st T => decide (T < 260)
  | .ldc T => decide (T < 260)
  | .stc T => decide (T < 260)
  | .xadd T => decide (T < 260)
  | .mrd T => decide (T < 260)
  | .mwr T => decide (T < 260)
  | .balloc T => decide (T < 260)
  | .bfree T => decide (T < 260)
  | .emit T => decide (T < 260)
  | .pushq T => decide (T < 260)
  | .pusha T => decide (T < 260)
  | .regw T => decide (T < 260)
  | .regr T => decide (T < 260)
  | .waitEnd T => decide (T < 260)
  | .transferComplete T tag => decide (T < 260) && decide (tag < 8)
  | .sliceOver T => decide (T < 260)
  | .trapHandlerLimit T => decide (T < 260)
  | .turnExpiry T => decide (T < 260)
  | .engineHalt m T => decide (m < 8) && decide (T < 260)
  | .engineResume m T => decide (m < 8) && decide (T < 260)
  | .engineStep m T => decide (m < 8) && decide (T < 260)
  | .debugValueWrite m T _ => decide (m < 8) && decide (T < 260)
  | .engineLoad m T => decide (m < 8) && decide (T < 260)
  | .enginePatch m T => decide (m < 8) && decide (T < 260)
  | .loadStart => true
  | .loadEnd T => decide (T < 260)
  | .migrationHandoff old => decide (old < 32768)
  | .migSeqHandoff old => decide (old < 32768)
  | .bankGive m b _ => decide (m < 8) && decide (b < 2048)
  | .scrubComplete b => decide (b < 2048)
  | .bankTestGo m q _ => decide (m < 8) && decide (q < 4)
  | .bankTestEnd q _ => decide (q < 4)
  | .pantryTestGo m T _ => decide (m < 8) && decide (T < 260)
  | .pantryTestEnd T _ => decide (T < 260)
  | .pantryRead m T => decide (m < 8) && decide (T < 260)
  | .pantryWrite m T _ => decide (m < 8) && decide (T < 260)
  | .qmemConfRead m q c => decide (m < 8) && decide (q < 4) && decide (c < 11)
  | .poolFaultRead m q P w => decide (m < 8) && decide (q < 4) && decide (P < 64) && decide (w < 2)
  | .tpanConfRead m T => decide (m < 8) && decide (T < 260)
  | .dmaRun m c => decide (m < 8) && decide (c < 32)
  | .dmaStop m c => decide (m < 8) && decide (c < 32)
  | .dmaReggo m c => decide (m < 8) && decide (c < 32)
  | .dmaMove c => decide (c < 32)
  | .dmaMoveComplete c => decide (c < 32)
  | .dmaLoop c => decide (c < 32)
  | .dmaWait c => decide (c < 32)
  | .dmaWaitEnd c => decide (c < 32)
  | .dmaSignal c => decide (c < 32)
  | .dmaEnd c => decide (c < 32)
  | .lateFaultLogPop m => decide (m < 8)
  | .hlflLostRead m => decide (m < 8)
  | .hlflOrigRead m who => decide (m < 8) && decide (who < 8)
  | .quadrantPulseAccept q => decide (q < 4)
  | .housePulseAccept => true
  | .privilegedPulse => true
  | .maskWindowEnd ctl dom cls => decide (ctl < 5) && domOk dom && decide (cls < 4)
  | .functionEnable f _ _ => decide (f < 6)
  | .vectorUnmask f x => decide (f < 6) && decide (x.dw < 16384)
  | .tirqDropRead m T => decide (m < 8) && decide (T < 260)
  | .hirqCountRead m _ => decide (m < 8)
  | .cvuGo m c => decide (m < 8) && decide (c < 16)
  | .cvuStop m c => decide (m < 8) && decide (c < 16)
  | .scanStart c => decide (c < 16)
  | .scanEnd c => decide (c < 16)
  | .zynLinkUp _ ack lanes => decide (ack < 2 ^ 16) && decide (lanes < 256)
  | .zynLinkDown lanes => decide (lanes < 256)
  | .linkDownFlush => true
  | .heartbeatSend => true
  | .heartbeatTick => true
  | .heartbeatReceive bytes _ => bytes.length == 256
  | .hbWireSilent => true
  | .nakReceive seq => decide (seq < 2 ^ 16)
  | .accessReceive seq ack _ => decide (seq < 2 ^ 16) && decide (ack < 2 ^ 16)
  | .responseReceive seq ack m result _ => decide (seq < 2 ^ 16) && decide (ack < 2 ^ 16) && decide (m < 8) && decide (result < 256)
  | .preparedReceive seq ack dom target _ _ => decide (seq < 2 ^ 16) && decide (ack < 2 ^ 16) && domOk dom && decide (target < 2 ^ 32)
  | .decideReceive seq ack dom target => decide (seq < 2 ^ 16) && decide (ack < 2 ^ 16) && domOk dom && decide (target < 2 ^ 32)
  | .decideAckReceive seq ack dom target => decide (seq < 2 ^ 16) && decide (ack < 2 ^ 16) && domOk dom && decide (target < 2 ^ 32)
  | .refusedReceive seq ack dom target => decide (seq < 2 ^ 16) && decide (ack < 2 ^ 16) && domOk dom && decide (target < 2 ^ 32)
  | .withdrawnReceive seq ack dom target => decide (seq < 2 ^ 16) && decide (ack < 2 ^ 16) && domOk dom && decide (target < 2 ^ 32)
  | .twinFailReceive seq ack dom target _ => decide (seq < 2 ^ 16) && decide (ack < 2 ^ 16) && domOk dom && decide (target < 2 ^ 32)
  | .abortReceive seq ack dom target => decide (seq < 2 ^ 16) && decide (ack < 2 ^ 16) && domOk dom && decide (target < 2 ^ 32)
  | .digestReceive seq ack _ _ => decide (seq < 2 ^ 16) && decide (ack < 2 ^ 16)
  | .pinReceive seq ack _ _ => decide (seq < 2 ^ 16) && decide (ack < 2 ^ 16)
  | .mirrorApply => true
  | .xfeedReceive seq ack fc _ => decide (seq < 2 ^ 16) && decide (ack < 2 ^ 16) && decide (fc < 32768)
  | .faultReceive seq ack m _ _ _ => decide (seq < 2 ^ 16) && decide (ack < 2 ^ 16) && decide (m < 8)
  | .joinReqReceive seq ack _ => decide (seq < 2 ^ 16) && decide (ack < 2 ^ 16)
  | .joinOkReceive seq ack _ => decide (seq < 2 ^ 16) && decide (ack < 2 ^ 16)
  | .pinStateReceive seq ack _ => decide (seq < 2 ^ 16) && decide (ack < 2 ^ 16)
  | .leaveReceive seq ack => decide (seq < 2 ^ 16) && decide (ack < 2 ^ 16)
  | .handoverReceive seq ack _ _ => decide (seq < 2 ^ 16) && decide (ack < 2 ^ 16)
  | .handoverAckReceive seq ack _ => decide (seq < 2 ^ 16) && decide (ack < 2 ^ 16)
  | .zynCountRead m w => decide (m < 8) && decide (w < 6)
  | .join m => decide (m < 8)
  | .joinDeadline => true
  | .joinInstant => true
  | .leave m => decide (m < 8)
  | .take m => decide (m < 8)
  | .takeApply => true
  | .yieldAll m => decide (m < 8)
  | .handback m => decide (m < 8)
  | .handoverInstant => true
  | .takeover => true
  | .conflictRelease => true
  | .mailboxWrite m => decide (m < 8)
  | .mailboxRead m => decide (m < 8)
  | .mailboxTimeout m => decide (m < 8)
  | .modeSettled => true
  | .mpllSelect m _ => decide (m < 8)
  | .mfreqGlideEnd => true
  | .clockGate src _ _ => decide (src < 8)
  | .clockEdgeLoss src => decide (src < 8)
  | .ocxoDelayEnd => true
  | .sleepRequest m => decide (m < 8)
  | .deepRequest m => decide (m < 8)
  | .wakeRequest m => decide (m < 8)
  | .deepSleepEntry => true
  | .wakeNFall _ => true
  | .cellarAlarm _ => true
  | .avsTick _ _ _ _ => true
  | .thermalSample _ => true
  | .governorTick => true
  | .governorCountRead m w => decide (m < 8) && decide (w < 3)
  | .powerOnReset => true
  | .rstNAssert => true
  | .deviceResetCmd m => decide (m < 8)
  | .deviceResetRelease _ _ _ _ => true
  | .quadResetCmd m mask => decide (m < 8) && decide (mask < 16)
  | .quadResetComplete q => decide (q < 4)
  | .tileResetCmd m T => decide (m < 8) && decide (T < 260)
  | .tileResetComplete T => decide (T < 260)
  | .otpProgram m => decide (m < 8)
  | .otpProgramEnd _ => true
  | .supplyFail rail => decide (rail < 8)
  | .pinBankSupplyLoss bank => decide (bank < 16)
  | .spllLockChange q _ => decide (q < 4)
  | .pcieLinkUp speed width => decide (1 ≤ speed) && decide (speed ≤ 5) && [1, 2, 4, 8].contains width
  | .malformedTlp f bit => decide (f < 6) && [13, 17, 18].contains bit
  | .pinBankSupplyReturn bank => decide (bank < 16)
  | .sequencedFlitDiscard seq _ => decide (seq < 2 ^ 16)

end Sys2Proof
end

