-- ==== Sys2Proof/Decode.lean ====
section
/-! DEFINITION. The commands of this block have no encoding: no row of the opcode table gives bits, so no word spells a
command. -/
namespace Sys2Proof

/-- The command a word spells by the table's bits: none, for the table gives no row bits. -/
def decodeTableWord (_nbits _w : Nat) : Option Instr := none

end Sys2Proof
end

