-- ==== Sys2Proof/Config.lean ====
section
/-! DEFINITION. What the spec leaves open and what it takes from named standards: opaque constants that no proof can
evaluate. A free value is one of these applied to a counter of the state or to the operands. -/
namespace Sys2Proof.Config

/-- A free 64-bit value (log entry 2): what a read the spec leaves open returns. -/
opaque freeValue : Nat → BitVec 64

/-- The Vendor ID of Tchiavaty Microsystems (R130), which the spec names and does not give (log entry 99). -/
opaque vendorId : BitVec 16

/-- SHA-384 over octets (R334, check 4): a function named, not described, by the spec (log entry 4). -/
opaque sha384 : List Byte → List Byte

/-- ECDSA P-384 verification of a signature under a public key (R334, check 5; log entry 4). -/
opaque ecdsaOk : List Byte → List Byte → List Byte → Bool

/-- AES-256-GCM decryption under key, IV and additional data: the plaintext when the tag verifies (R334, check 6; log
entry 4). -/
opaque gcmOpen : List Byte → List Byte → List Byte → List Byte → List Byte → Option (List Byte)

end Sys2Proof.Config
end

