-- ==== Sys2Proof/Machine/Regs.lean ====
section
/-! DEFINITION. The register names of the manual: for every register of BAR0 its identifier, its address as a
function of the instance (R157, R158 and the register tables of the chapters), its fields, the bits of each access
type (R20) and its reset value (R24). The tables follow the register tables of the spec row by row. -/
namespace Sys2Proof.Machine

/-- A field of a register: its lowest bit and its width. -/
structure Fld where
  lo : Nat
  w : Nat
deriving DecidableEq, Repr

/-- Every register the manual names, one constructor per register table heading. -/
inductive RegId where
  | HCFG_MODE | HTIM_CTRL | HTIM_STAT | HTIM_NOW | HTIM_TSET | HTIM_PSTEP | HTIM_FTRIM | HTIM_SLEW | HTIM_UTC
  | HSRC_CFG | HSRC_SEL | HSRC_STAT | HRCO_CTRL | HRCO_STAT | HPTP_CFG | HPTP_LAT_IN | HPTP_LAT_OUT
  | HCAP_CFG | HCAP_E | HCAP_LEVEL | HCAP_LOST | HREF_IN | HREF_OUT | HREF_OFS | HREF_PPS | HREF_PPSOFS
  | HREF_INSTAT | HEPC_CFG | HEPC_NUM | HEPC_DEN | HEPC_EPOCH | HEPC_BND | HEPC_NXT | HRING_CFG | HRING_LDLY
  | HRING_STAT | HSNP_CFG | HSNP_CUR | HSNP_CUREPOCH | HSNP_SLOTS | HSNP_PIN | HSNP_PINEPOCH | HSNP_STRADDLE
  | HCOM_CFG | HCOM_TARGET | HCOM_CMD | HCOM_DSEL | HCOM_STAT | HCOM_LASTEPOCH | HCOM_CHECK | HCOM_MYSTAT
  | HCOM_FLOG0 | HCOM_FLOG1 | HCOM_PFW | HCOM_SAVE | HCOM_LFACK | PG_ID | PG_REV | PG_STATE | PG_CTRL
  | EV_STAT | EV_EN | EV_FORCE | ERR_CNT | OWNER_VIEW | LH_EPOCH | LH_COMMIT | LH_ASSIGN | HCFG_DEVID
  | HCFG_SERIAL | HOWN_CFG | HOWN_REQ | HOWN_MYSTAT | HOWN_DSEL | HOWN_STAT | HOWN_WREFUSED | HOWN_ALIVE
  | HPCI_LINK | HPCI_FUNC | HSVC_ERR | FCH_MODE | FCH_EVMASK | FCH_POOL | FCH_KEYP | FCH_KEYU | FCH_KEYS
  | FCH_KEYIP | FCH_MERGE | FCH_RTP | FCH_NPKT | FCH_CMAX | FCH_TDRAIN | FCH_TRS | FCH_FRAC | FCH_TROFS
  | FCH_HIST | FCH_POL0 | FCH_POL1 | FCH_CTL | FCH_ESRC | FCH_EHDR | FCH_EDMAC | FCH_ESMAC | FCH_EDIP
  | FCH_ESIP | FCH_EUDP | FCH_ESSRC | FCH_ESEQ0 | FCH_ETSOFS | FCH_EPER | FCH_EPHASE | FCH_EDLY | FCH_ETROFS
  | FCH_ETRS | FCH_ETRSFR | FCH_EPPS | FCH_EBPS | FCH_ESLIP | PRT_CFG | PRT_SUB | PRT_HCFG | PRT_HRX0
  | PRT_HRX1 | PRT_HRX2 | PRT_HFREE | PRT_HALLOC | PRT_HTX0 | PRT_HTX1 | PRT_HQSTAT | PRT_LANE | PRT_LINK
  | PCH_MODE | PCH_EVMASK | PCH_LATO | PCH_LATI | PCH_PNUM0 | PCH_PNUM1 | PCH_PHASE | PCH_PHFR | PCH_CMPA
  | PCH_CMPB | PCH_CMPFR | PCH_COUNT | PCH_PWM | PCH_PWMW | PCH_DUTY0 | PCH_TRIG | PCH_TOUT | PCH_IN
  | PCH_CCMP | PCH_DUTY | PCH_EQ0 | PCH_EQ1 | PCH_EQ2 | PCH_CTL | PCH_STAT | PCH_CNT0 | PCH_CNT1 | PCH_CAP0
  | PCH_CAP1 | TMR_CFG | TMR_TICK | TMR_TOP0 | TMR_INIT0 | TMR_HI | TMR_CMP0 | TMR_CMP1 | TMR_SOFS | TMR_VAL0
  | TMR_VAL1 | TMR_ARM0 | TMR_ARM1 | TMR_CTL | PCH_SAFE | PCH_LIM | PCH_GPULL | PCH_GHOLD | PCH_SAFEST
  | TRIP_CFG | TRIP_BLK | TRIP_MASK | AX_PINS | AX_OPT | AX_PHOME | AX_HMAX | AX_HPOS | AX_TIME | AX_DRV
  | GRP_CFG | GRP_MEM | GRP_HOLDP | TRIP_CTL | TRIP_CNT | AX_STEPS | AX_PCRU | AX_PSTA | AX_T | AX_CMD
  | AX_STAT | AX_POS | GRP_STAT | AU_CFG | AU_GEOM | AU_TTADDR | AU_ZCOUNT | AU_TRK | AU_CHK | AU_STALL
  | AU_PAIR | AU_GEAR | AU_PHLIM | AU_EXP | AU_EXPOFS | AU_HOLD | AU_RTP | AU_SSRC | AU_OUT | AU_STAT
  | AU_POS0 | AU_POS1 | AU_POS2 | AU_POS3 | AU_SETC0 | AU_SETC1 | AU_CTL | AU_Q0 | AU_Q1 | AU_Q2 | AU_QSTAT
  | TENG_CFG | TENG_STAT | TENG_IMG0 | TENG_IMG1 | TENG_LDADDR | TENG_LDCMD | TENG_LDSTAT | TENG_DBG
  | TENG_DBGSEL | TENG_DBGV0 | TENG_DBGV1 | TENG_INBOX | HRAS_SHA | HRAS_SHB | HRAS_CON0 | HRAS_CON1
  | HRAS_RES | HRAS_TURN | ROOM_MIG | ROOM_HOLD0 | ROOM_HOLD1 | ROOM_DEMAND | ROOM_BLEFT | QMEM_BANK
  | QMEM_CONF | QMEM_MTCMD | QMEM_MTSTAT | QMEM_MTADDR | POOL_CFG | POOL_LOW | POOL_FREE | POOL_F0 | POOL_F1
  | TPAN_WIN | TPAN_PADDR | TPAN_PDATA0 | TPAN_PDATA1 | TPAN_MTCMD | TPAN_MTSTAT | TPAN_CONF | DMA_CFG
  | DMA_PROG | DMA_CMD | DMA_STAT | DMA_SRC0 | DMA_DST0 | DMA_SRC1 | DMA_DST1 | DMA_COUNT | DMA_CHK
  | DMA_BYTES | HLFL_E0 | HLFL_E1 | HLFL_E2 | HLFL_E3 | HLFL_E4 | HLFL_LEVEL | HLFL_LOST | HLFL_ORIG
  | HLFL_SEQ | TIRQ_CH | TIRQ_PR | TIRQ_ENG | TIRQ_SUB | TIRQ_DROP | QIRQ_DOM | HIRQ_DOM | HIRQ_PRIV
  | HIRQ_WAKE | HIRQ_MSGS | HIRQ_NOTGT | CVU_CFG | CVU_ADDR | CVU_LEN | CVU_EXP | CVU_GUARD | CVU_CMD
  | CVU_STAT | CVU_VAL | CVU_GSTAT | CVU_GALIVE | ZYN_CFG | ZYN_ASYM | ZYN_TREC | ZYN_CTL | ZYN_STAT
  | ZYN_OFS | ZYN_RTT | ZYN_TEPOCH | ZYN_DIVMAP | ZYN_DRV | ZYN_HBMISS | ZYN_NAK | ZYN_XFDROP | ZYN_XFNOSINK
  | ZYN_SUSPECT | ZYN_MIRLATE | ZYN_PROLE | ZYN_XF | ZYN_MADDR | ZYN_MDATA | ZYN_MGO | ZYN_MSTAT | ZYN_MRDATA
  | HCLK_GATE_RUN | HCLK_GATE_SLEEP | HCLK_GATE_DEEP | HCLK_MSEL | HCLK_CHK | HCLK_STAT | HPWR_AVS
  | HPWR_TWARN | HPWR_CTL | HPWR_ALARM0 | HPWR_ALARM1 | HPWR_CELL0 | HPWR_CELL1 | HPWR_VREQ | HPWR_THERM
  | HGOV_CFG | HGOV_STAT | HGOV_DMAX | HGOV_DSUM | HGOV_PEND | HRST_CTL | HRST_TILE | HRST_STAT | HBOOT_STAT
  | HBOOT_DSEQ | HOTP_W | HOTP_VALID | HOTP_ADDR | HOTP_DATA | HOTP_CMD
deriving DecidableEq, Repr

/-- The page kinds of the page index (R158) that hold registers. -/
inductive PageKind where
  | none | house (o : Nat) | au (u : Nat) | zyn (j : Nat) | hras (j : Nat) | qcfg (q : Nat) | qirq (q : Nat)
  | port (n j : Nat) | dma (c : Nat) | cvu (c : Nat) | qmem (q j : Nat) | qpool (q j : Nat)
  | teng (T : Nat) | tirq (T : Nat) | ttmr (T : Nat) | tpan (T : Nat) | fch (T j : Nat) | pch (T j : Nat)
  | room (r j : Nat) | window
deriving DecidableEq, Repr

/-- Page 0 of port octet `n` (R158). -/
def portBase (n : Nat) : Nat := 0x100000 + (n / 4) * 0x100000 + 0x10000 + 0x4000 * (n % 4)
/-- The FCH page of flow channel `n` (R160). -/
def fchPage (n : Nat) : Nat := 0x1000000 + (n / 128) * 0x10000 + 0x1000 * (4 + n % 128 / 11)
/-- The slot of flow channel `n` in its page (R160). -/
def fchSlot (n : Nat) : Nat := n % 128 % 11
/-- The PCH page of pin channel `n` (R220). -/
def pchPage (n : Nat) : Nat := 0x1000000 + (256 + n / 64) * 0x10000 + 0x1000 * (4 + n % 64 / 6)
/-- The slot of pin channel `n` in its page (R220). -/
def pchSlot (n : Nat) : Nat := n % 64 % 6

namespace A
def HCFG_MODE : Nat := 0x40
def HTIM_CTRL : Nat := 0x1900
def HTIM_STAT : Nat := 0x1904
def HTIM_NOW (i : Nat) : Nat := 0x1910 + 0x4 * i
def HTIM_TSET (i : Nat) : Nat := 0x1920 + 0x4 * i
def HTIM_PSTEP (i : Nat) : Nat := 0x1930 + 0x4 * i
def HTIM_FTRIM : Nat := 0x1940
def HTIM_SLEW : Nat := 0x1040
def HTIM_UTC : Nat := 0x1044
def HSRC_CFG : Nat := 0x2900
def HSRC_SEL : Nat := 0x2904
def HSRC_STAT : Nat := 0x2908
def HRCO_CTRL : Nat := 0x2910
def HRCO_STAT : Nat := 0x2914
def HPTP_CFG : Nat := 0x3040
def HPTP_LAT_IN (i : Nat) : Nat := 0x3100 + 0x8 * i
def HPTP_LAT_OUT (i : Nat) : Nat := 0x3104 + 0x8 * i
def HCAP_CFG : Nat := 0x4040
def HCAP_E (i : Nat) : Nat := 0x4900 + 0x4 * i
def HCAP_LEVEL : Nat := 0x4920
def HCAP_LOST : Nat := 0x4924
def HREF_IN (i : Nat) : Nat := 0x5040 + 0x4 * i
def HREF_OUT (i : Nat) : Nat := 0x5050 + 0x4 * i
def HREF_OFS (i : Nat) : Nat := 0x5060 + 0x4 * i
def HREF_PPS : Nat := 0x5070
def HREF_PPSOFS : Nat := 0x5074
def HREF_INSTAT (i : Nat) : Nat := 0x5900 + 0x4 * i
def HEPC_CFG : Nat := 0x6040
def HEPC_NUM : Nat := 0x6044
def HEPC_DEN : Nat := 0x6048
def HEPC_EPOCH : Nat := 0x6900
def HEPC_BND (i : Nat) : Nat := 0x6904 + 0x4 * i
def HEPC_NXT (i : Nat) : Nat := 0x6910 + 0x4 * i
def HRING_CFG : Nat := 0x7040
def HRING_LDLY (i : Nat) : Nat := 0x7044 + 0x4 * i
def HRING_STAT : Nat := 0x7900
def HSNP_CFG : Nat := 0x8040
def HSNP_CUR : Nat := 0x8900
def HSNP_CUREPOCH : Nat := 0x8904
def HSNP_SLOTS : Nat := 0x8908
def HSNP_PIN : Nat := 0x8910
def HSNP_PINEPOCH : Nat := 0x8914
def HSNP_STRADDLE : Nat := 0x8918
def HCOM_CFG : Nat := 0x9040
def HCOM_TARGET : Nat := 0x9900
def HCOM_CMD : Nat := 0x9904
def HCOM_DSEL : Nat := 0x9908
def HCOM_STAT : Nat := 0x9910
def HCOM_LASTEPOCH : Nat := 0x9914
def HCOM_CHECK : Nat := 0x9918
def HCOM_MYSTAT : Nat := 0x991c
def HCOM_FLOG0 (i : Nat) : Nat := 0x9920 + 0x8 * i
def HCOM_FLOG1 (i : Nat) : Nat := 0x9924 + 0x8 * i
def HCOM_PFW : Nat := 0x99a0
def HCOM_SAVE : Nat := 0x99b0
def HCOM_LFACK : Nat := 0x99c0
def PG_ID (p : Nat) : Nat := p + 0x0
def PG_REV (p : Nat) : Nat := p + 0x4
def PG_STATE (p : Nat) : Nat := p + 0x8
def PG_CTRL (p : Nat) : Nat := p + 0xc
def EV_STAT (p : Nat) : Nat := p + 0x10
def EV_EN (p : Nat) : Nat := p + 0x14
def EV_FORCE (p : Nat) : Nat := p + 0x18
def ERR_CNT (p : Nat) : Nat := p + 0x1c
def OWNER_VIEW (p : Nat) : Nat := p + 0x20
def LH_EPOCH (p : Nat) : Nat := p + 0x800
def LH_COMMIT (p : Nat) : Nat := p + 0x804
def LH_ASSIGN (p : Nat) : Nat := p + 0x808
def HCFG_DEVID : Nat := 0x900
def HCFG_SERIAL (i : Nat) : Nat := 0x904 + 0x4 * i
def HOWN_CFG : Nat := 0xa040
def HOWN_REQ : Nat := 0xa900
def HOWN_MYSTAT : Nat := 0xa904
def HOWN_DSEL : Nat := 0xa908
def HOWN_STAT : Nat := 0xa910
def HOWN_WREFUSED (i : Nat) : Nat := 0xa940 + 0x4 * i
def HOWN_ALIVE (i : Nat) : Nat := 0xaa00 + 0x4 * i
def HPCI_LINK : Nat := 0xb900
def HPCI_FUNC (i : Nat) : Nat := 0xb910 + 0x4 * i
def HSVC_ERR : Nat := 0xc900
def FCH_MODE (n : Nat) : Nat := fchPage n + 0x40 + 0xb0 * fchSlot n
def FCH_EVMASK (n : Nat) : Nat := fchPage n + 0x44 + 0xb0 * fchSlot n
def FCH_POOL (n : Nat) : Nat := fchPage n + 0x48 + 0xb0 * fchSlot n
def FCH_KEYP (n i : Nat) : Nat := fchPage n + 0x50 + 0xb0 * fchSlot n + 0x1c * i
def FCH_KEYU (n i : Nat) : Nat := fchPage n + 0x54 + 0xb0 * fchSlot n + 0x1c * i
def FCH_KEYS (n i : Nat) : Nat := fchPage n + 0x58 + 0xb0 * fchSlot n + 0x1c * i
def FCH_KEYIP (n i j : Nat) : Nat := fchPage n + 0x5c + 0xb0 * fchSlot n + 0x1c * i + 0x4 * j
def FCH_MERGE (n : Nat) : Nat := fchPage n + 0x88 + 0xb0 * fchSlot n
def FCH_RTP (n : Nat) : Nat := fchPage n + 0x8c + 0xb0 * fchSlot n
def FCH_NPKT (n : Nat) : Nat := fchPage n + 0x90 + 0xb0 * fchSlot n
def FCH_CMAX (n : Nat) : Nat := fchPage n + 0x94 + 0xb0 * fchSlot n
def FCH_TDRAIN (n : Nat) : Nat := fchPage n + 0x98 + 0xb0 * fchSlot n
def FCH_TRS (n : Nat) : Nat := fchPage n + 0x9c + 0xb0 * fchSlot n
def FCH_FRAC (n : Nat) : Nat := fchPage n + 0xa0 + 0xb0 * fchSlot n
def FCH_TROFS (n : Nat) : Nat := fchPage n + 0xa4 + 0xb0 * fchSlot n
def FCH_HIST (n : Nat) : Nat := fchPage n + 0xa8 + 0xb0 * fchSlot n
def FCH_POL0 (n : Nat) : Nat := fchPage n + 0xac + 0xb0 * fchSlot n
def FCH_POL1 (n : Nat) : Nat := fchPage n + 0xb0 + 0xb0 * fchSlot n
def FCH_CTL (n : Nat) : Nat := fchPage n + 0xfd0 + 0x4 * fchSlot n
def FCH_ESRC (n : Nat) : Nat := fchPage n + 0x50 + 0xb0 * fchSlot n
def FCH_EHDR (n : Nat) : Nat := fchPage n + 0x54 + 0xb0 * fchSlot n
def FCH_EDMAC (n i : Nat) : Nat := fchPage n + 0x58 + 0xb0 * fchSlot n + 0x4 * i
def FCH_ESMAC (n i : Nat) : Nat := fchPage n + 0x60 + 0xb0 * fchSlot n + 0x4 * i
def FCH_EDIP (n i : Nat) : Nat := fchPage n + 0x68 + 0xb0 * fchSlot n + 0x4 * i
def FCH_ESIP (n i : Nat) : Nat := fchPage n + 0x78 + 0xb0 * fchSlot n + 0x4 * i
def FCH_EUDP (n : Nat) : Nat := fchPage n + 0x88 + 0xb0 * fchSlot n
def FCH_ESSRC (n : Nat) : Nat := fchPage n + 0x8c + 0xb0 * fchSlot n
def FCH_ESEQ0 (n : Nat) : Nat := fchPage n + 0x90 + 0xb0 * fchSlot n
def FCH_ETSOFS (n : Nat) : Nat := fchPage n + 0x94 + 0xb0 * fchSlot n
def FCH_EPER (n : Nat) : Nat := fchPage n + 0x98 + 0xb0 * fchSlot n
def FCH_EPHASE (n : Nat) : Nat := fchPage n + 0x9c + 0xb0 * fchSlot n
def FCH_EDLY (n : Nat) : Nat := fchPage n + 0xa0 + 0xb0 * fchSlot n
def FCH_ETROFS (n : Nat) : Nat := fchPage n + 0xa4 + 0xb0 * fchSlot n
def FCH_ETRS (n : Nat) : Nat := fchPage n + 0xa8 + 0xb0 * fchSlot n
def FCH_ETRSFR (n : Nat) : Nat := fchPage n + 0xac + 0xb0 * fchSlot n
def FCH_EPPS (n : Nat) : Nat := fchPage n + 0xb0 + 0xb0 * fchSlot n
def FCH_EBPS (n : Nat) : Nat := fchPage n + 0xb4 + 0xb0 * fchSlot n
def FCH_ESLIP (n : Nat) : Nat := fchPage n + 0xb8 + 0xb0 * fchSlot n
def PRT_CFG (n : Nat) : Nat := (portBase n) + 0x40
def PRT_SUB (n i : Nat) : Nat := (portBase n) + 0x44 + 0x4 * i
def PRT_HCFG (n : Nat) : Nat := (portBase n + 0x1000) + 0x40
def PRT_HRX0 (n : Nat) : Nat := (portBase n + 0x1000) + 0x900
def PRT_HRX1 (n : Nat) : Nat := (portBase n + 0x1000) + 0x904
def PRT_HRX2 (n i : Nat) : Nat := (portBase n + 0x1000) + 0x908 + 0x4 * i
def PRT_HFREE (n : Nat) : Nat := (portBase n + 0x1000) + 0x920
def PRT_HALLOC (n : Nat) : Nat := (portBase n + 0x1000) + 0x924
def PRT_HTX0 (n : Nat) : Nat := (portBase n + 0x1000) + 0x928
def PRT_HTX1 (n : Nat) : Nat := (portBase n + 0x1000) + 0x92c
def PRT_HQSTAT (n : Nat) : Nat := (portBase n + 0x1000) + 0x930
def PRT_LANE (n i : Nat) : Nat := (portBase n + 0x2000) + 0x40 + 0x4 * i
def PRT_LINK (n i : Nat) : Nat := (portBase n + 0x3000) + 0x900 + 0x4 * i
def PCH_MODE (n : Nat) : Nat := pchPage n + 0x40 + 0x140 * pchSlot n
def PCH_EVMASK (n : Nat) : Nat := pchPage n + 0x44 + 0x140 * pchSlot n
def PCH_LATO (n : Nat) : Nat := pchPage n + 0x48 + 0x140 * pchSlot n
def PCH_LATI (n : Nat) : Nat := pchPage n + 0x4c + 0x140 * pchSlot n
def PCH_PNUM0 (n : Nat) : Nat := pchPage n + 0x50 + 0x140 * pchSlot n
def PCH_PNUM1 (n : Nat) : Nat := pchPage n + 0x54 + 0x140 * pchSlot n
def PCH_PHASE (n : Nat) : Nat := pchPage n + 0x58 + 0x140 * pchSlot n
def PCH_PHFR (n : Nat) : Nat := pchPage n + 0x5c + 0x140 * pchSlot n
def PCH_CMPA (n : Nat) : Nat := pchPage n + 0x60 + 0x140 * pchSlot n
def PCH_CMPB (n : Nat) : Nat := pchPage n + 0x64 + 0x140 * pchSlot n
def PCH_CMPFR (n : Nat) : Nat := pchPage n + 0x68 + 0x140 * pchSlot n
def PCH_COUNT (n : Nat) : Nat := pchPage n + 0x6c + 0x140 * pchSlot n
def PCH_PWM (n : Nat) : Nat := pchPage n + 0x70 + 0x140 * pchSlot n
def PCH_PWMW (n : Nat) : Nat := pchPage n + 0x74 + 0x140 * pchSlot n
def PCH_DUTY0 (n : Nat) : Nat := pchPage n + 0x78 + 0x140 * pchSlot n
def PCH_TRIG (n i : Nat) : Nat := pchPage n + 0x7c + 0x140 * pchSlot n + 0x4 * i
def PCH_TOUT (n : Nat) : Nat := pchPage n + 0x84 + 0x140 * pchSlot n
def PCH_IN (n : Nat) : Nat := pchPage n + 0x88 + 0x140 * pchSlot n
def PCH_CCMP (n : Nat) : Nat := pchPage n + 0x8c + 0x140 * pchSlot n
def PCH_DUTY (n : Nat) : Nat := pchPage n + 0x8a0 + 0x140 * pchSlot n
def PCH_EQ0 (n : Nat) : Nat := pchPage n + 0x8a4 + 0x140 * pchSlot n
def PCH_EQ1 (n : Nat) : Nat := pchPage n + 0x8a8 + 0x140 * pchSlot n
def PCH_EQ2 (n : Nat) : Nat := pchPage n + 0x8ac + 0x140 * pchSlot n
def PCH_CTL (n : Nat) : Nat := pchPage n + 0x8b0 + 0x140 * pchSlot n
def PCH_STAT (n : Nat) : Nat := pchPage n + 0x8b4 + 0x140 * pchSlot n
def PCH_CNT0 (n : Nat) : Nat := pchPage n + 0x8b8 + 0x140 * pchSlot n
def PCH_CNT1 (n : Nat) : Nat := pchPage n + 0x8bc + 0x140 * pchSlot n
def PCH_CAP0 (n : Nat) : Nat := pchPage n + 0x8c0 + 0x140 * pchSlot n
def PCH_CAP1 (n i : Nat) : Nat := pchPage n + 0x8c4 + 0x140 * pchSlot n + 0x4 * i
def TMR_CFG (T i : Nat) : Nat := (0x1000000 + T * 0x10000) + 0x2000 + 0x40 + 0x20 * i
def TMR_TICK (T i : Nat) : Nat := (0x1000000 + T * 0x10000) + 0x2000 + 0x44 + 0x20 * i
def TMR_TOP0 (T i : Nat) : Nat := (0x1000000 + T * 0x10000) + 0x2000 + 0x48 + 0x20 * i
def TMR_INIT0 (T i : Nat) : Nat := (0x1000000 + T * 0x10000) + 0x2000 + 0x4c + 0x20 * i
def TMR_HI (T i : Nat) : Nat := (0x1000000 + T * 0x10000) + 0x2000 + 0x50 + 0x20 * i
def TMR_CMP0 (T i : Nat) : Nat := (0x1000000 + T * 0x10000) + 0x2000 + 0x54 + 0x20 * i
def TMR_CMP1 (T i : Nat) : Nat := (0x1000000 + T * 0x10000) + 0x2000 + 0x58 + 0x20 * i
def TMR_SOFS (T i : Nat) : Nat := (0x1000000 + T * 0x10000) + 0x2000 + 0x5c + 0x20 * i
def TMR_VAL0 (T i : Nat) : Nat := (0x1000000 + T * 0x10000) + 0x2000 + 0x940 + 0x8 * i
def TMR_VAL1 (T i : Nat) : Nat := (0x1000000 + T * 0x10000) + 0x2000 + 0x944 + 0x8 * i
def TMR_ARM0 (T i : Nat) : Nat := (0x1000000 + T * 0x10000) + 0x2000 + 0x980 + 0x8 * i
def TMR_ARM1 (T i : Nat) : Nat := (0x1000000 + T * 0x10000) + 0x2000 + 0x984 + 0x8 * i
def TMR_CTL (T i : Nat) : Nat := (0x1000000 + T * 0x10000) + 0x2000 + 0x9c0 + 0x4 * i
def PCH_SAFE (n : Nat) : Nat := pchPage n + 0x140 + 0x140 * pchSlot n
def PCH_LIM (n : Nat) : Nat := pchPage n + 0x144 + 0x140 * pchSlot n
def PCH_GPULL (n : Nat) : Nat := pchPage n + 0x148 + 0x140 * pchSlot n
def PCH_GHOLD (n : Nat) : Nat := pchPage n + 0x14c + 0x140 * pchSlot n
def PCH_SAFEST (n : Nat) : Nat := pchPage n + 0x8d0 + 0x140 * pchSlot n
def TRIP_CFG (t : Nat) : Nat := (0x1000000 + (256 + t / 4) * 0x10000 + 0xF000) + 0x40 + 0x10 * (t % 4)
def TRIP_BLK (t : Nat) : Nat := (0x1000000 + (256 + t / 4) * 0x10000 + 0xF000) + 0x44 + 0x10 * (t % 4)
def TRIP_MASK (t i : Nat) : Nat := (0x1000000 + (256 + t / 4) * 0x10000 + 0xF000) + 0x48 + 0x10 * (t % 4) + 0x4 * i
def AX_PINS (a : Nat) : Nat := (0x1000000 + (256 + a / 8) * 0x10000 + 0xF000) + 0x80 + 0x20 * (a % 8)
def AX_OPT (a : Nat) : Nat := (0x1000000 + (256 + a / 8) * 0x10000 + 0xF000) + 0x84 + 0x20 * (a % 8)
def AX_PHOME (a : Nat) : Nat := (0x1000000 + (256 + a / 8) * 0x10000 + 0xF000) + 0x88 + 0x20 * (a % 8)
def AX_HMAX (a : Nat) : Nat := (0x1000000 + (256 + a / 8) * 0x10000 + 0xF000) + 0x8c + 0x20 * (a % 8)
def AX_HPOS (a : Nat) : Nat := (0x1000000 + (256 + a / 8) * 0x10000 + 0xF000) + 0x90 + 0x20 * (a % 8)
def AX_TIME (a : Nat) : Nat := (0x1000000 + (256 + a / 8) * 0x10000 + 0xF000) + 0x94 + 0x20 * (a % 8)
def AX_DRV (a i : Nat) : Nat := (0x1000000 + (256 + a / 8) * 0x10000 + 0xF000) + 0x98 + 0x20 * (a % 8) + 0x4 * i
def GRP_CFG (g : Nat) : Nat := (0x1000000 + (256 + g / 16) * 0x10000 + 0xF000) + 0x180 + 0x10 * (g % 16)
def GRP_MEM (g : Nat) : Nat := (0x1000000 + (256 + g / 16) * 0x10000 + 0xF000) + 0x184 + 0x10 * (g % 16)
def GRP_HOLDP (g : Nat) : Nat := (0x1000000 + (256 + g / 16) * 0x10000 + 0xF000) + 0x188 + 0x10 * (g % 16)
def TRIP_CTL (t : Nat) : Nat := (0x1000000 + (256 + t / 4) * 0x10000 + 0xF000) + 0xb00 + 0x4 * (t % 4)
def TRIP_CNT (t : Nat) : Nat := (0x1000000 + (256 + t / 4) * 0x10000 + 0xF000) + 0xb10 + 0x4 * (t % 4)
def AX_STEPS (a : Nat) : Nat := (0x1000000 + (256 + a / 8) * 0x10000 + 0xF000) + 0xb40 + 0x20 * (a % 8)
def AX_PCRU (a : Nat) : Nat := (0x1000000 + (256 + a / 8) * 0x10000 + 0xF000) + 0xb44 + 0x20 * (a % 8)
def AX_PSTA (a : Nat) : Nat := (0x1000000 + (256 + a / 8) * 0x10000 + 0xF000) + 0xb48 + 0x20 * (a % 8)
def AX_T (a i : Nat) : Nat := (0x1000000 + (256 + a / 8) * 0x10000 + 0xF000) + 0xb50 + 0x20 * (a % 8) + 0x4 * i
def AX_CMD (a : Nat) : Nat := (0x1000000 + (256 + a / 8) * 0x10000 + 0xF000) + 0xb4c + 0x20 * (a % 8)
def AX_STAT (a : Nat) : Nat := (0x1000000 + (256 + a / 8) * 0x10000 + 0xF000) + 0xb58 + 0x20 * (a % 8)
def AX_POS (a : Nat) : Nat := (0x1000000 + (256 + a / 8) * 0x10000 + 0xF000) + 0xb5c + 0x20 * (a % 8)
def GRP_STAT (g : Nat) : Nat := (0x1000000 + (256 + g / 16) * 0x10000 + 0xF000) + 0xc40 + 0x4 * (g % 16)
def AU_CFG (u : Nat) : Nat := (0x10000 + 0x1000 * u) + 0x40
def AU_GEOM (u : Nat) : Nat := (0x10000 + 0x1000 * u) + 0x44
def AU_TTADDR (u : Nat) : Nat := (0x10000 + 0x1000 * u) + 0x48
def AU_ZCOUNT (u : Nat) : Nat := (0x10000 + 0x1000 * u) + 0x4c
def AU_TRK (u : Nat) : Nat := (0x10000 + 0x1000 * u) + 0x50
def AU_CHK (u : Nat) : Nat := (0x10000 + 0x1000 * u) + 0x54
def AU_STALL (u : Nat) : Nat := (0x10000 + 0x1000 * u) + 0x58
def AU_PAIR (u : Nat) : Nat := (0x10000 + 0x1000 * u) + 0x5c
def AU_GEAR (u : Nat) : Nat := (0x10000 + 0x1000 * u) + 0x60
def AU_PHLIM (u : Nat) : Nat := (0x10000 + 0x1000 * u) + 0x64
def AU_EXP (u : Nat) : Nat := (0x10000 + 0x1000 * u) + 0x68
def AU_EXPOFS (u : Nat) : Nat := (0x10000 + 0x1000 * u) + 0x6c
def AU_HOLD (u : Nat) : Nat := (0x10000 + 0x1000 * u) + 0x70
def AU_RTP (u : Nat) : Nat := (0x10000 + 0x1000 * u) + 0x74
def AU_SSRC (u : Nat) : Nat := (0x10000 + 0x1000 * u) + 0x78
def AU_OUT (u i : Nat) : Nat := (0x10000 + 0x1000 * u) + 0x80 + 0x4 * i
def AU_STAT (u : Nat) : Nat := (0x10000 + 0x1000 * u) + 0x900
def AU_POS0 (u : Nat) : Nat := (0x10000 + 0x1000 * u) + 0x904
def AU_POS1 (u : Nat) : Nat := (0x10000 + 0x1000 * u) + 0x908
def AU_POS2 (u : Nat) : Nat := (0x10000 + 0x1000 * u) + 0x90c
def AU_POS3 (u i : Nat) : Nat := (0x10000 + 0x1000 * u) + 0x910 + 0x4 * i
def AU_SETC0 (u : Nat) : Nat := (0x10000 + 0x1000 * u) + 0x920
def AU_SETC1 (u : Nat) : Nat := (0x10000 + 0x1000 * u) + 0x924
def AU_CTL (u : Nat) : Nat := (0x10000 + 0x1000 * u) + 0x928
def AU_Q0 (u i : Nat) : Nat := (0x10000 + 0x1000 * u) + 0x940 + 0x10 * i
def AU_Q1 (u i : Nat) : Nat := (0x10000 + 0x1000 * u) + 0x944 + 0x10 * i
def AU_Q2 (u i : Nat) : Nat := (0x10000 + 0x1000 * u) + 0x948 + 0x10 * i
def AU_QSTAT (u i : Nat) : Nat := (0x10000 + 0x1000 * u) + 0x94c + 0x10 * i
def TENG_CFG (T : Nat) : Nat := (0x1000000 + T * 0x10000) + 0x40
def TENG_STAT (T : Nat) : Nat := (0x1000000 + T * 0x10000) + 0x900
def TENG_IMG0 (T : Nat) : Nat := (0x1000000 + T * 0x10000) + 0x904
def TENG_IMG1 (T : Nat) : Nat := (0x1000000 + T * 0x10000) + 0x908
def TENG_LDADDR (T : Nat) : Nat := (0x1000000 + T * 0x10000) + 0x910
def TENG_LDCMD (T : Nat) : Nat := (0x1000000 + T * 0x10000) + 0x914
def TENG_LDSTAT (T : Nat) : Nat := (0x1000000 + T * 0x10000) + 0x918
def TENG_DBG (T : Nat) : Nat := (0x1000000 + T * 0x10000) + 0x920
def TENG_DBGSEL (T : Nat) : Nat := (0x1000000 + T * 0x10000) + 0x924
def TENG_DBGV0 (T : Nat) : Nat := (0x1000000 + T * 0x10000) + 0x928
def TENG_DBGV1 (T : Nat) : Nat := (0x1000000 + T * 0x10000) + 0x92c
def TENG_INBOX (T : Nat) : Nat := (0x1000000 + T * 0x10000) + 0x930
def HRAS_SHA (T s : Nat) : Nat := (0x40000 + 0x1000 * (T / 62)) + 0x40 + 0x20 * (T % 62) + 8 * s
def HRAS_SHB (T s : Nat) : Nat := (0x40000 + 0x1000 * (T / 62)) + 0x44 + 0x20 * (T % 62) + 8 * s
def HRAS_CON0 (i : Nat) : Nat := 0x45000 + 0x1000 * (i / 248) + 0x40 + 8 * (i % 248)
def HRAS_CON1 (i : Nat) : Nat := 0x45000 + 0x1000 * (i / 248) + 0x44 + 8 * (i % 248)
def HRAS_RES (i : Nat) : Nat := 0x47040 + 0x4 * i
def HRAS_TURN (i : Nat) : Nat := 0x48040 + 0x4 * i
def ROOM_MIG (r i : Nat) : Nat := (0x3000000 + r * 0x4000) + 0x40 + 0x4 * i
def ROOM_HOLD0 (r : Nat) : Nat := (0x3000000 + r * 0x4000) + 0xf00
def ROOM_HOLD1 (r : Nat) : Nat := (0x3000000 + r * 0x4000) + 0xf04
def ROOM_DEMAND (r i : Nat) : Nat := (0x3001000 + r * 0x4000) + 0x40 + 0x4 * i
def ROOM_BLEFT (r i : Nat) : Nat := (0x3002000 + r * 0x4000) + 0x900 + 0x4 * i
def QMEM_BANK (b : Nat) : Nat := (0x100000 + (b / 512) * 0x100000 + 0x40000 + 0x1000 * (b % 512 / 128)) + 0x900 + 4 * (b % 128)
def QMEM_CONF (q i : Nat) : Nat := (0x100000 + q * 0x100000) + 0x40000 + 0xb00 + 0x4 * i
def QMEM_MTCMD (q : Nat) : Nat := (0x100000 + q * 0x100000) + 0x40000 + 0xb40
def QMEM_MTSTAT (q : Nat) : Nat := (0x100000 + q * 0x100000) + 0x40000 + 0xb44
def QMEM_MTADDR (q : Nat) : Nat := (0x100000 + q * 0x100000) + 0x40000 + 0xb48
def POOL_CFG (q P : Nat) : Nat := (0x100000 + q * 0x100000 + 0x50000 + 0x1000 * (P / 32)) + 0x40 + 8 * (P % 32)
def POOL_LOW (q P : Nat) : Nat := (0x100000 + q * 0x100000 + 0x50000 + 0x1000 * (P / 32)) + 0x44 + 8 * (P % 32)
def POOL_FREE (q P : Nat) : Nat := (0x100000 + q * 0x100000 + 0x50000 + 0x1000 * (P / 32)) + 0xa00 + 4 * (P % 32)
def POOL_F0 (q P : Nat) : Nat := (0x100000 + q * 0x100000 + 0x50000 + 0x1000 * (P / 32)) + 0xa80 + 8 * (P % 32)
def POOL_F1 (q P : Nat) : Nat := (0x100000 + q * 0x100000 + 0x50000 + 0x1000 * (P / 32)) + 0xa84 + 8 * (P % 32)
def TPAN_WIN (T i : Nat) : Nat := (0x1000000 + T * 0x10000) + 0x3000 + 0x40 + 0x4 * i
def TPAN_PADDR (T : Nat) : Nat := (0x1000000 + T * 0x10000) + 0x3000 + 0x900
def TPAN_PDATA0 (T : Nat) : Nat := (0x1000000 + T * 0x10000) + 0x3000 + 0x904
def TPAN_PDATA1 (T : Nat) : Nat := (0x1000000 + T * 0x10000) + 0x3000 + 0x908
def TPAN_MTCMD (T : Nat) : Nat := (0x1000000 + T * 0x10000) + 0x3000 + 0x920
def TPAN_MTSTAT (T : Nat) : Nat := (0x1000000 + T * 0x10000) + 0x3000 + 0x924
def TPAN_CONF (T : Nat) : Nat := (0x1000000 + T * 0x10000) + 0x3000 + 0x928
def DMA_CFG (c : Nat) : Nat := (0x100000 + (c / 8) * 0x100000 + 0x20000 + 0x1000 * (c % 8)) + 0x40
def DMA_PROG (c : Nat) : Nat := (0x100000 + (c / 8) * 0x100000 + 0x20000 + 0x1000 * (c % 8)) + 0x900
def DMA_CMD (c : Nat) : Nat := (0x100000 + (c / 8) * 0x100000 + 0x20000 + 0x1000 * (c % 8)) + 0x904
def DMA_STAT (c : Nat) : Nat := (0x100000 + (c / 8) * 0x100000 + 0x20000 + 0x1000 * (c % 8)) + 0x908
def DMA_SRC0 (c : Nat) : Nat := (0x100000 + (c / 8) * 0x100000 + 0x20000 + 0x1000 * (c % 8)) + 0x910
def DMA_DST0 (c : Nat) : Nat := (0x100000 + (c / 8) * 0x100000 + 0x20000 + 0x1000 * (c % 8)) + 0x918
def DMA_SRC1 (c : Nat) : Nat := (0x100000 + (c / 8) * 0x100000 + 0x20000 + 0x1000 * (c % 8)) + 0x914
def DMA_DST1 (c : Nat) : Nat := (0x100000 + (c / 8) * 0x100000 + 0x20000 + 0x1000 * (c % 8)) + 0x91c
def DMA_COUNT (c : Nat) : Nat := (0x100000 + (c / 8) * 0x100000 + 0x20000 + 0x1000 * (c % 8)) + 0x920
def DMA_CHK (c i : Nat) : Nat := (0x100000 + (c / 8) * 0x100000 + 0x20000 + 0x1000 * (c % 8)) + 0x930 + 0x4 * i
def DMA_BYTES (c : Nat) : Nat := (0x100000 + (c / 8) * 0x100000 + 0x20000 + 0x1000 * (c % 8)) + 0x938
def HLFL_E0 : Nat := 0xe900
def HLFL_E1 : Nat := 0xe904
def HLFL_E2 : Nat := 0xe908
def HLFL_E3 : Nat := 0xe90c
def HLFL_E4 (i : Nat) : Nat := 0xe910 + 0x4 * i
def HLFL_LEVEL : Nat := 0xe920
def HLFL_LOST : Nat := 0xe924
def HLFL_ORIG (i : Nat) : Nat := 0xe940 + 0x4 * i
def HLFL_SEQ (i : Nat) : Nat := 0xe960 + 0x4 * i
def TIRQ_CH (T i : Nat) : Nat := (0x1000000 + T * 0x10000) + 0x1000 + 0x40 + 0x4 * i
def TIRQ_PR (T i : Nat) : Nat := (0x1000000 + T * 0x10000) + 0x1000 + 0x240 + 0x4 * i
def TIRQ_ENG (T : Nat) : Nat := (0x1000000 + T * 0x10000) + 0x1000 + 0x340
def TIRQ_SUB (T i : Nat) : Nat := (0x1000000 + T * 0x10000) + 0x1000 + 0x350 + 0x4 * i
def TIRQ_DROP (T : Nat) : Nat := (0x1000000 + T * 0x10000) + 0x1000 + 0xf00
def QIRQ_DOM (q i : Nat) : Nat := (0x100000 + q * 0x100000) + 0x1000 + 0x40 + 0x4 * i
def HIRQ_DOM (i : Nat) : Nat := 0xd040 + 0x4 * i
def HIRQ_PRIV : Nat := 0xd448
def HIRQ_WAKE (i : Nat) : Nat := 0xd450 + 0x4 * i
def HIRQ_MSGS : Nat := 0xdf00
def HIRQ_NOTGT : Nat := 0xdf04
def CVU_CFG (c : Nat) : Nat := (0x100000 + (c / 4) * 0x100000 + 0x30000 + 0x1000 * (c % 4)) + 0x40
def CVU_ADDR (c : Nat) : Nat := (0x100000 + (c / 4) * 0x100000 + 0x30000 + 0x1000 * (c % 4)) + 0x44
def CVU_LEN (c : Nat) : Nat := (0x100000 + (c / 4) * 0x100000 + 0x30000 + 0x1000 * (c % 4)) + 0x48
def CVU_EXP (c i : Nat) : Nat := (0x100000 + (c / 4) * 0x100000 + 0x30000 + 0x1000 * (c % 4)) + 0x4c + 0x4 * i
def CVU_GUARD (c i : Nat) : Nat := (0x100000 + (c / 4) * 0x100000 + 0x30000 + 0x1000 * (c % 4)) + 0x60 + 0x4 * i
def CVU_CMD (c : Nat) : Nat := (0x100000 + (c / 4) * 0x100000 + 0x30000 + 0x1000 * (c % 4)) + 0x900
def CVU_STAT (c : Nat) : Nat := (0x100000 + (c / 4) * 0x100000 + 0x30000 + 0x1000 * (c % 4)) + 0x904
def CVU_VAL (c i : Nat) : Nat := (0x100000 + (c / 4) * 0x100000 + 0x30000 + 0x1000 * (c % 4)) + 0x908 + 0x4 * i
def CVU_GSTAT (c i : Nat) : Nat := (0x100000 + (c / 4) * 0x100000 + 0x30000 + 0x1000 * (c % 4)) + 0x940 + 0x4 * i
def CVU_GALIVE (c i : Nat) : Nat := (0x100000 + (c / 4) * 0x100000 + 0x30000 + 0x1000 * (c % 4)) + 0x980 + 0x4 * i
def ZYN_CFG : Nat := 0x20040
def ZYN_ASYM : Nat := 0x20044
def ZYN_TREC : Nat := 0x20048
def ZYN_CTL : Nat := 0x20900
def ZYN_STAT : Nat := 0x20904
def ZYN_OFS (i : Nat) : Nat := 0x20908 + 0x4 * i
def ZYN_RTT : Nat := 0x20910
def ZYN_TEPOCH : Nat := 0x20914
def ZYN_DIVMAP (i : Nat) : Nat := 0x20920 + 0x4 * i
def ZYN_DRV (i : Nat) : Nat := 0x20960 + 0x4 * i
def ZYN_HBMISS : Nat := 0x20944
def ZYN_NAK : Nat := 0x20948
def ZYN_XFDROP : Nat := 0x2094c
def ZYN_XFNOSINK : Nat := 0x20950
def ZYN_SUSPECT : Nat := 0x20954
def ZYN_MIRLATE : Nat := 0x20958
def ZYN_PROLE (i : Nat) : Nat := 0x21040 + 0x4 * i
def ZYN_XF (i : Nat) : Nat := 0x22040 + 0x4 * i
def ZYN_MADDR : Nat := 0x23900
def ZYN_MDATA : Nat := 0x23904
def ZYN_MGO : Nat := 0x23908
def ZYN_MSTAT : Nat := 0x2390c
def ZYN_MRDATA : Nat := 0x23910
def HCLK_GATE_RUN : Nat := 0x30040
def HCLK_GATE_SLEEP : Nat := 0x30044
def HCLK_GATE_DEEP : Nat := 0x30048
def HCLK_MSEL : Nat := 0x30900
def HCLK_CHK : Nat := 0x30904
def HCLK_STAT : Nat := 0x30908
def HPWR_AVS : Nat := 0x31040
def HPWR_TWARN : Nat := 0x31044
def HPWR_CTL : Nat := 0x31900
def HPWR_ALARM0 : Nat := 0x31904
def HPWR_ALARM1 : Nat := 0x31908
def HPWR_CELL0 : Nat := 0x3190c
def HPWR_CELL1 : Nat := 0x31910
def HPWR_VREQ : Nat := 0x31920
def HPWR_THERM : Nat := 0x31930
def HGOV_CFG : Nat := 0x32040
def HGOV_STAT : Nat := 0x32900
def HGOV_DMAX : Nat := 0x32904
def HGOV_DSUM : Nat := 0x32908
def HGOV_PEND : Nat := 0x3290c
def HRST_CTL : Nat := 0x33900
def HRST_TILE : Nat := 0x33904
def HRST_STAT : Nat := 0x33908
def HBOOT_STAT : Nat := 0x34900
def HBOOT_DSEQ : Nat := 0x34904
def HOTP_W (i : Nat) : Nat := 0x35900 + 0x4 * i
def HOTP_VALID (i : Nat) : Nat := 0x35a00 + 0x4 * i
def HOTP_ADDR : Nat := 0x35a10
def HOTP_DATA : Nat := 0x35a14
def HOTP_CMD : Nat := 0x35a18
end A

namespace F
def HCFG_MODE_MODE : Fld := ⟨0, 2⟩
def HCFG_MODE_SETTLING : Fld := ⟨31, 1⟩
def HTIM_CTRL_RUN : Fld := ⟨0, 1⟩
def HTIM_CTRL_TSET_GO : Fld := ⟨1, 1⟩
def HTIM_CTRL_STEP_GO : Fld := ⟨2, 1⟩
def HTIM_CTRL_METHOD : Fld := ⟨3, 1⟩
def HTIM_CTRL_STEP_AT : Fld := ⟨4, 1⟩
def HTIM_STAT_RUN : Fld := ⟨0, 1⟩
def HTIM_STAT_CORR_BUSY : Fld := ⟨1, 1⟩
def HTIM_STAT_TSET_REFUSED : Fld := ⟨2, 1⟩
def HTIM_STAT_STEP_REFUSED : Fld := ⟨3, 1⟩
def HTIM_STAT_FTRIM_CLAMP : Fld := ⟨4, 1⟩
def HTIM_STAT_STEPPED : Fld := ⟨5, 1⟩
def HTIM_NOW_NOW : Fld := ⟨0, 32⟩
def HTIM_TSET_TSET : Fld := ⟨0, 32⟩
def HTIM_PSTEP_PSTEP : Fld := ⟨0, 32⟩
def HTIM_FTRIM_FTRIM : Fld := ⟨0, 32⟩
def HTIM_SLEW_RATE : Fld := ⟨0, 10⟩
def HTIM_UTC_UTC_OFFSET : Fld := ⟨0, 16⟩
def HTIM_UTC_LI61 : Fld := ⟨16, 1⟩
def HTIM_UTC_LI59 : Fld := ⟨17, 1⟩
def HTIM_UTC_UTC_VALID : Fld := ⟨18, 1⟩
def HSRC_CFG_OCXO_FREQ : Fld := ⟨0, 1⟩
def HSRC_CFG_SYNCE_LANE : Fld := ⟨8, 7⟩
def HSRC_CFG_HOLD_AVG : Fld := ⟨16, 3⟩
def HSRC_SEL_SRC : Fld := ⟨0, 2⟩
def HSRC_SEL_AUTO : Fld := ⟨4, 1⟩
def HSRC_SEL_PRIO : Fld := ⟨8, 8⟩
def HSRC_STAT_STATE : Fld := ⟨0, 2⟩
def HSRC_STAT_CUR : Fld := ⟨4, 2⟩
def HSRC_STAT_READY : Fld := ⟨8, 4⟩
def HSRC_STAT_EVER_LOCKED : Fld := ⟨12, 1⟩
def HSRC_STAT_HOLD_BASE : Fld := ⟨13, 1⟩
def HSRC_STAT_SEL_REFUSED : Fld := ⟨16, 1⟩
def HRCO_CTRL_TSRC : Fld := ⟨0, 4⟩
def HRCO_STAT_TRIMMED : Fld := ⟨0, 1⟩
def HRCO_STAT_TRIM_LOST : Fld := ⟨1, 1⟩
def HRCO_STAT_TRIM_REFUSED : Fld := ⟨2, 1⟩
def HRCO_STAT_OFFSET : Fld := ⟨16, 16⟩
def HPTP_CFG_ONE_STEP : Fld := ⟨0, 1⟩
def HPTP_CFG_L2 : Fld := ⟨1, 1⟩
def HPTP_CFG_IPV4 : Fld := ⟨2, 1⟩
def HPTP_CFG_IPV6 : Fld := ⟨3, 1⟩
def HPTP_LAT_IN_LAT : Fld := ⟨0, 32⟩
def HPTP_LAT_OUT_LAT : Fld := ⟨0, 32⟩
def HCAP_CFG_EN_REF : Fld := ⟨0, 4⟩
def HCAP_CFG_EN_PPS : Fld := ⟨4, 1⟩
def HCAP_CFG_EN_PTP : Fld := ⟨5, 1⟩
def HCAP_CFG_EN_RING : Fld := ⟨6, 1⟩
def HCAP_CFG_THRESH : Fld := ⟨16, 10⟩
def HCAP_E_ENTRY : Fld := ⟨0, 32⟩
def HCAP_LEVEL_LEVEL : Fld := ⟨0, 11⟩
def HCAP_LOST_LOST : Fld := ⟨0, 32⟩
def HREF_IN_EN : Fld := ⟨0, 1⟩
def HREF_IN_FMT : Fld := ⟨4, 4⟩
def HREF_IN_TERM : Fld := ⟨8, 1⟩
def HREF_OUT_EN : Fld := ⟨0, 1⟩
def HREF_OUT_FMT : Fld := ⟨4, 4⟩
def HREF_OFS_OFS : Fld := ⟨0, 32⟩
def HREF_PPS_PPS_OUT_EN : Fld := ⟨0, 1⟩
def HREF_PPS_PPS_IN_EN : Fld := ⟨1, 1⟩
def HREF_PPS_M10_OUT_EN : Fld := ⟨2, 1⟩
def HREF_PPS_WIDTH : Fld := ⟨8, 8⟩
def HREF_PPSOFS_OFS : Fld := ⟨0, 32⟩
def HREF_INSTAT_LOCK : Fld := ⟨0, 1⟩
def HREF_INSTAT_LOST : Fld := ⟨1, 1⟩
def HREF_INSTAT_DET_FMT : Fld := ⟨4, 4⟩
def HEPC_CFG_MODE : Fld := ⟨0, 1⟩
def HEPC_CFG_RATE : Fld := ⟨4, 4⟩
def HEPC_CFG_FRAMES : Fld := ⟨8, 8⟩
def HEPC_NUM_NUM : Fld := ⟨0, 32⟩
def HEPC_DEN_DEN : Fld := ⟨0, 32⟩
def HEPC_EPOCH_EPOCH : Fld := ⟨0, 32⟩
def HEPC_BND_TIME : Fld := ⟨0, 32⟩
def HEPC_NXT_TIME : Fld := ⟨0, 32⟩
def HRING_CFG_ROLE : Fld := ⟨0, 2⟩
def HRING_CFG_NODE_ID : Fld := ⟨16, 16⟩
def HRING_LDLY_LDLY : Fld := ⟨0, 32⟩
def HRING_STAT_LINK_A : Fld := ⟨0, 1⟩
def HRING_STAT_LINK_B : Fld := ⟨1, 1⟩
def HRING_STAT_CRC_ERR : Fld := ⟨2, 1⟩
def HRING_STAT_UNKNOWN : Fld := ⟨3, 1⟩
def HRING_STAT_OWN_ID : Fld := ⟨4, 1⟩
def HRING_STAT_FOREIGN : Fld := ⟨5, 1⟩
def HSNP_CFG_DRAIN : Fld := ⟨0, 8⟩
def HSNP_CFG_PIN_LIMIT : Fld := ⟨8, 8⟩
def HSNP_CUR_SLOT : Fld := ⟨0, 2⟩
def HSNP_CUR_VALID : Fld := ⟨2, 1⟩
def HSNP_CUREPOCH_EPOCH : Fld := ⟨0, 32⟩
def HSNP_SLOTS_STATE0 : Fld := ⟨0, 2⟩
def HSNP_SLOTS_STATE1 : Fld := ⟨8, 2⟩
def HSNP_SLOTS_STATE2 : Fld := ⟨16, 2⟩
def HSNP_SLOTS_STATE3 : Fld := ⟨24, 2⟩
def HSNP_SLOTS_PINNED0 : Fld := ⟨2, 1⟩
def HSNP_SLOTS_PINNED1 : Fld := ⟨10, 1⟩
def HSNP_SLOTS_PINNED2 : Fld := ⟨18, 1⟩
def HSNP_SLOTS_PINNED3 : Fld := ⟨26, 1⟩
def HSNP_PIN_PIN : Fld := ⟨0, 1⟩
def HSNP_PIN_UNPIN : Fld := ⟨1, 1⟩
def HSNP_PIN_HELD : Fld := ⟨2, 1⟩
def HSNP_PIN_SLOT : Fld := ⟨4, 2⟩
def HSNP_PIN_PIN_REFUSED : Fld := ⟨8, 1⟩
def HSNP_PIN_PIN_LAPSED : Fld := ⟨9, 1⟩
def HSNP_PINEPOCH_EPOCH : Fld := ⟨0, 32⟩
def HSNP_STRADDLE_COUNT : Fld := ⟨0, 32⟩
def HCOM_CFG_GUARD : Fld := ⟨0, 9⟩
def HCOM_TARGET_EPOCH : Fld := ⟨0, 32⟩
def HCOM_CMD_DOMAIN : Fld := ⟨0, 9⟩
def HCOM_CMD_TWIN : Fld := ⟨9, 1⟩
def HCOM_CMD_COMMIT : Fld := ⟨10, 1⟩
def HCOM_CMD_WITHDRAW : Fld := ⟨11, 1⟩
def HCOM_DSEL_DOMAIN : Fld := ⟨0, 9⟩
def HCOM_STAT_STATE : Fld := ⟨0, 3⟩
def HCOM_STAT_LAST_STATUS : Fld := ⟨8, 8⟩
def HCOM_STAT_LAST_ID : Fld := ⟨16, 16⟩
def HCOM_LASTEPOCH_EPOCH : Fld := ⟨0, 32⟩
def HCOM_CHECK_FIRST_RULE : Fld := ⟨0, 8⟩
def HCOM_CHECK_FAIL_COUNT : Fld := ⟨8, 8⟩
def HCOM_MYSTAT_STATUS : Fld := ⟨0, 8⟩
def HCOM_MYSTAT_RULE : Fld := ⟨8, 8⟩
def HCOM_MYSTAT_ID : Fld := ⟨16, 16⟩
def HCOM_FLOG0_RULE : Fld := ⟨0, 8⟩
def HCOM_FLOG1_ADDR : Fld := ⟨0, 32⟩
def HCOM_PFW_ACTIVE : Fld := ⟨0, 1⟩
def HCOM_PFW_SEEN : Fld := ⟨1, 1⟩
def HCOM_SAVE_SAVE_GO : Fld := ⟨0, 1⟩
def HCOM_SAVE_BUSY : Fld := ⟨1, 1⟩
def HCOM_SAVE_DONE : Fld := ⟨2, 1⟩
def HCOM_SAVE_ABANDONED : Fld := ⟨3, 1⟩
def HCOM_SAVE_FAIL : Fld := ⟨4, 1⟩
def HCOM_SAVE_SLOT : Fld := ⟨16, 1⟩
def HCOM_LFACK_ACK : Fld := ⟨0, 1⟩
def HCOM_LFACK_BLOCKED : Fld := ⟨1, 1⟩
def PG_ID_INSTANCE : Fld := ⟨0, 16⟩
def PG_ID_TYPE : Fld := ⟨16, 16⟩
def PG_REV_SILICON : Fld := ⟨0, 8⟩
def PG_REV_LAYOUT : Fld := ⟨8, 24⟩
def PG_STATE_APPLY_EPOCH : Fld := ⟨0, 24⟩
def PG_STATE_STATE : Fld := ⟨24, 3⟩
def PG_CTRL_ERR_CLR : Fld := ⟨0, 1⟩
def PG_CTRL_BLOCK : Fld := ⟨8, 24⟩
def EV_STAT_EV : Fld := ⟨0, 32⟩
def EV_EN_EN : Fld := ⟨0, 32⟩
def EV_FORCE_FORCE : Fld := ⟨0, 32⟩
def ERR_CNT_COUNT : Fld := ⟨0, 32⟩
def OWNER_VIEW_DOMAIN : Fld := ⟨0, 9⟩
def OWNER_VIEW_OWNED : Fld := ⟨9, 1⟩
def OWNER_VIEW_OWNER : Fld := ⟨10, 3⟩
def OWNER_VIEW_YOU : Fld := ⟨13, 1⟩
def OWNER_VIEW_PRIO : Fld := ⟨16, 4⟩
def LH_EPOCH_EPOCH : Fld := ⟨0, 32⟩
def LH_COMMIT_ID : Fld := ⟨0, 16⟩
def LH_COMMIT_DOMAIN : Fld := ⟨16, 9⟩
def LH_ASSIGN_HOLDER : Fld := ⟨0, 9⟩
def HCFG_DEVID_PART : Fld := ⟨0, 16⟩
def HCFG_DEVID_SILICON : Fld := ⟨16, 8⟩
def HCFG_DEVID_SIDE : Fld := ⟨24, 1⟩
def HCFG_DEVID_BOOT_MODE : Fld := ⟨25, 3⟩
def HCFG_SERIAL_SERIAL : Fld := ⟨0, 32⟩
def HOWN_CFG_LAPSE_N : Fld := ⟨0, 8⟩
def HOWN_REQ_DOMAIN : Fld := ⟨0, 9⟩
def HOWN_REQ_PRIO : Fld := ⟨12, 4⟩
def HOWN_REQ_TARGET : Fld := ⟨16, 3⟩
def HOWN_REQ_CLAIM : Fld := ⟨24, 1⟩
def HOWN_REQ_HANDOVER : Fld := ⟨25, 1⟩
def HOWN_REQ_ACCEPT : Fld := ⟨26, 1⟩
def HOWN_REQ_RELEASE : Fld := ⟨27, 1⟩
def HOWN_REQ_FORCE_LAPSE : Fld := ⟨28, 1⟩
def HOWN_MYSTAT_RESULT : Fld := ⟨0, 8⟩
def HOWN_MYSTAT_DOMAIN : Fld := ⟨8, 9⟩
def HOWN_DSEL_DOMAIN : Fld := ⟨0, 9⟩
def HOWN_STAT_STATE : Fld := ⟨0, 2⟩
def HOWN_STAT_OWNER : Fld := ⟨4, 3⟩
def HOWN_STAT_PRIO : Fld := ⟨8, 4⟩
def HOWN_STAT_TARGET : Fld := ⟨12, 3⟩
def HOWN_STAT_STALE : Fld := ⟨16, 8⟩
def HOWN_WREFUSED_COUNT : Fld := ⟨0, 32⟩
def HOWN_ALIVE_ALIVE : Fld := ⟨0, 32⟩
def HPCI_LINK_SPEED : Fld := ⟨0, 3⟩
def HPCI_LINK_WIDTH : Fld := ⟨4, 4⟩
def HPCI_FUNC_BME : Fld := ⟨0, 1⟩
def HPCI_FUNC_MSIX_EN : Fld := ⟨1, 1⟩
def HPCI_FUNC_UR : Fld := ⟨8, 8⟩
def HPCI_FUNC_BAD : Fld := ⟨16, 8⟩
def HPCI_FUNC_FLR : Fld := ⟨24, 8⟩
def HSVC_ERR_CRC_ERR : Fld := ⟨0, 16⟩
def HSVC_ERR_BAD_CMD : Fld := ⟨16, 16⟩
def FCH_MODE_DIR : Fld := ⟨0, 2⟩
def FCH_MODE_ESS : Fld := ⟨2, 3⟩
def FCH_MODE_CLASS : Fld := ⟨5, 1⟩
def FCH_MODE_MERGE : Fld := ⟨6, 1⟩
def FCH_MODE_MPATH : Fld := ⟨7, 2⟩
def FCH_MODE_FRAME_EV : Fld := ⟨9, 1⟩
def FCH_MODE_EGRESS : Fld := ⟨16, 16⟩
def FCH_MODE_CUT : Fld := ⟨16, 1⟩
def FCH_MODE_REW_SEQ : Fld := ⟨17, 1⟩
def FCH_MODE_REW_TS : Fld := ⟨18, 1⟩
def FCH_MODE_REW_SSRC : Fld := ⟨19, 1⟩
def FCH_MODE_PACE : Fld := ⟨20, 2⟩
def FCH_MODE_GRP : Fld := ⟨22, 4⟩
def FCH_MODE_DROP_LATE : Fld := ⟨26, 1⟩
def FCH_EVMASK_KINDS : Fld := ⟨1, 15⟩
def FCH_EVMASK_EKINDS : Fld := ⟨16, 16⟩
def FCH_POOL_POOL : Fld := ⟨0, 6⟩
def FCH_KEYP_PORT : Fld := ⟨0, 8⟩
def FCH_KEYP_VID : Fld := ⟨8, 12⟩
def FCH_KEYP_VLAN_EN : Fld := ⟨20, 1⟩
def FCH_KEYP_IPV6 : Fld := ⟨21, 1⟩
def FCH_KEYP_SSRC_EN : Fld := ⟨22, 1⟩
def FCH_KEYU_UDP : Fld := ⟨0, 16⟩
def FCH_KEYS_SSRC : Fld := ⟨0, 32⟩
def FCH_KEYIP_IP : Fld := ⟨0, 32⟩
def FCH_MERGE_WIN : Fld := ⟨0, 16⟩
def FCH_MERGE_SKEW_LIM : Fld := ⟨16, 16⟩
def FCH_RTP_RTP_CLK : Fld := ⟨0, 2⟩
def FCH_NPKT_NPACKETS : Fld := ⟨0, 20⟩
def FCH_CMAX_CMAX : Fld := ⟨0, 16⟩
def FCH_CMAX_VRX_FULL : Fld := ⟨16, 16⟩
def FCH_TDRAIN_NS : Fld := ⟨0, 32⟩
def FCH_TRS_NS : Fld := ⟨0, 32⟩
def FCH_FRAC_TDRAIN_FR : Fld := ⟨0, 16⟩
def FCH_FRAC_TRS_FR : Fld := ⟨16, 16⟩
def FCH_TROFS_TROFFSET : Fld := ⟨0, 32⟩
def FCH_HIST_HMODE : Fld := ⟨0, 1⟩
def FCH_HIST_HW : Fld := ⟨8, 24⟩
def FCH_POL0_CIR : Fld := ⟨0, 32⟩
def FCH_POL1_CBS : Fld := ⟨0, 24⟩
def FCH_CTL_RESYNC : Fld := ⟨0, 1⟩
def FCH_CTL_SYNCED : Fld := ⟨8, 1⟩
def FCH_CTL_SILENT_A : Fld := ⟨9, 1⟩
def FCH_CTL_SILENT_B : Fld := ⟨10, 1⟩
def FCH_CTL_CINST_NOW : Fld := ⟨16, 16⟩
def FCH_ESRC_SRC : Fld := ⟨0, 15⟩
def FCH_ESRC_SRC_EN : Fld := ⟨15, 1⟩
def FCH_ESRC_PORT : Fld := ⟨16, 8⟩
def FCH_ESRC_IPV6 : Fld := ⟨24, 1⟩
def FCH_EHDR_DSCP : Fld := ⟨0, 6⟩
def FCH_EHDR_TTL : Fld := ⟨8, 8⟩
def FCH_EHDR_VID : Fld := ⟨16, 12⟩
def FCH_EHDR_VLAN_EN : Fld := ⟨28, 1⟩
def FCH_EHDR_PCP : Fld := ⟨29, 3⟩
def FCH_EDMAC_MAC : Fld := ⟨0, 32⟩
def FCH_ESMAC_MAC : Fld := ⟨0, 32⟩
def FCH_EDIP_IP : Fld := ⟨0, 32⟩
def FCH_ESIP_IP : Fld := ⟨0, 32⟩
def FCH_EUDP_DPORT : Fld := ⟨0, 16⟩
def FCH_EUDP_SPORT : Fld := ⟨16, 16⟩
def FCH_ESSRC_VALUE : Fld := ⟨0, 32⟩
def FCH_ESEQ0_VALUE : Fld := ⟨0, 32⟩
def FCH_ETSOFS_VALUE : Fld := ⟨0, 32⟩
def FCH_EPER_PER : Fld := ⟨0, 5⟩
def FCH_EPER_SW_WAIT : Fld := ⟨8, 8⟩
def FCH_EPER_GAP_LIM : Fld := ⟨16, 8⟩
def FCH_EPHASE_NS : Fld := ⟨0, 32⟩
def FCH_EDLY_NS : Fld := ⟨0, 32⟩
def FCH_ETROFS_NS : Fld := ⟨0, 32⟩
def FCH_ETRS_NS : Fld := ⟨0, 32⟩
def FCH_ETRSFR_TRS_FR : Fld := ⟨0, 16⟩
def FCH_EPPS_PEAK_PPS : Fld := ⟨0, 30⟩
def FCH_EBPS_PEAK_BPS : Fld := ⟨0, 20⟩
def FCH_EBPS_LMAX : Fld := ⟨20, 12⟩
def FCH_ESLIP_SLIP_LIM : Fld := ⟨0, 24⟩
def PRT_CFG_SPLIT : Fld := ⟨0, 2⟩
def PRT_SUB_EN : Fld := ⟨0, 1⟩
def PRT_SUB_MEDIA : Fld := ⟨1, 2⟩
def PRT_SUB_MAXLEN : Fld := ⟨4, 12⟩
def PRT_SUB_HOSTF : Fld := ⟨16, 4⟩
def PRT_HCFG_RXPOOL : Fld := ⟨0, 6⟩
def PRT_HCFG_TXPOOL : Fld := ⟨8, 6⟩
def PRT_HCFG_THRESH : Fld := ⟨16, 9⟩
def PRT_HRX0_LEN : Fld := ⟨0, 12⟩
def PRT_HRX0_SUB : Fld := ⟨12, 3⟩
def PRT_HRX0_CAUSE : Fld := ⟨15, 4⟩
def PRT_HRX0_VALID : Fld := ⟨31, 1⟩
def PRT_HRX1_HANDLE : Fld := ⟨0, 32⟩
def PRT_HRX2_STAMP : Fld := ⟨0, 32⟩
def PRT_HFREE_HANDLE : Fld := ⟨0, 26⟩
def PRT_HALLOC_HANDLE : Fld := ⟨0, 26⟩
def PRT_HALLOC_VALID : Fld := ⟨31, 1⟩
def PRT_HTX0_HANDLE : Fld := ⟨0, 26⟩
def PRT_HTX1_LEN : Fld := ⟨0, 12⟩
def PRT_HTX1_SUB : Fld := ⟨12, 3⟩
def PRT_HQSTAT_RXLEVEL : Fld := ⟨0, 9⟩
def PRT_HQSTAT_TXLEVEL : Fld := ⟨16, 7⟩
def PRT_HQSTAT_HRX_LOST : Fld := ⟨24, 1⟩
def PRT_HQSTAT_HTX_FULL : Fld := ⟨25, 1⟩
def PRT_LANE_TXINV : Fld := ⟨0, 1⟩
def PRT_LANE_RXINV : Fld := ⟨1, 1⟩
def PRT_LANE_TXPRESET : Fld := ⟨4, 3⟩
def PRT_LINK_UP : Fld := ⟨0, 1⟩
def PRT_LINK_AN_DONE : Fld := ⟨1, 1⟩
def PRT_LINK_LT_DONE : Fld := ⟨2, 1⟩
def PRT_LINK_FEC_LOCK : Fld := ⟨3, 1⟩
def PRT_LINK_LT_FAIL : Fld := ⟨4, 1⟩
def PRT_LINK_LOCAL_FAULT : Fld := ⟨5, 1⟩
def PRT_LINK_REMOTE_FAULT : Fld := ⟨6, 1⟩
def PCH_MODE_MODE : Fld := ⟨0, 4⟩
def PCH_MODE_LATE_POL : Fld := ⟨4, 1⟩
def PCH_MODE_INV : Fld := ⟨5, 1⟩
def PCH_MODE_IDLE : Fld := ⟨6, 1⟩
def PCH_MODE_LEVEL : Fld := ⟨7, 1⟩
def PCH_MODE_ALIGN : Fld := ⟨8, 1⟩
def PCH_MODE_LOADGRP : Fld := ⟨9, 3⟩
def PCH_EVMASK_KINDS : Fld := ⟨1, 15⟩
def PCH_EVMASK_PKINDS : Fld := ⟨16, 16⟩
def PCH_LATO_LAT : Fld := ⟨0, 32⟩
def PCH_LATI_LAT : Fld := ⟨0, 32⟩
def PCH_PNUM0_PNUM : Fld := ⟨0, 32⟩
def PCH_PNUM1_PNUM : Fld := ⟨0, 16⟩
def PCH_PNUM1_PDEN : Fld := ⟨16, 16⟩
def PCH_PHASE_NS : Fld := ⟨0, 32⟩
def PCH_PHFR_PHASE_FR : Fld := ⟨0, 16⟩
def PCH_CMPA_NS : Fld := ⟨0, 32⟩
def PCH_CMPB_NS : Fld := ⟨0, 32⟩
def PCH_CMPFR_A_FR : Fld := ⟨0, 16⟩
def PCH_CMPFR_B_FR : Fld := ⟨16, 16⟩
def PCH_COUNT_COUNT : Fld := ⟨0, 24⟩
def PCH_PWM_CENTRE : Fld := ⟨0, 1⟩
def PCH_PWM_RFR_EN : Fld := ⟨1, 1⟩
def PCH_PWM_RFR_N : Fld := ⟨8, 8⟩
def PCH_PWM_DT : Fld := ⟨16, 16⟩
def PCH_PWMW_MINPW : Fld := ⟨0, 16⟩
def PCH_PWMW_RFR_W : Fld := ⟨16, 16⟩
def PCH_DUTY0_DUTY : Fld := ⟨0, 25⟩
def PCH_TRIG_POS : Fld := ⟨0, 24⟩
def PCH_TRIG_EN : Fld := ⟨31, 1⟩
def PCH_TOUT_LEADER : Fld := ⟨0, 6⟩
def PCH_TOUT_SEL : Fld := ⟨6, 2⟩
def PCH_TOUT_WIDTH : Fld := ⟨16, 16⟩
def PCH_IN_EDGE : Fld := ⟨0, 2⟩
def PCH_IN_FILT : Fld := ⟨8, 8⟩
def PCH_IN_GATE : Fld := ⟨16, 6⟩
def PCH_IN_GATE_EN : Fld := ⟨22, 1⟩
def PCH_CCMP_CCMP : Fld := ⟨0, 32⟩
def PCH_DUTY_DUTY : Fld := ⟨0, 25⟩
def PCH_EQ0_T : Fld := ⟨0, 32⟩
def PCH_EQ1_T : Fld := ⟨0, 32⟩
def PCH_EQ2_LEVEL : Fld := ⟨0, 1⟩
def PCH_CTL_RESTART : Fld := ⟨0, 1⟩
def PCH_CTL_STOP : Fld := ⟨1, 1⟩
def PCH_CTL_QFLUSH : Fld := ⟨2, 1⟩
def PCH_CTL_CNT_CLR : Fld := ⟨3, 1⟩
def PCH_CTL_LOAD : Fld := ⟨4, 1⟩
def PCH_STAT_QLEVEL : Fld := ⟨0, 6⟩
def PCH_STAT_PIN : Fld := ⟨8, 1⟩
def PCH_STAT_RUNNING : Fld := ⟨9, 1⟩
def PCH_STAT_Q_REFUSED : Fld := ⟨16, 1⟩
def PCH_STAT_CAP_LOST : Fld := ⟨17, 1⟩
def PCH_CNT0_COUNT : Fld := ⟨0, 32⟩
def PCH_CNT1_COUNT : Fld := ⟨0, 16⟩
def PCH_CAP0_VALID : Fld := ⟨0, 1⟩
def PCH_CAP0_LEVEL : Fld := ⟨1, 1⟩
def PCH_CAP0_LEFT : Fld := ⟨8, 5⟩
def PCH_CAP1_STAMP : Fld := ⟨0, 32⟩
def TMR_CFG_EN : Fld := ⟨0, 1⟩
def TMR_CFG_DIR : Fld := ⟨1, 2⟩
def TMR_CFG_START : Fld := ⟨3, 2⟩
def TMR_CFG_SLEEP_POL : Fld := ⟨5, 1⟩
def TMR_CFG_GID : Fld := ⟨16, 16⟩
def TMR_TICK_TICK : Fld := ⟨0, 32⟩
def TMR_TOP0_TOP : Fld := ⟨0, 32⟩
def TMR_INIT0_INIT : Fld := ⟨0, 32⟩
def TMR_HI_TOP : Fld := ⟨0, 16⟩
def TMR_HI_INIT : Fld := ⟨16, 16⟩
def TMR_CMP0_CMP : Fld := ⟨0, 32⟩
def TMR_CMP1_CMP : Fld := ⟨0, 16⟩
def TMR_SOFS_SOFS : Fld := ⟨0, 32⟩
def TMR_VAL0_V : Fld := ⟨0, 32⟩
def TMR_VAL1_V : Fld := ⟨0, 16⟩
def TMR_VAL1_RUNNING : Fld := ⟨16, 1⟩
def TMR_VAL1_DOWN_NOW : Fld := ⟨17, 1⟩
def TMR_ARM0_T : Fld := ⟨0, 32⟩
def TMR_ARM1_T : Fld := ⟨0, 32⟩
def TMR_CTL_STOP : Fld := ⟨0, 1⟩
def TMR_CTL_LATE : Fld := ⟨1, 1⟩
def TMR_CTL_SLEPT : Fld := ⟨16, 16⟩
def PCH_SAFE_SAFE : Fld := ⟨0, 2⟩
def PCH_SAFE_ENG_SAFE : Fld := ⟨2, 1⟩
def PCH_SAFE_HALT_SAFE : Fld := ⟨3, 1⟩
def PCH_LIM_ACT : Fld := ⟨0, 1⟩
def PCH_LIM_CHAT_N : Fld := ⟨8, 8⟩
def PCH_LIM_CHAT_W : Fld := ⟨16, 16⟩
def PCH_GPULL_PULL : Fld := ⟨0, 24⟩
def PCH_GHOLD_HOLD_DUTY : Fld := ⟨0, 25⟩
def PCH_SAFEST_CAUSE : Fld := ⟨0, 9⟩
def PCH_SAFEST_CHATTER : Fld := ⟨16, 1⟩
def TRIP_CFG_EN : Fld := ⟨0, 1⟩
def TRIP_CFG_POL : Fld := ⟨1, 1⟩
def TRIP_CFG_FILT : Fld := ⟨8, 8⟩
def TRIP_CFG_BLANK_SRC : Fld := ⟨16, 6⟩
def TRIP_CFG_BLANK_EDGE : Fld := ⟨22, 2⟩
def TRIP_BLK_BLANK_W : Fld := ⟨0, 16⟩
def TRIP_MASK_MASK : Fld := ⟨0, 32⟩
def AX_PINS_STEP : Fld := ⟨0, 6⟩
def AX_PINS_STEP_EN : Fld := ⟨6, 1⟩
def AX_PINS_DIR : Fld := ⟨8, 6⟩
def AX_PINS_DIR_EN : Fld := ⟨14, 1⟩
def AX_PINS_LPOS : Fld := ⟨16, 6⟩
def AX_PINS_LPOS_EN : Fld := ⟨22, 1⟩
def AX_PINS_LNEG : Fld := ⟨24, 6⟩
def AX_PINS_LNEG_EN : Fld := ⟨30, 1⟩
def AX_OPT_EN : Fld := ⟨0, 1⟩
def AX_OPT_HOME_DIR : Fld := ⟨1, 1⟩
def AX_OPT_HOME : Fld := ⟨8, 6⟩
def AX_OPT_HOME_EN : Fld := ⟨14, 1⟩
def AX_PHOME_PHOME : Fld := ⟨0, 32⟩
def AX_HMAX_HMAX : Fld := ⟨0, 32⟩
def AX_HPOS_HPOS : Fld := ⟨0, 32⟩
def AX_TIME_SWIDTH : Fld := ⟨0, 16⟩
def AX_TIME_DSETUP : Fld := ⟨16, 16⟩
def AX_DRV_DRIVE : Fld := ⟨0, 32⟩
def GRP_CFG_EN : Fld := ⟨0, 1⟩
def GRP_CFG_HS : Fld := ⟨8, 6⟩
def GRP_MEM_M0 : Fld := ⟨0, 6⟩
def GRP_MEM_M1 : Fld := ⟨8, 6⟩
def GRP_MEM_M2 : Fld := ⟨16, 6⟩
def GRP_MEM_M3 : Fld := ⟨24, 6⟩
def GRP_MEM_E0 : Fld := ⟨7, 1⟩
def GRP_MEM_E1 : Fld := ⟨15, 1⟩
def GRP_MEM_E2 : Fld := ⟨23, 1⟩
def GRP_MEM_E3 : Fld := ⟨31, 1⟩
def GRP_HOLDP_HOLD_P : Fld := ⟨0, 24⟩
def TRIP_CTL_CLEAR : Fld := ⟨0, 1⟩
def TRIP_CTL_ASSERTED : Fld := ⟨8, 1⟩
def TRIP_CTL_TRIPPED : Fld := ⟨9, 1⟩
def TRIP_CTL_CLR_REFUSED : Fld := ⟨16, 1⟩
def TRIP_CNT_TRIPS : Fld := ⟨0, 16⟩
def TRIP_CNT_BLANKED : Fld := ⟨16, 16⟩
def AX_STEPS_STEPS : Fld := ⟨0, 32⟩
def AX_PCRU_NS : Fld := ⟨0, 32⟩
def AX_PSTA_NS : Fld := ⟨0, 32⟩
def AX_T_T : Fld := ⟨0, 32⟩
def AX_CMD_NR : Fld := ⟨0, 16⟩
def AX_CMD_AT : Fld := ⟨16, 1⟩
def AX_CMD_GO : Fld := ⟨24, 1⟩
def AX_CMD_HOME_GO : Fld := ⟨25, 1⟩
def AX_CMD_STOP : Fld := ⟨26, 1⟩
def AX_CMD_ABORT : Fld := ⟨27, 1⟩
def AX_CMD_CLR : Fld := ⟨28, 1⟩
def AX_STAT_STATE : Fld := ⟨0, 2⟩
def AX_STAT_HOMED : Fld := ⟨2, 1⟩
def AX_STAT_ACTIVE : Fld := ⟨3, 3⟩
def AX_STAT_RESULT : Fld := ⟨8, 8⟩
def AX_STAT_LATE : Fld := ⟨16, 1⟩
def AX_STAT_CLR_REFUSED : Fld := ⟨17, 1⟩
def AX_POS_POS : Fld := ⟨0, 32⟩
def GRP_STAT_HS_ON : Fld := ⟨0, 1⟩
def GRP_STAT_M_ON : Fld := ⟨1, 4⟩
def GRP_STAT_PULLING : Fld := ⟨5, 2⟩
def GRP_STAT_PULL_BUSY : Fld := ⟨7, 1⟩
def AU_CFG_EN : Fld := ⟨0, 1⟩
def AU_CFG_REV : Fld := ⟨1, 1⟩
def AU_CFG_Z_EN : Fld := ⟨2, 1⟩
def AU_CFG_PIN_A : Fld := ⟨8, 8⟩
def AU_CFG_PIN_B : Fld := ⟨16, 8⟩
def AU_CFG_PIN_Z : Fld := ⟨24, 8⟩
def AU_GEOM_NT : Fld := ⟨0, 11⟩
def AU_GEOM_DM1 : Fld := ⟨16, 16⟩
def AU_TTADDR_TT_ADDR : Fld := ⟨12, 17⟩
def AU_ZCOUNT_ZCOUNT : Fld := ⟨0, 28⟩
def AU_TRK_TOL : Fld := ⟨0, 8⟩
def AU_TRK_DIRQ : Fld := ⟨8, 4⟩
def AU_TRK_SUBST_WIN : Fld := ⟨16, 16⟩
def AU_CHK_ZTOL : Fld := ⟨0, 8⟩
def AU_CHK_CHK_GAP : Fld := ⟨8, 24⟩
def AU_STALL_STALL_T : Fld := ⟨0, 24⟩
def AU_PAIR_PARTNER : Fld := ⟨0, 3⟩
def AU_PAIR_PAIR_EN : Fld := ⟨3, 1⟩
def AU_GEAR_GNUM : Fld := ⟨0, 16⟩
def AU_GEAR_GDEN : Fld := ⟨16, 16⟩
def AU_PHLIM_PH_LIM : Fld := ⟨0, 32⟩
def AU_EXP_FLOW_EN : Fld := ⟨0, 1⟩
def AU_EXP_FMT : Fld := ⟨4, 4⟩
def AU_EXP_UNITS : Fld := ⟨8, 8⟩
def AU_EXP_FLOWCH : Fld := ⟨16, 15⟩
def AU_EXPOFS_EXP_OFS : Fld := ⟨0, 32⟩
def AU_HOLD_HOLD_MAX : Fld := ⟨0, 14⟩
def AU_RTP_PT : Fld := ⟨0, 7⟩
def AU_RTP_WHEEL_ID : Fld := ⟨16, 16⟩
def AU_SSRC_SSRC : Fld := ⟨0, 32⟩
def AU_OUT_EN : Fld := ⟨0, 1⟩
def AU_OUT_PASSED : Fld := ⟨1, 1⟩
def AU_OUT_PIN : Fld := ⟨8, 8⟩
def AU_STAT_STATE : Fld := ⟨0, 2⟩
def AU_STAT_QUAL : Fld := ⟨2, 1⟩
def AU_STAT_NEG : Fld := ⟨3, 1⟩
def AU_STAT_STALL : Fld := ⟨4, 1⟩
def AU_STAT_SUSPECT : Fld := ⟨5, 1⟩
def AU_STAT_LOSS_CAUSE : Fld := ⟨8, 4⟩
def AU_POS0_ANGLE : Fld := ⟨0, 32⟩
def AU_POS1_TURNS : Fld := ⟨0, 32⟩
def AU_POS2_SPEED : Fld := ⟨0, 32⟩
def AU_POS3_T : Fld := ⟨0, 32⟩
def AU_SETC0_SETC : Fld := ⟨0, 32⟩
def AU_SETC1_SETC : Fld := ⟨0, 32⟩
def AU_CTL_RESYNC : Fld := ⟨0, 1⟩
def AU_CTL_SETC_PENDING : Fld := ⟨1, 1⟩
def AU_Q0_ANGLE : Fld := ⟨0, 32⟩
def AU_Q1_TURNS : Fld := ⟨0, 32⟩
def AU_Q2_LEVEL : Fld := ⟨0, 1⟩
def AU_Q2_DIR : Fld := ⟨1, 2⟩
def AU_Q2_REPEAT : Fld := ⟨3, 1⟩
def AU_Q2_PULSE : Fld := ⟨4, 1⟩
def AU_QSTAT_LEVEL : Fld := ⟨0, 6⟩
def AU_QSTAT_FLUSH : Fld := ⟨8, 1⟩
def AU_QSTAT_Q_REFUSED : Fld := ⟨16, 1⟩
def TENG_CFG_SLICE : Fld := ⟨0, 16⟩
def TENG_CFG_WAIT_MAX : Fld := ⟨16, 16⟩
def TENG_STAT_STATE : Fld := ⟨0, 3⟩
def TENG_STAT_LAST_CAUSE : Fld := ⟨8, 8⟩
def TENG_STAT_PC : Fld := ⟨16, 13⟩
def TENG_IMG0_KIND : Fld := ⟨0, 8⟩
def TENG_IMG0_IFACE : Fld := ⟨8, 8⟩
def TENG_IMG0_PATCHES : Fld := ⟨16, 8⟩
def TENG_IMG1_VERSION : Fld := ⟨0, 32⟩
def TENG_LDADDR_ADDR : Fld := ⟨0, 29⟩
def TENG_LDCMD_LOAD : Fld := ⟨0, 1⟩
def TENG_LDCMD_PATCH : Fld := ⟨1, 1⟩
def TENG_LDSTAT_BUSY : Fld := ⟨0, 1⟩
def TENG_LDSTAT_QUEUED : Fld := ⟨1, 1⟩
def TENG_LDSTAT_RESULT : Fld := ⟨8, 8⟩
def TENG_DBG_HALT : Fld := ⟨0, 1⟩
def TENG_DBG_RESUME : Fld := ⟨1, 1⟩
def TENG_DBG_STEP : Fld := ⟨2, 1⟩
def TENG_DBG_BRK_EN : Fld := ⟨3, 1⟩
def TENG_DBG_BP_EN : Fld := ⟨4, 1⟩
def TENG_DBG_BP_ADDR : Fld := ⟨16, 13⟩
def TENG_DBGSEL_SEL : Fld := ⟨0, 6⟩
def TENG_DBGV0_VALUE : Fld := ⟨0, 32⟩
def TENG_DBGV1_VALUE : Fld := ⟨0, 32⟩
def TENG_INBOX_LEVEL : Fld := ⟨0, 8⟩
def TENG_INBOX_HELD : Fld := ⟨8, 8⟩
def HRAS_SHA_ROOM : Fld := ⟨0, 8⟩
def HRAS_SHA_EN : Fld := ⟨8, 1⟩
def HRAS_SHA_K0 : Fld := ⟨9, 7⟩
def HRAS_SHA_KN : Fld := ⟨16, 8⟩
def HRAS_SHA_DPW : Fld := ⟨24, 8⟩
def HRAS_SHB_BUDGET : Fld := ⟨0, 32⟩
def HRAS_CON0_PORT : Fld := ⟨0, 8⟩
def HRAS_CON0_ROOM : Fld := ⟨8, 8⟩
def HRAS_CON0_EN : Fld := ⟨16, 1⟩
def HRAS_CON0_BURST : Fld := ⟨20, 12⟩
def HRAS_CON1_IN : Fld := ⟨0, 16⟩
def HRAS_CON1_OUT : Fld := ⟨16, 16⟩
def HRAS_RES_ROOM0 : Fld := ⟨0, 8⟩
def HRAS_RES_ROOM1 : Fld := ⟨16, 8⟩
def HRAS_RES_EN0 : Fld := ⟨8, 1⟩
def HRAS_RES_EN1 : Fld := ⟨24, 1⟩
def HRAS_TURN_TURN0 : Fld := ⟨0, 16⟩
def HRAS_TURN_TURN1 : Fld := ⟨16, 16⟩
def ROOM_MIG_OLD : Fld := ⟨0, 15⟩
def ROOM_MIG_EN : Fld := ⟨15, 1⟩
def ROOM_MIG_NEW : Fld := ⟨16, 15⟩
def ROOM_HOLD0_FLOWCH : Fld := ⟨0, 16⟩
def ROOM_HOLD0_PINCH : Fld := ⟨16, 9⟩
def ROOM_HOLD1_TILES : Fld := ⟨0, 9⟩
def ROOM_HOLD1_BANKS : Fld := ⟨9, 12⟩
def ROOM_HOLD1_CONTRACTS : Fld := ⟨21, 9⟩
def ROOM_DEMAND_DEMAND : Fld := ⟨0, 32⟩
def ROOM_BLEFT_LEFT : Fld := ⟨0, 32⟩
def QMEM_BANK_HOLDER : Fld := ⟨0, 9⟩
def QMEM_BANK_INPOOL : Fld := ⟨9, 1⟩
def QMEM_BANK_RETIRING : Fld := ⟨10, 1⟩
def QMEM_BANK_STATE : Fld := ⟨11, 2⟩
def QMEM_BANK_TARGET : Fld := ⟨16, 9⟩
def QMEM_BANK_GIVE : Fld := ⟨28, 1⟩
def QMEM_BANK_NOSCRUB : Fld := ⟨29, 1⟩
def QMEM_BANK_REFUSED : Fld := ⟨30, 1⟩
def QMEM_CONF_COUNT : Fld := ⟨0, 32⟩
def QMEM_MTCMD_BANK : Fld := ⟨0, 9⟩
def QMEM_MTCMD_PRESERVE : Fld := ⟨9, 1⟩
def QMEM_MTCMD_GO : Fld := ⟨10, 1⟩
def QMEM_MTSTAT_STATE : Fld := ⟨0, 2⟩
def QMEM_MTSTAT_FAILS : Fld := ⟨16, 16⟩
def QMEM_MTADDR_ADDR : Fld := ⟨0, 29⟩
def POOL_CFG_DOM : Fld := ⟨0, 9⟩
def POOL_CFG_EN : Fld := ⟨9, 1⟩
def POOL_CFG_FIRST : Fld := ⟨10, 9⟩
def POOL_CFG_COUNT : Fld := ⟨19, 10⟩
def POOL_LOW_LOW : Fld := ⟨0, 17⟩
def POOL_FREE_FREE : Fld := ⟨0, 17⟩
def POOL_F0_DOUBLE_FREE : Fld := ⟨0, 16⟩
def POOL_F0_FOREIGN_FREE : Fld := ⟨16, 16⟩
def POOL_F1_STALE : Fld := ⟨0, 16⟩
def POOL_F1_BAD_HANDLE : Fld := ⟨16, 16⟩
def TPAN_WIN_BASE : Fld := ⟨0, 9⟩
def TPAN_WIN_SIZE : Fld := ⟨16, 9⟩
def TPAN_PADDR_ADDR : Fld := ⟨3, 15⟩
def TPAN_PDATA0_DATA : Fld := ⟨0, 32⟩
def TPAN_PDATA1_DATA : Fld := ⟨0, 32⟩
def TPAN_MTCMD_GO : Fld := ⟨0, 1⟩
def TPAN_MTCMD_PRESERVE : Fld := ⟨1, 1⟩
def TPAN_MTSTAT_STATE : Fld := ⟨0, 2⟩
def TPAN_MTSTAT_ADDR : Fld := ⟨2, 18⟩
def TPAN_MTSTAT_FAILS : Fld := ⟨20, 12⟩
def TPAN_CONF_DMA : Fld := ⟨0, 16⟩
def TPAN_CONF_HOST : Fld := ⟨16, 16⟩
def DMA_CFG_POLY : Fld := ⟨0, 2⟩
def DMA_CFG_CHK_EN : Fld := ⟨2, 1⟩
def DMA_PROG_ADDR : Fld := ⟨5, 24⟩
def DMA_CMD_RUN : Fld := ⟨0, 1⟩
def DMA_CMD_STOP : Fld := ⟨1, 1⟩
def DMA_CMD_REGGO : Fld := ⟨2, 1⟩
def DMA_STAT_STATE : Fld := ⟨0, 3⟩
def DMA_STAT_FAULT : Fld := ⟨8, 8⟩
def DMA_STAT_INDEX : Fld := ⟨16, 16⟩
def DMA_SRC0_OFFSET : Fld := ⟨0, 32⟩
def DMA_DST0_OFFSET : Fld := ⟨0, 32⟩
def DMA_SRC1_SPACE : Fld := ⟨0, 32⟩
def DMA_DST1_SPACE : Fld := ⟨0, 32⟩
def DMA_COUNT_BYTES : Fld := ⟨0, 24⟩
def DMA_CHK_CHK : Fld := ⟨0, 32⟩
def DMA_BYTES_BYTES : Fld := ⟨0, 32⟩
def HLFL_E0_ORIG : Fld := ⟨0, 3⟩
def HLFL_E0_TWIN_M : Fld := ⟨3, 3⟩
def HLFL_E0_LINK : Fld := ⟨6, 1⟩
def HLFL_E0_SPACE : Fld := ⟨7, 1⟩
def HLFL_E0_CAUSE : Fld := ⟨8, 4⟩
def HLFL_E0_VALID : Fld := ⟨31, 1⟩
def HLFL_E1_SEQ : Fld := ⟨0, 32⟩
def HLFL_E2_EPOCH : Fld := ⟨0, 32⟩
def HLFL_E3_ADDR : Fld := ⟨0, 32⟩
def HLFL_E4_STAMP : Fld := ⟨0, 32⟩
def HLFL_LEVEL_LEVEL : Fld := ⟨0, 7⟩
def HLFL_LOST_LOST : Fld := ⟨0, 32⟩
def HLFL_ORIG_COUNT : Fld := ⟨0, 32⟩
def HLFL_SEQ_SEQ : Fld := ⟨0, 32⟩
def TIRQ_CH_TGT : Fld := ⟨0, 2⟩
def TIRQ_PR_TGT : Fld := ⟨0, 2⟩
def TIRQ_ENG_EMIT : Fld := ⟨0, 2⟩
def TIRQ_ENG_TMR : Fld := ⟨2, 2⟩
def TIRQ_ENG_SYS : Fld := ⟨4, 2⟩
def TIRQ_SUB_ID : Fld := ⟨0, 16⟩
def TIRQ_SUB_EN : Fld := ⟨16, 1⟩
def TIRQ_DROP_COUNT : Fld := ⟨0, 32⟩
def QIRQ_DOM_FMASK : Fld := ⟨0, 6⟩
def QIRQ_DOM_VBASE : Fld := ⟨7, 11⟩
def QIRQ_DOM_MASK_W : Fld := ⟨18, 8⟩
def HIRQ_DOM_FMASK : Fld := ⟨0, 6⟩
def HIRQ_DOM_VBASE : Fld := ⟨7, 11⟩
def HIRQ_DOM_MASK_W : Fld := ⟨18, 8⟩
def HIRQ_PRIV_PMASK : Fld := ⟨0, 6⟩
def HIRQ_PRIV_PVEC : Fld := ⟨7, 11⟩
def HIRQ_WAKE_ID : Fld := ⟨0, 16⟩
def HIRQ_WAKE_IGN : Fld := ⟨16, 8⟩
def HIRQ_WAKE_EN : Fld := ⟨24, 1⟩
def HIRQ_MSGS_COUNT : Fld := ⟨0, 32⟩
def HIRQ_NOTGT_COUNT : Fld := ⟨0, 32⟩
def CVU_CFG_POLY : Fld := ⟨0, 2⟩
def CVU_CFG_SPACE : Fld := ⟨2, 2⟩
def CVU_CFG_T : Fld := ⟨4, 9⟩
def CVU_CFG_TRIG : Fld := ⟨13, 2⟩
def CVU_CFG_CMP_EN : Fld := ⟨15, 1⟩
def CVU_CFG_N : Fld := ⟨16, 8⟩
def CVU_ADDR_ADDR : Fld := ⟨0, 29⟩
def CVU_LEN_LEN : Fld := ⟨0, 30⟩
def CVU_EXP_EXPECT : Fld := ⟨0, 32⟩
def CVU_GUARD_EN : Fld := ⟨0, 1⟩
def CVU_GUARD_FEED : Fld := ⟨1, 1⟩
def CVU_GUARD_ADDR : Fld := ⟨4, 25⟩
def CVU_CMD_GO : Fld := ⟨0, 1⟩
def CVU_CMD_STOP : Fld := ⟨1, 1⟩
def CVU_STAT_STATE : Fld := ⟨0, 2⟩
def CVU_STAT_MISMATCH : Fld := ⟨2, 1⟩
def CVU_STAT_FAULT : Fld := ⟨8, 8⟩
def CVU_VAL_VALUE : Fld := ⟨0, 32⟩
def CVU_GSTAT_OUTCOME : Fld := ⟨0, 2⟩
def CVU_GSTAT_CAUSE : Fld := ⟨4, 4⟩
def CVU_GALIVE_ALIVE : Fld := ⟨0, 32⟩
def ZYN_CFG_PAIR_EN : Fld := ⟨0, 1⟩
def ZYN_CFG_HBWIRE : Fld := ⟨1, 1⟩
def ZYN_CFG_RING_TKO : Fld := ⟨2, 1⟩
def ZYN_CFG_TOFS_LIM : Fld := ⟨8, 8⟩
def ZYN_CFG_TKO_DLY : Fld := ⟨16, 13⟩
def ZYN_ASYM_ASYM : Fld := ⟨0, 32⟩
def ZYN_TREC_EN : Fld := ⟨0, 1⟩
def ZYN_TREC_ADDR : Fld := ⟨4, 25⟩
def ZYN_CTL_JOIN : Fld := ⟨0, 1⟩
def ZYN_CTL_LEAVE : Fld := ⟨1, 1⟩
def ZYN_CTL_TAKE : Fld := ⟨2, 1⟩
def ZYN_CTL_YIELD_ALL : Fld := ⟨3, 1⟩
def ZYN_CTL_HANDBACK : Fld := ⟨4, 1⟩
def ZYN_CTL_FOLLOW : Fld := ⟨8, 1⟩
def ZYN_STAT_LINK : Fld := ⟨0, 2⟩
def ZYN_STAT_PAIR : Fld := ⟨2, 3⟩
def ZYN_STAT_DIVERGED : Fld := ⟨5, 1⟩
def ZYN_STAT_OFS_OVER : Fld := ⟨6, 1⟩
def ZYN_STAT_SIDE_CONFLICT : Fld := ⟨7, 1⟩
def ZYN_STAT_RING_TKO : Fld := ⟨8, 1⟩
def ZYN_STAT_HO_BUSY : Fld := ⟨9, 1⟩
def ZYN_STAT_FOLLOW_FAIL : Fld := ⟨10, 1⟩
def ZYN_STAT_LANES : Fld := ⟨16, 8⟩
def ZYN_STAT_JOIN_RESULT : Fld := ⟨24, 8⟩
def ZYN_OFS_THETA : Fld := ⟨0, 32⟩
def ZYN_RTT_RTT : Fld := ⟨0, 32⟩
def ZYN_TEPOCH_EPOCH : Fld := ⟨0, 32⟩
def ZYN_DIVMAP_MAP : Fld := ⟨0, 32⟩
def ZYN_DRV_DRIVE : Fld := ⟨0, 32⟩
def ZYN_HBMISS_COUNT : Fld := ⟨0, 32⟩
def ZYN_NAK_COUNT : Fld := ⟨0, 32⟩
def ZYN_XFDROP_COUNT : Fld := ⟨0, 32⟩
def ZYN_XFNOSINK_COUNT : Fld := ⟨0, 32⟩
def ZYN_SUSPECT_COUNT : Fld := ⟨0, 32⟩
def ZYN_MIRLATE_COUNT : Fld := ⟨0, 32⟩
def ZYN_PROLE_ROLE : Fld := ⟨0, 32⟩
def ZYN_XF_FC : Fld := ⟨0, 15⟩
def ZYN_XF_EN : Fld := ⟨15, 1⟩
def ZYN_XF_RATE : Fld := ⟨16, 16⟩
def ZYN_MADDR_ADDR : Fld := ⟨0, 30⟩
def ZYN_MADDR_SPACE : Fld := ⟨30, 1⟩
def ZYN_MDATA_DATA : Fld := ⟨0, 32⟩
def ZYN_MGO_WRITE : Fld := ⟨0, 1⟩
def ZYN_MGO_READ : Fld := ⟨1, 1⟩
def ZYN_MSTAT_STATE : Fld := ⟨0, 2⟩
def ZYN_MSTAT_RESULT : Fld := ⟨8, 8⟩
def ZYN_MRDATA_DATA : Fld := ⟨0, 32⟩
def HCLK_GATE_RUN_PORTS : Fld := ⟨0, 4⟩
def HCLK_GATE_RUN_FDP : Fld := ⟨4, 4⟩
def HCLK_GATE_RUN_FENG : Fld := ⟨8, 4⟩
def HCLK_GATE_RUN_PENG : Fld := ⟨12, 4⟩
def HCLK_GATE_RUN_ZYN : Fld := ⟨16, 1⟩
def HCLK_GATE_RUN_ANGLE : Fld := ⟨17, 1⟩
def HCLK_GATE_RUN_RING : Fld := ⟨18, 1⟩
def HCLK_GATE_RUN_REFOUT : Fld := ⟨19, 1⟩
def HCLK_GATE_RUN_PCIE : Fld := ⟨20, 1⟩
def HCLK_GATE_RUN_SVC : Fld := ⟨21, 1⟩
def HCLK_GATE_SLEEP_PORTS : Fld := ⟨0, 4⟩
def HCLK_GATE_SLEEP_FDP : Fld := ⟨4, 4⟩
def HCLK_GATE_SLEEP_FENG : Fld := ⟨8, 4⟩
def HCLK_GATE_SLEEP_PENG : Fld := ⟨12, 4⟩
def HCLK_GATE_SLEEP_ZYN : Fld := ⟨16, 1⟩
def HCLK_GATE_SLEEP_ANGLE : Fld := ⟨17, 1⟩
def HCLK_GATE_SLEEP_RING : Fld := ⟨18, 1⟩
def HCLK_GATE_SLEEP_REFOUT : Fld := ⟨19, 1⟩
def HCLK_GATE_SLEEP_PCIE : Fld := ⟨20, 1⟩
def HCLK_GATE_SLEEP_SVC : Fld := ⟨21, 1⟩
def HCLK_GATE_DEEP_STORE : Fld := ⟨0, 1⟩
def HCLK_GATE_DEEP_PANTRY : Fld := ⟨1, 1⟩
def HCLK_GATE_DEEP_CSTORE : Fld := ⟨2, 1⟩
def HCLK_GATE_DEEP_SNAP : Fld := ⟨3, 1⟩
def HCLK_MSEL_MSRC : Fld := ⟨0, 3⟩
def HCLK_MSEL_MFREQ : Fld := ⟨4, 6⟩
def HCLK_MSEL_BR : Fld := ⟨12, 1⟩
def HCLK_CHK_ACC : Fld := ⟨0, 8⟩
def HCLK_CHK_STAB : Fld := ⟨8, 16⟩
def HCLK_STAT_REF_READY : Fld := ⟨0, 4⟩
def HCLK_STAT_SPLL_LOCK : Fld := ⟨4, 4⟩
def HCLK_STAT_PPLL_LOCK : Fld := ⟨8, 1⟩
def HCLK_STAT_MPLL_COAST : Fld := ⟨9, 1⟩
def HCLK_STAT_SEL_REFUSED : Fld := ⟨10, 1⟩
def HCLK_STAT_OCXO_WAIT : Fld := ⟨11, 1⟩
def HCLK_STAT_OSC_DLY : Fld := ⟨12, 4⟩
def HCLK_STAT_MFREQ_NOW : Fld := ⟨16, 6⟩
def HPWR_AVS_VMIN : Fld := ⟨0, 10⟩
def HPWR_AVS_VMAX : Fld := ⟨16, 10⟩
def HPWR_TWARN_WARN : Fld := ⟨0, 8⟩
def HPWR_CTL_SLEEP : Fld := ⟨0, 1⟩
def HPWR_CTL_DEEP : Fld := ⟨1, 1⟩
def HPWR_CTL_WAKE : Fld := ⟨2, 1⟩
def HPWR_CTL_STATE : Fld := ⟨4, 2⟩
def HPWR_CTL_BUSY : Fld := ⟨6, 1⟩
def HPWR_ALARM0_ALARM : Fld := ⟨0, 32⟩
def HPWR_ALARM1_ALARM : Fld := ⟨0, 16⟩
def HPWR_ALARM1_EN : Fld := ⟨31, 1⟩
def HPWR_CELL0_COUNT : Fld := ⟨0, 32⟩
def HPWR_CELL1_COUNT : Fld := ⟨0, 16⟩
def HPWR_VREQ_REQ : Fld := ⟨0, 10⟩
def HPWR_VREQ_READ : Fld := ⟨16, 10⟩
def HPWR_VREQ_AVS_FAULT : Fld := ⟨28, 1⟩
def HPWR_VREQ_SPEED_LOW : Fld := ⟨29, 1⟩
def HPWR_THERM_TJ : Fld := ⟨0, 12⟩
def HPWR_THERM_OUT_OF_SPEC : Fld := ⟨12, 1⟩
def HPWR_THERM_WARN_SEEN : Fld := ⟨13, 1⟩
def HGOV_CFG_BUDGET : Fld := ⟨0, 16⟩
def HGOV_STAT_DEFERRED : Fld := ⟨0, 16⟩
def HGOV_STAT_OVERSIZE : Fld := ⟨16, 16⟩
def HGOV_DMAX_DMAX : Fld := ⟨0, 32⟩
def HGOV_DSUM_DSUM : Fld := ⟨0, 32⟩
def HGOV_PEND_PEND : Fld := ⟨0, 16⟩
def HRST_CTL_DEVICE : Fld := ⟨0, 1⟩
def HRST_CTL_QUAD : Fld := ⟨4, 4⟩
def HRST_TILE_T : Fld := ⟨0, 9⟩
def HRST_TILE_GO : Fld := ⟨16, 1⟩
def HRST_STAT_CAUSE : Fld := ⟨0, 4⟩
def HRST_STAT_QBUSY : Fld := ⟨8, 4⟩
def HBOOT_STAT_RESULT : Fld := ⟨0, 8⟩
def HBOOT_STAT_WARN : Fld := ⟨8, 8⟩
def HBOOT_STAT_SLOT : Fld := ⟨16, 1⟩
def HBOOT_STAT_DONE : Fld := ⟨17, 1⟩
def HBOOT_STAT_MODE : Fld := ⟨18, 3⟩
def HBOOT_DSEQ_SEQ : Fld := ⟨0, 32⟩
def HOTP_W_DATA : Fld := ⟨0, 32⟩
def HOTP_VALID_VALID : Fld := ⟨0, 32⟩
def HOTP_ADDR_ADDR : Fld := ⟨0, 6⟩
def HOTP_DATA_DATA : Fld := ⟨0, 32⟩
def HOTP_CMD_PROG : Fld := ⟨0, 1⟩
def HOTP_CMD_BUSY : Fld := ⟨8, 1⟩
def HOTP_CMD_DONE : Fld := ⟨9, 1⟩
def HOTP_CMD_REFUSED : Fld := ⟨10, 1⟩
def HOTP_CMD_FAIL : Fld := ⟨11, 1⟩
end F

/-- One register of a page kind: its identifier, its offset in the page, the counts and strides of its instances,
and the bits of its fields by access type: RW-S, RW, W1C, WO and W1S, RC, and the reset value. -/
structure RDesc where
  id : RegId
  off : Nat
  st : List (Nat × Nat)
  rws : Nat
  rw : Nat
  w1c : Nat
  wo : Nat
  rc : Nat
  rst : Nat
deriving DecidableEq, Repr

/-- The registers of page HCFG. -/
def regsHCFG : List RDesc := [
  ⟨.HCFG_MODE, 0x40, [], 0x3, 0x0, 0x0, 0x0, 0x0, 0x0⟩,
  ⟨.HCFG_DEVID, 0x900, [], 0x0, 0x0, 0x0, 0x0, 0x0, 0xa16416⟩,
  ⟨.HCFG_SERIAL, 0x904, [(2, 4)], 0x0, 0x0, 0x0, 0x0, 0x0, 0x0⟩]

/-- The registers of page HTIM. -/
def regsHTIM : List RDesc := [
  ⟨.HTIM_CTRL, 0x900, [], 0x0, 0x18, 0x0, 0x7, 0x0, 0x0⟩,
  ⟨.HTIM_STAT, 0x904, [], 0x0, 0x0, 0x3c, 0x0, 0x0, 0x0⟩,
  ⟨.HTIM_NOW, 0x910, [(3, 4)], 0x0, 0x0, 0x0, 0x0, 0x0, 0x0⟩,
  ⟨.HTIM_TSET, 0x920, [(3, 4)], 0x0, 0xffffffff, 0x0, 0x0, 0x0, 0x0⟩,
  ⟨.HTIM_PSTEP, 0x930, [(2, 4)], 0x0, 0xffffffff, 0x0, 0x0, 0x0, 0x0⟩,
  ⟨.HTIM_FTRIM, 0x940, [], 0x0, 0xffffffff, 0x0, 0x0, 0x0, 0x0⟩,
  ⟨.HTIM_SLEW, 0x40, [], 0x3ff, 0x0, 0x0, 0x0, 0x0, 0x64⟩,
  ⟨.HTIM_UTC, 0x44, [], 0x7ffff, 0x0, 0x0, 0x0, 0x0, 0x0⟩]

/-- The registers of page HSRC. -/
def regsHSRC : List RDesc := [
  ⟨.HSRC_CFG, 0x900, [], 0x0, 0x77f01, 0x0, 0x0, 0x0, 0x30000⟩,
  ⟨.HSRC_SEL, 0x904, [], 0x0, 0xff13, 0x0, 0x0, 0x0, 0x3900⟩,
  ⟨.HSRC_STAT, 0x908, [], 0x0, 0x0, 0x10000, 0x0, 0x0, 0x100⟩,
  ⟨.HRCO_CTRL, 0x910, [], 0x0, 0xf, 0x0, 0x0, 0x0, 0x0⟩,
  ⟨.HRCO_STAT, 0x914, [], 0x0, 0x0, 0x6, 0x0, 0x0, 0x0⟩]

/-- The registers of page HPTP. -/
def regsHPTP : List RDesc := [
  ⟨.HPTP_CFG, 0x40, [], 0xf, 0x0, 0x0, 0x0, 0x0, 0xe⟩,
  ⟨.HPTP_LAT_IN, 0x100, [(128, 8)], 0xffffffff, 0x0, 0x0, 0x0, 0x0, 0x0⟩,
  ⟨.HPTP_LAT_OUT, 0x104, [(128, 8)], 0xffffffff, 0x0, 0x0, 0x0, 0x0, 0x0⟩]

/-- The registers of page HCAP. -/
def regsHCAP : List RDesc := [
  ⟨.HCAP_CFG, 0x40, [], 0x3ff007f, 0x0, 0x0, 0x0, 0x0, 0x200007f⟩,
  ⟨.HCAP_E, 0x900, [(5, 4)], 0x0, 0x0, 0x0, 0x0, 0x0, 0x0⟩,
  ⟨.HCAP_LEVEL, 0x920, [], 0x0, 0x0, 0x0, 0x0, 0x0, 0x0⟩,
  ⟨.HCAP_LOST, 0x924, [], 0x0, 0x0, 0x0, 0x0, 0xffffffff, 0x0⟩]

/-- The registers of page HREF. -/
def regsHREF : List RDesc := [
  ⟨.HREF_IN, 0x40, [(4, 4)], 0x1f1, 0x0, 0x0, 0x0, 0x0, 0x0⟩,
  ⟨.HREF_OUT, 0x50, [(4, 4)], 0xf1, 0x0, 0x0, 0x0, 0x0, 0x0⟩,
  ⟨.HREF_OFS, 0x60, [(4, 4)], 0xffffffff, 0x0, 0x0, 0x0, 0x0, 0x0⟩,
  ⟨.HREF_PPS, 0x70, [], 0xff07, 0x0, 0x0, 0x0, 0x0, 0x6400⟩,
  ⟨.HREF_PPSOFS, 0x74, [], 0xffffffff, 0x0, 0x0, 0x0, 0x0, 0x0⟩,
  ⟨.HREF_INSTAT, 0x900, [(4, 4)], 0x0, 0x0, 0x2, 0x0, 0x0, 0x0⟩]

/-- The registers of page HEPC. -/
def regsHEPC : List RDesc := [
  ⟨.HEPC_CFG, 0x40, [], 0xfff1, 0x0, 0x0, 0x0, 0x0, 0x190⟩,
  ⟨.HEPC_NUM, 0x44, [], 0xffffffff, 0x0, 0x0, 0x0, 0x0, 0x1⟩,
  ⟨.HEPC_DEN, 0x48, [], 0xffffffff, 0x0, 0x0, 0x0, 0x0, 0x64⟩,
  ⟨.HEPC_EPOCH, 0x900, [], 0x0, 0x0, 0x0, 0x0, 0x0, 0x0⟩,
  ⟨.HEPC_BND, 0x904, [(3, 4)], 0x0, 0x0, 0x0, 0x0, 0x0, 0x0⟩,
  ⟨.HEPC_NXT, 0x910, [(3, 4)], 0x0, 0x0, 0x0, 0x0, 0x0, 0x0⟩]

/-- The registers of page HRING. -/
def regsHRING : List RDesc := [
  ⟨.HRING_CFG, 0x40, [], 0xffff0003, 0x0, 0x0, 0x0, 0x0, 0x0⟩,
  ⟨.HRING_LDLY, 0x44, [(2, 4)], 0xffffffff, 0x0, 0x0, 0x0, 0x0, 0x0⟩,
  ⟨.HRING_STAT, 0x900, [], 0x0, 0x0, 0x3c, 0x0, 0x0, 0x0⟩]

/-- The registers of page HSNP. -/
def regsHSNP : List RDesc := [
  ⟨.HSNP_CFG, 0x40, [], 0xffff, 0x0, 0x0, 0x0, 0x0, 0x1014⟩,
  ⟨.HSNP_CUR, 0x900, [], 0x0, 0x0, 0x0, 0x0, 0x0, 0x0⟩,
  ⟨.HSNP_CUREPOCH, 0x904, [], 0x0, 0x0, 0x0, 0x0, 0x0, 0x0⟩,
  ⟨.HSNP_SLOTS, 0x908, [], 0x0, 0x0, 0x0, 0x0, 0x0, 0x0⟩,
  ⟨.HSNP_PIN, 0x910, [], 0x0, 0x0, 0x300, 0x3, 0x0, 0x0⟩,
  ⟨.HSNP_PINEPOCH, 0x914, [], 0x0, 0x0, 0x0, 0x0, 0x0, 0x0⟩,
  ⟨.HSNP_STRADDLE, 0x918, [], 0x0, 0x0, 0x0, 0x0, 0xffffffff, 0x0⟩]

/-- The registers of page HCOM. -/
def regsHCOM : List RDesc := [
  ⟨.HCOM_CFG, 0x40, [], 0x1ff, 0x0, 0x0, 0x0, 0x0, 0x32⟩,
  ⟨.HCOM_TARGET, 0x900, [], 0x0, 0xffffffff, 0x0, 0x0, 0x0, 0x0⟩,
  ⟨.HCOM_CMD, 0x904, [], 0x0, 0x0, 0x0, 0xfff, 0x0, 0x0⟩,
  ⟨.HCOM_DSEL, 0x908, [], 0x0, 0x1ff, 0x0, 0x0, 0x0, 0x100⟩,
  ⟨.HCOM_STAT, 0x910, [], 0x0, 0x0, 0x0, 0x0, 0x0, 0xff00⟩,
  ⟨.HCOM_LASTEPOCH, 0x914, [], 0x0, 0x0, 0x0, 0x0, 0x0, 0x0⟩,
  ⟨.HCOM_CHECK, 0x918, [], 0x0, 0x0, 0x0, 0x0, 0x0, 0x0⟩,
  ⟨.HCOM_MYSTAT, 0x91c, [], 0x0, 0x0, 0x0, 0x0, 0x0, 0xff⟩,
  ⟨.HCOM_FLOG0, 0x920, [(16, 8)], 0x0, 0x0, 0x0, 0x0, 0x0, 0x0⟩,
  ⟨.HCOM_FLOG1, 0x924, [(16, 8)], 0x0, 0x0, 0x0, 0x0, 0x0, 0x0⟩,
  ⟨.HCOM_PFW, 0x9a0, [], 0x0, 0x0, 0x2, 0x0, 0x0, 0x0⟩,
  ⟨.HCOM_SAVE, 0x9b0, [], 0x0, 0x0, 0x1c, 0x1, 0x0, 0x0⟩,
  ⟨.HCOM_LFACK, 0x9c0, [], 0x0, 0x0, 0x0, 0x1, 0x0, 0x0⟩]

/-- The registers of page EVERY. -/
def regsEVERY : List RDesc := [
  ⟨.PG_ID, 0x0, [], 0x0, 0x0, 0x0, 0x0, 0x0, 0x0⟩,
  ⟨.PG_REV, 0x4, [], 0x0, 0x0, 0x0, 0x0, 0x0, 0x1a1⟩,
  ⟨.PG_STATE, 0x8, [], 0x0, 0x0, 0x0, 0x0, 0x0, 0x0⟩,
  ⟨.PG_CTRL, 0xc, [], 0x0, 0x0, 0x0, 0x1, 0x0, 0x0⟩,
  ⟨.EV_STAT, 0x10, [], 0x0, 0x0, 0xffffffff, 0x0, 0x0, 0x0⟩,
  ⟨.EV_EN, 0x14, [], 0x0, 0xffffffff, 0x0, 0x0, 0x0, 0x0⟩,
  ⟨.EV_FORCE, 0x18, [], 0x0, 0x0, 0x0, 0xffffffff, 0x0, 0x0⟩,
  ⟨.ERR_CNT, 0x1c, [], 0x0, 0x0, 0x0, 0x0, 0x0, 0x0⟩,
  ⟨.OWNER_VIEW, 0x20, [], 0x0, 0x0, 0x0, 0x0, 0x0, 0x0⟩,
  ⟨.LH_EPOCH, 0x800, [], 0x0, 0x0, 0x0, 0x0, 0x0, 0x0⟩,
  ⟨.LH_COMMIT, 0x804, [], 0x0, 0x0, 0x0, 0x0, 0x0, 0x0⟩,
  ⟨.LH_ASSIGN, 0x808, [], 0x0, 0x0, 0x0, 0x0, 0x0, 0x100⟩]

/-- The registers of page HOWN. -/
def regsHOWN : List RDesc := [
  ⟨.HOWN_CFG, 0x40, [], 0xff, 0x0, 0x0, 0x0, 0x0, 0x8⟩,
  ⟨.HOWN_REQ, 0x900, [], 0x0, 0x0, 0x0, 0x1f07f1ff, 0x0, 0x0⟩,
  ⟨.HOWN_MYSTAT, 0x904, [], 0x0, 0x0, 0x0, 0x0, 0x0, 0xff⟩,
  ⟨.HOWN_DSEL, 0x908, [], 0x0, 0x1ff, 0x0, 0x0, 0x0, 0x100⟩,
  ⟨.HOWN_STAT, 0x910, [], 0x0, 0x0, 0x0, 0x0, 0x0, 0x0⟩,
  ⟨.HOWN_WREFUSED, 0x940, [(8, 4)], 0x0, 0x0, 0x0, 0x0, 0xffffffff, 0x0⟩,
  ⟨.HOWN_ALIVE, 0xa00, [(257, 4)], 0x0, 0xffffffff, 0x0, 0x0, 0x0, 0x0⟩]

/-- The registers of page HPCI. -/
def regsHPCI : List RDesc := [
  ⟨.HPCI_LINK, 0x900, [], 0x0, 0x0, 0x0, 0x0, 0x0, 0x0⟩,
  ⟨.HPCI_FUNC, 0x910, [(6, 4)], 0x0, 0x0, 0x0, 0x0, 0x0, 0x0⟩]

/-- The registers of page HSVC. -/
def regsHSVC : List RDesc := [
  ⟨.HSVC_ERR, 0x900, [], 0x0, 0x0, 0x0, 0x0, 0xffffffff, 0x0⟩]

/-- The registers of page FCH. -/
def regsFCH : List RDesc := [
  ⟨.FCH_MODE, 0x40, [(11, 176)], 0x7ff03ff, 0x0, 0x0, 0x0, 0x0, 0x100000⟩,
  ⟨.FCH_EVMASK, 0x44, [(11, 176)], 0xfffffffe, 0x0, 0x0, 0x0, 0x0, 0x0⟩,
  ⟨.FCH_POOL, 0x48, [(11, 176)], 0x3f, 0x0, 0x0, 0x0, 0x0, 0x0⟩,
  ⟨.FCH_KEYP, 0x50, [(11, 176), (2, 28)], 0x7fffff, 0x0, 0x0, 0x0, 0x0, 0xff⟩,
  ⟨.FCH_KEYU, 0x54, [(11, 176), (2, 28)], 0xffff, 0x0, 0x0, 0x0, 0x0, 0x0⟩,
  ⟨.FCH_KEYS, 0x58, [(11, 176), (2, 28)], 0xffffffff, 0x0, 0x0, 0x0, 0x0, 0x0⟩,
  ⟨.FCH_KEYIP, 0x5c, [(11, 176), (2, 28), (4, 4)], 0xffffffff, 0x0, 0x0, 0x0, 0x0, 0x0⟩,
  ⟨.FCH_MERGE, 0x88, [(11, 176)], 0xffffffff, 0x0, 0x0, 0x0, 0x0, 0x400⟩,
  ⟨.FCH_RTP, 0x8c, [(11, 176)], 0x3, 0x0, 0x0, 0x0, 0x0, 0x0⟩,
  ⟨.FCH_NPKT, 0x90, [(11, 176)], 0xfffff, 0x0, 0x0, 0x0, 0x0, 0x0⟩,
  ⟨.FCH_CMAX, 0x94, [(11, 176)], 0xffffffff, 0x0, 0x0, 0x0, 0x0, 0x80004⟩,
  ⟨.FCH_TDRAIN, 0x98, [(11, 176)], 0xffffffff, 0x0, 0x0, 0x0, 0x0, 0x0⟩,
  ⟨.FCH_TRS, 0x9c, [(11, 176)], 0xffffffff, 0x0, 0x0, 0x0, 0x0, 0x0⟩,
  ⟨.FCH_FRAC, 0xa0, [(11, 176)], 0xffffffff, 0x0, 0x0, 0x0, 0x0, 0x0⟩,
  ⟨.FCH_TROFS, 0xa4, [(11, 176)], 0xffffffff, 0x0, 0x0, 0x0, 0x0, 0x0⟩,
  ⟨.FCH_HIST, 0xa8, [(11, 176)], 0xffffff01, 0x0, 0x0, 0x0, 0x0, 0x3e8001⟩,
  ⟨.FCH_POL0, 0xac, [(11, 176)], 0xffffffff, 0x0, 0x0, 0x0, 0x0, 0x0⟩,
  ⟨.FCH_POL1, 0xb0, [(11, 176)], 0xffffff, 0x0, 0x0, 0x0, 0x0, 0x0⟩,
  ⟨.FCH_CTL, 0xfd0, [(11, 4)], 0x0, 0x0, 0x0, 0x1, 0x0, 0x0⟩]

/-- The registers of page FCHE. -/
def regsFCHE : List RDesc := [
  ⟨.FCH_ESRC, 0x50, [(11, 176)], 0x1ffffff, 0x0, 0x0, 0x0, 0x0, 0xff0000⟩,
  ⟨.FCH_EHDR, 0x54, [(11, 176)], 0xffffff3f, 0x0, 0x0, 0x0, 0x0, 0x4000⟩,
  ⟨.FCH_EDMAC, 0x5c, [(11, 176)], 0xffff0000, 0x0, 0x0, 0x0, 0x0, 0x0⟩,
  ⟨.FCH_EDMAC, 0x58, [(11, 176), (2, 4)], 0xffffffff, 0x0, 0x0, 0x0, 0x0, 0x0⟩,
  ⟨.FCH_ESMAC, 0x64, [(11, 176)], 0xffff0000, 0x0, 0x0, 0x0, 0x0, 0x0⟩,
  ⟨.FCH_ESMAC, 0x60, [(11, 176), (2, 4)], 0xffffffff, 0x0, 0x0, 0x0, 0x0, 0x0⟩,
  ⟨.FCH_EDIP, 0x68, [(11, 176), (4, 4)], 0xffffffff, 0x0, 0x0, 0x0, 0x0, 0x0⟩,
  ⟨.FCH_ESIP, 0x78, [(11, 176), (4, 4)], 0xffffffff, 0x0, 0x0, 0x0, 0x0, 0x0⟩,
  ⟨.FCH_EUDP, 0x88, [(11, 176)], 0xffffffff, 0x0, 0x0, 0x0, 0x0, 0x0⟩,
  ⟨.FCH_ESSRC, 0x8c, [(11, 176)], 0xffffffff, 0x0, 0x0, 0x0, 0x0, 0x0⟩,
  ⟨.FCH_ESEQ0, 0x90, [(11, 176)], 0xffffffff, 0x0, 0x0, 0x0, 0x0, 0x0⟩,
  ⟨.FCH_ETSOFS, 0x94, [(11, 176)], 0xffffffff, 0x0, 0x0, 0x0, 0x0, 0x0⟩,
  ⟨.FCH_EPER, 0x98, [(11, 176)], 0xffff1f, 0x0, 0x0, 0x0, 0x0, 0x0⟩,
  ⟨.FCH_EPHASE, 0x9c, [(11, 176)], 0xffffffff, 0x0, 0x0, 0x0, 0x0, 0x0⟩,
  ⟨.FCH_EDLY, 0xa0, [(11, 176)], 0xffffffff, 0x0, 0x0, 0x0, 0x0, 0x0⟩,
  ⟨.FCH_ETROFS, 0xa4, [(11, 176)], 0xffffffff, 0x0, 0x0, 0x0, 0x0, 0x0⟩,
  ⟨.FCH_ETRS, 0xa8, [(11, 176)], 0xffffffff, 0x0, 0x0, 0x0, 0x0, 0x0⟩,
  ⟨.FCH_ETRSFR, 0xac, [(11, 176)], 0xffff, 0x0, 0x0, 0x0, 0x0, 0x0⟩,
  ⟨.FCH_EPPS, 0xb0, [(11, 176)], 0x3fffffff, 0x0, 0x0, 0x0, 0x0, 0x0⟩,
  ⟨.FCH_EBPS, 0xb4, [(11, 176)], 0xffffffff, 0x0, 0x0, 0x0, 0x0, 0x5f200000⟩,
  ⟨.FCH_ESLIP, 0xb8, [(11, 176)], 0xffffff, 0x0, 0x0, 0x0, 0x0, 0x4e20⟩]

/-- The registers of page PRT0. -/
def regsPRT0 : List RDesc := [
  ⟨.PRT_CFG, 0x40, [], 0x3, 0x0, 0x0, 0x0, 0x0, 0x0⟩,
  ⟨.PRT_SUB, 0x44, [(8, 4)], 0xffff7, 0x0, 0x0, 0x0, 0x0, 0x75f20⟩]

/-- The registers of page PRT1. -/
def regsPRT1 : List RDesc := [
  ⟨.PRT_HCFG, 0x40, [], 0x1ff3f3f, 0x0, 0x0, 0x0, 0x0, 0x800000⟩,
  ⟨.PRT_HRX0, 0x900, [], 0x0, 0x0, 0x0, 0x0, 0x0, 0x0⟩,
  ⟨.PRT_HRX1, 0x904, [], 0x0, 0x0, 0x0, 0x0, 0x0, 0x0⟩,
  ⟨.PRT_HRX2, 0x908, [(3, 4)], 0x0, 0x0, 0x0, 0x0, 0x0, 0x0⟩,
  ⟨.PRT_HFREE, 0x920, [], 0x0, 0x0, 0x0, 0x3ffffff, 0x0, 0x0⟩,
  ⟨.PRT_HALLOC, 0x924, [], 0x0, 0x0, 0x0, 0x0, 0x0, 0x0⟩,
  ⟨.PRT_HTX0, 0x928, [], 0x0, 0x3ffffff, 0x0, 0x0, 0x0, 0x0⟩,
  ⟨.PRT_HTX1, 0x92c, [], 0x0, 0x0, 0x0, 0x7fff, 0x0, 0x0⟩,
  ⟨.PRT_HQSTAT, 0x930, [], 0x0, 0x0, 0x3000000, 0x0, 0x0, 0x0⟩]

/-- The registers of page PRT2. -/
def regsPRT2 : List RDesc := [
  ⟨.PRT_LANE, 0x40, [(8, 4)], 0x73, 0x0, 0x0, 0x0, 0x0, 0x0⟩]

/-- The registers of page PRT3. -/
def regsPRT3 : List RDesc := [
  ⟨.PRT_LINK, 0x900, [(8, 4)], 0x0, 0x0, 0x10, 0x0, 0x0, 0x0⟩]

/-- The registers of page PCH. -/
def regsPCH : List RDesc := [
  ⟨.PCH_MODE, 0x40, [(6, 320)], 0xfff, 0x0, 0x0, 0x0, 0x0, 0x0⟩,
  ⟨.PCH_EVMASK, 0x44, [(6, 320)], 0xfffffffe, 0x0, 0x0, 0x0, 0x0, 0x0⟩,
  ⟨.PCH_LATO, 0x48, [(6, 320)], 0xffffffff, 0x0, 0x0, 0x0, 0x0, 0x0⟩,
  ⟨.PCH_LATI, 0x4c, [(6, 320)], 0xffffffff, 0x0, 0x0, 0x0, 0x0, 0x0⟩,
  ⟨.PCH_PNUM0, 0x50, [(6, 320)], 0xffffffff, 0x0, 0x0, 0x0, 0x0, 0x0⟩,
  ⟨.PCH_PNUM1, 0x54, [(6, 320)], 0xffffffff, 0x0, 0x0, 0x0, 0x0, 0x10000⟩,
  ⟨.PCH_PHASE, 0x58, [(6, 320)], 0xffffffff, 0x0, 0x0, 0x0, 0x0, 0x0⟩,
  ⟨.PCH_PHFR, 0x5c, [(6, 320)], 0xffff, 0x0, 0x0, 0x0, 0x0, 0x0⟩,
  ⟨.PCH_CMPA, 0x60, [(6, 320)], 0xffffffff, 0x0, 0x0, 0x0, 0x0, 0x0⟩,
  ⟨.PCH_CMPB, 0x64, [(6, 320)], 0xffffffff, 0x0, 0x0, 0x0, 0x0, 0x0⟩,
  ⟨.PCH_CMPFR, 0x68, [(6, 320)], 0xffffffff, 0x0, 0x0, 0x0, 0x0, 0x0⟩,
  ⟨.PCH_COUNT, 0x6c, [(6, 320)], 0xffffff, 0x0, 0x0, 0x0, 0x0, 0x0⟩,
  ⟨.PCH_PWM, 0x70, [(6, 320)], 0xffffff03, 0x0, 0x0, 0x0, 0x0, 0x800⟩,
  ⟨.PCH_PWMW, 0x74, [(6, 320)], 0xffffffff, 0x0, 0x0, 0x0, 0x0, 0xa0⟩,
  ⟨.PCH_DUTY0, 0x78, [(6, 320)], 0x1ffffff, 0x0, 0x0, 0x0, 0x0, 0x0⟩,
  ⟨.PCH_TRIG, 0x7c, [(6, 320), (2, 4)], 0x80ffffff, 0x0, 0x0, 0x0, 0x0, 0x0⟩,
  ⟨.PCH_TOUT, 0x84, [(6, 320)], 0xffff00ff, 0x0, 0x0, 0x0, 0x0, 0x640000⟩,
  ⟨.PCH_IN, 0x88, [(6, 320)], 0x7fff03, 0x0, 0x0, 0x0, 0x0, 0x1⟩,
  ⟨.PCH_CCMP, 0x8c, [(6, 320)], 0xffffffff, 0x0, 0x0, 0x0, 0x0, 0xffffffff⟩,
  ⟨.PCH_DUTY, 0x8a0, [(6, 320)], 0x0, 0x1ffffff, 0x0, 0x0, 0x0, 0x0⟩,
  ⟨.PCH_EQ0, 0x8a4, [(6, 320)], 0x0, 0xffffffff, 0x0, 0x0, 0x0, 0x0⟩,
  ⟨.PCH_EQ1, 0x8a8, [(6, 320)], 0x0, 0xffffffff, 0x0, 0x0, 0x0, 0x0⟩,
  ⟨.PCH_EQ2, 0x8ac, [(6, 320)], 0x0, 0x0, 0x0, 0x1, 0x0, 0x0⟩,
  ⟨.PCH_CTL, 0x8b0, [(6, 320)], 0x0, 0x0, 0x0, 0x1f, 0x0, 0x0⟩,
  ⟨.PCH_STAT, 0x8b4, [(6, 320)], 0x0, 0x0, 0x30000, 0x0, 0x0, 0x0⟩,
  ⟨.PCH_CNT0, 0x8b8, [(6, 320)], 0x0, 0x0, 0x0, 0x0, 0x0, 0x0⟩,
  ⟨.PCH_CNT1, 0x8bc, [(6, 320)], 0x0, 0x0, 0x0, 0x0, 0x0, 0x0⟩,
  ⟨.PCH_CAP0, 0x8c0, [(6, 320)], 0x0, 0x0, 0x0, 0x0, 0x0, 0x0⟩,
  ⟨.PCH_CAP1, 0x8c4, [(6, 320), (2, 4)], 0x0, 0x0, 0x0, 0x0, 0x0, 0x0⟩,
  ⟨.PCH_SAFE, 0x140, [(6, 320)], 0xf, 0x0, 0x0, 0x0, 0x0, 0xe⟩,
  ⟨.PCH_LIM, 0x144, [(6, 320)], 0xffffff01, 0x0, 0x0, 0x0, 0x0, 0x1⟩,
  ⟨.PCH_GPULL, 0x148, [(6, 320)], 0xffffff, 0x0, 0x0, 0x0, 0x0, 0x0⟩,
  ⟨.PCH_GHOLD, 0x14c, [(6, 320)], 0x1ffffff, 0x0, 0x0, 0x0, 0x0, 0x1000000⟩,
  ⟨.PCH_SAFEST, 0x8d0, [(6, 320)], 0x0, 0x0, 0x0, 0x0, 0x0, 0x0⟩]

/-- The registers of page TTMR. -/
def regsTTMR : List RDesc := [
  ⟨.TMR_CFG, 0x40, [(8, 32)], 0xffff003f, 0x0, 0x0, 0x0, 0x0, 0x0⟩,
  ⟨.TMR_TICK, 0x44, [(8, 32)], 0xffffffff, 0x0, 0x0, 0x0, 0x0, 0x3e8⟩,
  ⟨.TMR_TOP0, 0x48, [(8, 32)], 0xffffffff, 0x0, 0x0, 0x0, 0x0, 0xffffffff⟩,
  ⟨.TMR_INIT0, 0x4c, [(8, 32)], 0xffffffff, 0x0, 0x0, 0x0, 0x0, 0x0⟩,
  ⟨.TMR_HI, 0x50, [(8, 32)], 0xffffffff, 0x0, 0x0, 0x0, 0x0, 0xffff⟩,
  ⟨.TMR_CMP0, 0x54, [(8, 32)], 0xffffffff, 0x0, 0x0, 0x0, 0x0, 0x0⟩,
  ⟨.TMR_CMP1, 0x58, [(8, 32)], 0xffff, 0x0, 0x0, 0x0, 0x0, 0x0⟩,
  ⟨.TMR_SOFS, 0x5c, [(8, 32)], 0xffffffff, 0x0, 0x0, 0x0, 0x0, 0x0⟩,
  ⟨.TMR_VAL0, 0x940, [(8, 8)], 0x0, 0x0, 0x0, 0x0, 0x0, 0x0⟩,
  ⟨.TMR_VAL1, 0x944, [(8, 8)], 0x0, 0x0, 0x0, 0x0, 0x0, 0x0⟩,
  ⟨.TMR_ARM0, 0x980, [(8, 8)], 0x0, 0xffffffff, 0x0, 0x0, 0x0, 0x0⟩,
  ⟨.TMR_ARM1, 0x984, [(8, 8)], 0x0, 0x0, 0x0, 0xffffffff, 0x0, 0x0⟩,
  ⟨.TMR_CTL, 0x9c0, [(8, 4)], 0x0, 0x0, 0x2, 0x1, 0xffff0000, 0x0⟩]

/-- The registers of page PCH15. -/
def regsPCH15 : List RDesc := [
  ⟨.TRIP_CFG, 0x40, [(4, 16)], 0xffff03, 0x0, 0x0, 0x0, 0x0, 0x3200⟩,
  ⟨.TRIP_BLK, 0x44, [(4, 16)], 0xffff, 0x0, 0x0, 0x0, 0x0, 0x0⟩,
  ⟨.TRIP_MASK, 0x48, [(4, 16), (2, 4)], 0xffffffff, 0x0, 0x0, 0x0, 0x0, 0x0⟩,
  ⟨.AX_PINS, 0x80, [(8, 32)], 0x7f7f7f7f, 0x0, 0x0, 0x0, 0x0, 0x0⟩,
  ⟨.AX_OPT, 0x84, [(8, 32)], 0x7f03, 0x0, 0x0, 0x0, 0x0, 0x0⟩,
  ⟨.AX_PHOME, 0x88, [(8, 32)], 0xffffffff, 0x0, 0x0, 0x0, 0x0, 0xf4240⟩,
  ⟨.AX_HMAX, 0x8c, [(8, 32)], 0xffffffff, 0x0, 0x0, 0x0, 0x0, 0xffffffff⟩,
  ⟨.AX_HPOS, 0x90, [(8, 32)], 0xffffffff, 0x0, 0x0, 0x0, 0x0, 0x0⟩,
  ⟨.AX_TIME, 0x94, [(8, 32)], 0xffffffff, 0x0, 0x0, 0x0, 0x0, 0x3e807d0⟩,
  ⟨.AX_DRV, 0x98, [(8, 32), (2, 4)], 0xffffffff, 0x0, 0x0, 0x0, 0x0, 0x0⟩,
  ⟨.GRP_CFG, 0x180, [(16, 16)], 0x3f01, 0x0, 0x0, 0x0, 0x0, 0x0⟩,
  ⟨.GRP_MEM, 0x184, [(16, 16)], 0xbfbfbfbf, 0x0, 0x0, 0x0, 0x0, 0x0⟩,
  ⟨.GRP_HOLDP, 0x188, [(16, 16)], 0xffffff, 0x0, 0x0, 0x0, 0x0, 0xc350⟩,
  ⟨.TRIP_CTL, 0xb00, [(4, 4)], 0x0, 0x0, 0x10000, 0x1, 0x0, 0x0⟩,
  ⟨.TRIP_CNT, 0xb10, [(4, 4)], 0x0, 0x0, 0x0, 0x0, 0xffffffff, 0x0⟩,
  ⟨.AX_STEPS, 0xb40, [(8, 32)], 0x0, 0xffffffff, 0x0, 0x0, 0x0, 0x0⟩,
  ⟨.AX_PCRU, 0xb44, [(8, 32)], 0x0, 0xffffffff, 0x0, 0x0, 0x0, 0x0⟩,
  ⟨.AX_PSTA, 0xb48, [(8, 32)], 0x0, 0xffffffff, 0x0, 0x0, 0x0, 0x0⟩,
  ⟨.AX_T, 0xb50, [(8, 32), (2, 4)], 0x0, 0xffffffff, 0x0, 0x0, 0x0, 0x0⟩,
  ⟨.AX_CMD, 0xb4c, [(8, 32)], 0x0, 0x1ffff, 0x0, 0x1f000000, 0x0, 0x0⟩,
  ⟨.AX_STAT, 0xb58, [(8, 32)], 0x0, 0x0, 0x30000, 0x0, 0x0, 0x0⟩,
  ⟨.AX_POS, 0xb5c, [(8, 32)], 0x0, 0x0, 0x0, 0x0, 0x0, 0x0⟩,
  ⟨.GRP_STAT, 0xc40, [(16, 4)], 0x0, 0x0, 0x0, 0x0, 0x0, 0x0⟩]

/-- The registers of page AU. -/
def regsAU : List RDesc := [
  ⟨.AU_CFG, 0x40, [], 0xffffff07, 0x0, 0x0, 0x0, 0x0, 0x0⟩,
  ⟨.AU_GEOM, 0x44, [], 0xffff07ff, 0x0, 0x0, 0x0, 0x0, 0x2⟩,
  ⟨.AU_TTADDR, 0x48, [], 0x1ffff000, 0x0, 0x0, 0x0, 0x0, 0x0⟩,
  ⟨.AU_ZCOUNT, 0x4c, [], 0xfffffff, 0x0, 0x0, 0x0, 0x0, 0x0⟩,
  ⟨.AU_TRK, 0x50, [], 0xffff0fff, 0x0, 0x0, 0x0, 0x0, 0x4000220⟩,
  ⟨.AU_CHK, 0x54, [], 0xffffffff, 0x0, 0x0, 0x0, 0x0, 0x3e800⟩,
  ⟨.AU_STALL, 0x58, [], 0xffffff, 0x0, 0x0, 0x0, 0x0, 0x186a0⟩,
  ⟨.AU_PAIR, 0x5c, [], 0xf, 0x0, 0x0, 0x0, 0x0, 0x0⟩,
  ⟨.AU_GEAR, 0x60, [], 0xffffffff, 0x0, 0x0, 0x0, 0x0, 0x10001⟩,
  ⟨.AU_PHLIM, 0x64, [], 0xffffffff, 0x0, 0x0, 0x0, 0x0, 0x0⟩,
  ⟨.AU_EXP, 0x68, [], 0x7ffffff1, 0x0, 0x0, 0x0, 0x0, 0x90⟩,
  ⟨.AU_EXPOFS, 0x6c, [], 0xffffffff, 0x0, 0x0, 0x0, 0x0, 0x0⟩,
  ⟨.AU_HOLD, 0x70, [], 0x3fff, 0x0, 0x0, 0x0, 0x0, 0x3e8⟩,
  ⟨.AU_RTP, 0x74, [], 0xffff007f, 0x0, 0x0, 0x0, 0x0, 0x60⟩,
  ⟨.AU_SSRC, 0x78, [], 0xffffffff, 0x0, 0x0, 0x0, 0x0, 0x0⟩,
  ⟨.AU_OUT, 0x80, [(4, 4)], 0xff03, 0x0, 0x0, 0x0, 0x0, 0x0⟩,
  ⟨.AU_STAT, 0x900, [], 0x0, 0x0, 0x0, 0x0, 0x0, 0x0⟩,
  ⟨.AU_POS0, 0x904, [], 0x0, 0x0, 0x0, 0x0, 0x0, 0x0⟩,
  ⟨.AU_POS1, 0x908, [], 0x0, 0x0, 0x0, 0x0, 0x0, 0x0⟩,
  ⟨.AU_POS2, 0x90c, [], 0x0, 0x0, 0x0, 0x0, 0x0, 0x0⟩,
  ⟨.AU_POS3, 0x910, [(2, 4)], 0x0, 0x0, 0x0, 0x0, 0x0, 0x0⟩,
  ⟨.AU_SETC0, 0x920, [], 0x0, 0xffffffff, 0x0, 0x0, 0x0, 0x0⟩,
  ⟨.AU_SETC1, 0x924, [], 0x0, 0x0, 0x0, 0xffffffff, 0x0, 0x0⟩,
  ⟨.AU_CTL, 0x928, [], 0x0, 0x0, 0x0, 0x1, 0x0, 0x0⟩,
  ⟨.AU_Q0, 0x940, [(4, 16)], 0x0, 0xffffffff, 0x0, 0x0, 0x0, 0x0⟩,
  ⟨.AU_Q1, 0x944, [(4, 16)], 0x0, 0xffffffff, 0x0, 0x0, 0x0, 0x0⟩,
  ⟨.AU_Q2, 0x948, [(4, 16)], 0x0, 0x0, 0x0, 0x1f, 0x0, 0x0⟩,
  ⟨.AU_QSTAT, 0x94c, [(4, 16)], 0x0, 0x0, 0x10000, 0x100, 0x0, 0x0⟩]

/-- The registers of page TENG. -/
def regsTENG : List RDesc := [
  ⟨.TENG_CFG, 0x40, [], 0xffffffff, 0x0, 0x0, 0x0, 0x0, 0x7d01000⟩,
  ⟨.TENG_STAT, 0x900, [], 0x0, 0x0, 0x0, 0x0, 0x0, 0x0⟩,
  ⟨.TENG_IMG0, 0x904, [], 0x0, 0x0, 0x0, 0x0, 0x0, 0x0⟩,
  ⟨.TENG_IMG1, 0x908, [], 0x0, 0x0, 0x0, 0x0, 0x0, 0x0⟩,
  ⟨.TENG_LDADDR, 0x910, [], 0x0, 0x1fffffff, 0x0, 0x0, 0x0, 0x0⟩,
  ⟨.TENG_LDCMD, 0x914, [], 0x0, 0x0, 0x0, 0x3, 0x0, 0x0⟩,
  ⟨.TENG_LDSTAT, 0x918, [], 0x0, 0x0, 0x0, 0x0, 0x0, 0xff00⟩,
  ⟨.TENG_DBG, 0x920, [], 0x0, 0x1fff0018, 0x0, 0x7, 0x0, 0x0⟩,
  ⟨.TENG_DBGSEL, 0x924, [], 0x0, 0x3f, 0x0, 0x0, 0x0, 0x0⟩,
  ⟨.TENG_DBGV0, 0x928, [], 0x0, 0xffffffff, 0x0, 0x0, 0x0, 0x0⟩,
  ⟨.TENG_DBGV1, 0x92c, [], 0x0, 0xffffffff, 0x0, 0x0, 0x0, 0x0⟩,
  ⟨.TENG_INBOX, 0x930, [], 0x0, 0x0, 0x0, 0x0, 0x0, 0x0⟩]

/-- The registers of page HRAS04. -/
def regsHRAS04 : List RDesc := [
  ⟨.HRAS_SHA, 0x40, [(62, 32), (4, 8)], 0xffffffff, 0x0, 0x0, 0x0, 0x0, 0x0⟩,
  ⟨.HRAS_SHB, 0x44, [(62, 32), (4, 8)], 0xffffffff, 0x0, 0x0, 0x0, 0x0, 0x0⟩]

/-- The registers of page HRAS56. -/
def regsHRAS56 : List RDesc := [
  ⟨.HRAS_CON0, 0x40, [(248, 8)], 0xfff1ffff, 0x0, 0x0, 0x0, 0x0, 0x4000000⟩,
  ⟨.HRAS_CON1, 0x44, [(248, 8)], 0xffffffff, 0x0, 0x0, 0x0, 0x0, 0x0⟩]

/-- The registers of page HRAS7. -/
def regsHRAS7 : List RDesc := [
  ⟨.HRAS_RES, 0x40, [(84, 4)], 0x1ff01ff, 0x0, 0x0, 0x0, 0x0, 0x0⟩]

/-- The registers of page HRAS8. -/
def regsHRAS8 : List RDesc := [
  ⟨.HRAS_TURN, 0x40, [(130, 4)], 0xffffffff, 0x0, 0x0, 0x0, 0x0, 0x4e204e20⟩]

/-- The registers of page ROOM0. -/
def regsROOM0 : List RDesc := [
  ⟨.ROOM_MIG, 0x40, [(64, 4)], 0x7fffffff, 0x0, 0x0, 0x0, 0x0, 0x0⟩,
  ⟨.ROOM_HOLD0, 0xf00, [], 0x0, 0x0, 0x0, 0x0, 0x0, 0x0⟩,
  ⟨.ROOM_HOLD1, 0xf04, [], 0x0, 0x0, 0x0, 0x0, 0x0, 0x0⟩]

/-- The registers of page ROOM1. -/
def regsROOM1 : List RDesc := [
  ⟨.ROOM_DEMAND, 0x40, [(260, 4)], 0xffffffff, 0x0, 0x0, 0x0, 0x0, 0x0⟩]

/-- The registers of page ROOM2. -/
def regsROOM2 : List RDesc := [
  ⟨.ROOM_BLEFT, 0x900, [(260, 4)], 0x0, 0x0, 0x0, 0x0, 0x0, 0x0⟩]

/-- The registers of page QMEM. -/
def regsQMEM : List RDesc := [
  ⟨.QMEM_BANK, 0x900, [(128, 4)], 0x0, 0x0, 0x40000000, 0x31ff0000, 0x0, 0x100⟩,
  ⟨.QMEM_CONF, 0xb00, [(11, 4)], 0x0, 0x0, 0x0, 0x0, 0xffffffff, 0x0⟩,
  ⟨.QMEM_MTCMD, 0xb40, [], 0x0, 0x0, 0x0, 0x7ff, 0x0, 0x0⟩,
  ⟨.QMEM_MTSTAT, 0xb44, [], 0x0, 0x0, 0x0, 0x0, 0x0, 0x0⟩,
  ⟨.QMEM_MTADDR, 0xb48, [], 0x0, 0x0, 0x0, 0x0, 0x0, 0x0⟩]

/-- The registers of page QPOOL. -/
def regsQPOOL : List RDesc := [
  ⟨.POOL_CFG, 0x40, [(32, 8)], 0x1fffffff, 0x0, 0x0, 0x0, 0x0, 0x100⟩,
  ⟨.POOL_LOW, 0x44, [(32, 8)], 0x1ffff, 0x0, 0x0, 0x0, 0x0, 0x0⟩,
  ⟨.POOL_FREE, 0xa00, [(32, 4)], 0x0, 0x0, 0x0, 0x0, 0x0, 0x0⟩,
  ⟨.POOL_F0, 0xa80, [(32, 8)], 0x0, 0x0, 0x0, 0x0, 0xffffffff, 0x0⟩,
  ⟨.POOL_F1, 0xa84, [(32, 8)], 0x0, 0x0, 0x0, 0x0, 0xffffffff, 0x0⟩]

/-- The registers of page TPAN. -/
def regsTPAN : List RDesc := [
  ⟨.TPAN_WIN, 0x40, [(4, 4)], 0x1ff01ff, 0x0, 0x0, 0x0, 0x0, 0x0⟩,
  ⟨.TPAN_PADDR, 0x900, [], 0x0, 0x3fff8, 0x0, 0x0, 0x0, 0x0⟩,
  ⟨.TPAN_PDATA0, 0x904, [], 0x0, 0xffffffff, 0x0, 0x0, 0x0, 0x0⟩,
  ⟨.TPAN_PDATA1, 0x908, [], 0x0, 0xffffffff, 0x0, 0x0, 0x0, 0x0⟩,
  ⟨.TPAN_MTCMD, 0x920, [], 0x0, 0x0, 0x0, 0x3, 0x0, 0x0⟩,
  ⟨.TPAN_MTSTAT, 0x924, [], 0x0, 0x0, 0x0, 0x0, 0x0, 0x0⟩,
  ⟨.TPAN_CONF, 0x928, [], 0x0, 0x0, 0x0, 0x0, 0xffffffff, 0x0⟩]

/-- The registers of page DMA. -/
def regsDMA : List RDesc := [
  ⟨.DMA_CFG, 0x40, [], 0x7, 0x0, 0x0, 0x0, 0x0, 0x1⟩,
  ⟨.DMA_PROG, 0x900, [], 0x0, 0x1fffffe0, 0x0, 0x0, 0x0, 0x0⟩,
  ⟨.DMA_CMD, 0x904, [], 0x0, 0x0, 0x0, 0x7, 0x0, 0x0⟩,
  ⟨.DMA_STAT, 0x908, [], 0x0, 0x0, 0x0, 0x0, 0x0, 0x0⟩,
  ⟨.DMA_SRC0, 0x910, [], 0x0, 0xffffffff, 0x0, 0x0, 0x0, 0x0⟩,
  ⟨.DMA_DST0, 0x918, [], 0x0, 0xffffffff, 0x0, 0x0, 0x0, 0x0⟩,
  ⟨.DMA_SRC1, 0x914, [], 0x0, 0xffffffff, 0x0, 0x0, 0x0, 0x0⟩,
  ⟨.DMA_DST1, 0x91c, [], 0x0, 0xffffffff, 0x0, 0x0, 0x0, 0x0⟩,
  ⟨.DMA_COUNT, 0x920, [], 0x0, 0xffffff, 0x0, 0x0, 0x0, 0x0⟩,
  ⟨.DMA_CHK, 0x930, [(2, 4)], 0x0, 0x0, 0x0, 0x0, 0x0, 0x0⟩,
  ⟨.DMA_BYTES, 0x938, [], 0x0, 0x0, 0x0, 0x0, 0x0, 0x0⟩]

/-- The registers of page HLFL. -/
def regsHLFL : List RDesc := [
  ⟨.HLFL_E0, 0x900, [], 0x0, 0x0, 0x0, 0x0, 0x0, 0x0⟩,
  ⟨.HLFL_E1, 0x904, [], 0x0, 0x0, 0x0, 0x0, 0x0, 0x0⟩,
  ⟨.HLFL_E2, 0x908, [], 0x0, 0x0, 0x0, 0x0, 0x0, 0x0⟩,
  ⟨.HLFL_E3, 0x90c, [], 0x0, 0x0, 0x0, 0x0, 0x0, 0x0⟩,
  ⟨.HLFL_E4, 0x910, [(2, 4)], 0x0, 0x0, 0x0, 0x0, 0x0, 0x0⟩,
  ⟨.HLFL_LEVEL, 0x920, [], 0x0, 0x0, 0x0, 0x0, 0x0, 0x0⟩,
  ⟨.HLFL_LOST, 0x924, [], 0x0, 0x0, 0x0, 0x0, 0xffffffff, 0x0⟩,
  ⟨.HLFL_ORIG, 0x940, [(8, 4)], 0x0, 0x0, 0x0, 0x0, 0xffffffff, 0x0⟩,
  ⟨.HLFL_SEQ, 0x960, [(8, 4)], 0x0, 0x0, 0x0, 0x0, 0x0, 0x0⟩]

/-- The registers of page TIRQ. -/
def regsTIRQ : List RDesc := [
  ⟨.TIRQ_CH, 0x40, [(128, 4)], 0x3, 0x0, 0x0, 0x0, 0x0, 0x1⟩,
  ⟨.TIRQ_PR, 0x240, [(64, 4)], 0x3, 0x0, 0x0, 0x0, 0x0, 0x3⟩,
  ⟨.TIRQ_ENG, 0x340, [], 0x3f, 0x0, 0x0, 0x0, 0x0, 0x26⟩,
  ⟨.TIRQ_SUB, 0x350, [(16, 4)], 0x1ffff, 0x0, 0x0, 0x0, 0x0, 0x0⟩,
  ⟨.TIRQ_DROP, 0xf00, [], 0x0, 0x0, 0x0, 0x0, 0xffffffff, 0x0⟩]

/-- The registers of page QIRQ. -/
def regsQIRQ : List RDesc := [
  ⟨.QIRQ_DOM, 0x40, [(257, 4)], 0x3ffffbf, 0x0, 0x0, 0x0, 0x0, 0x0⟩]

/-- The registers of page HIRQ. -/
def regsHIRQ : List RDesc := [
  ⟨.HIRQ_DOM, 0x40, [(257, 4)], 0x3ffffbf, 0x0, 0x0, 0x0, 0x0, 0x0⟩,
  ⟨.HIRQ_PRIV, 0x448, [], 0x3ffbf, 0x0, 0x0, 0x0, 0x0, 0x3f⟩,
  ⟨.HIRQ_WAKE, 0x450, [(8, 4)], 0x1ffffff, 0x0, 0x0, 0x0, 0x0, 0x0⟩,
  ⟨.HIRQ_MSGS, 0xf00, [], 0x0, 0x0, 0x0, 0x0, 0xffffffff, 0x0⟩,
  ⟨.HIRQ_NOTGT, 0xf04, [], 0x0, 0x0, 0x0, 0x0, 0xffffffff, 0x0⟩]

/-- The registers of page CVU. -/
def regsCVU : List RDesc := [
  ⟨.CVU_CFG, 0x40, [], 0xffffff, 0x0, 0x0, 0x0, 0x0, 0x10001⟩,
  ⟨.CVU_ADDR, 0x44, [], 0x1fffffff, 0x0, 0x0, 0x0, 0x0, 0x0⟩,
  ⟨.CVU_LEN, 0x48, [], 0x3fffffff, 0x0, 0x0, 0x0, 0x0, 0x8⟩,
  ⟨.CVU_EXP, 0x4c, [(2, 4)], 0xffffffff, 0x0, 0x0, 0x0, 0x0, 0x0⟩,
  ⟨.CVU_GUARD, 0x60, [(16, 4)], 0x1ffffff3, 0x0, 0x0, 0x0, 0x0, 0x0⟩,
  ⟨.CVU_CMD, 0x900, [], 0x0, 0x0, 0x0, 0x3, 0x0, 0x0⟩,
  ⟨.CVU_STAT, 0x904, [], 0x0, 0x0, 0x4, 0x0, 0x0, 0x0⟩,
  ⟨.CVU_VAL, 0x908, [(2, 4)], 0x0, 0x0, 0x0, 0x0, 0x0, 0x0⟩,
  ⟨.CVU_GSTAT, 0x940, [(16, 4)], 0x0, 0x0, 0x0, 0x0, 0x0, 0x0⟩,
  ⟨.CVU_GALIVE, 0x980, [(16, 4)], 0x0, 0x0, 0x0, 0x0, 0x0, 0x0⟩]

/-- The registers of page ZYN0. -/
def regsZYN0 : List RDesc := [
  ⟨.ZYN_CFG, 0x40, [], 0x1fffff07, 0x0, 0x0, 0x0, 0x0, 0xfa03200⟩,
  ⟨.ZYN_ASYM, 0x44, [], 0xffffffff, 0x0, 0x0, 0x0, 0x0, 0x0⟩,
  ⟨.ZYN_TREC, 0x48, [], 0x1ffffff1, 0x0, 0x0, 0x0, 0x0, 0x0⟩,
  ⟨.ZYN_CTL, 0x900, [], 0x0, 0x100, 0x0, 0x1f, 0x0, 0x0⟩,
  ⟨.ZYN_STAT, 0x904, [], 0x0, 0x0, 0x400, 0x0, 0x0, 0xff000000⟩,
  ⟨.ZYN_OFS, 0x908, [(2, 4)], 0x0, 0x0, 0x0, 0x0, 0x0, 0x0⟩,
  ⟨.ZYN_RTT, 0x910, [], 0x0, 0x0, 0x0, 0x0, 0x0, 0x0⟩,
  ⟨.ZYN_TEPOCH, 0x914, [], 0x0, 0x0, 0x0, 0x0, 0x0, 0x0⟩,
  ⟨.ZYN_DIVMAP, 0x920, [(9, 4)], 0x0, 0x0, 0x0, 0x0, 0x0, 0x0⟩,
  ⟨.ZYN_DRV, 0x960, [(8, 4)], 0x0, 0x0, 0x0, 0x0, 0x0, 0x0⟩,
  ⟨.ZYN_HBMISS, 0x944, [], 0x0, 0x0, 0x0, 0x0, 0xffffffff, 0x0⟩,
  ⟨.ZYN_NAK, 0x948, [], 0x0, 0x0, 0x0, 0x0, 0xffffffff, 0x0⟩,
  ⟨.ZYN_XFDROP, 0x94c, [], 0x0, 0x0, 0x0, 0x0, 0xffffffff, 0x0⟩,
  ⟨.ZYN_XFNOSINK, 0x950, [], 0x0, 0x0, 0x0, 0x0, 0xffffffff, 0x0⟩,
  ⟨.ZYN_SUSPECT, 0x954, [], 0x0, 0x0, 0x0, 0x0, 0xffffffff, 0x0⟩,
  ⟨.ZYN_MIRLATE, 0x958, [], 0x0, 0x0, 0x0, 0x0, 0xffffffff, 0x0⟩]

/-- The registers of page ZYN1. -/
def regsZYN1 : List RDesc := [
  ⟨.ZYN_PROLE, 0x40, [(16, 4)], 0xffffffff, 0x0, 0x0, 0x0, 0x0, 0x0⟩]

/-- The registers of page ZYN2. -/
def regsZYN2 : List RDesc := [
  ⟨.ZYN_XF, 0x40, [(256, 4)], 0xffffffff, 0x0, 0x0, 0x0, 0x0, 0x0⟩]

/-- The registers of page ZYN3. -/
def regsZYN3 : List RDesc := [
  ⟨.ZYN_MADDR, 0x900, [], 0x0, 0x7fffffff, 0x0, 0x0, 0x0, 0x0⟩,
  ⟨.ZYN_MDATA, 0x904, [], 0x0, 0xffffffff, 0x0, 0x0, 0x0, 0x0⟩,
  ⟨.ZYN_MGO, 0x908, [], 0x0, 0x0, 0x0, 0x3, 0x0, 0x0⟩,
  ⟨.ZYN_MSTAT, 0x90c, [], 0x0, 0x0, 0x0, 0x0, 0x0, 0x0⟩,
  ⟨.ZYN_MRDATA, 0x910, [], 0x0, 0x0, 0x0, 0x0, 0x0, 0x0⟩]

/-- The registers of page HCLK. -/
def regsHCLK : List RDesc := [
  ⟨.HCLK_GATE_RUN, 0x40, [], 0x3fffff, 0x0, 0x0, 0x0, 0x0, 0x3fffff⟩,
  ⟨.HCLK_GATE_SLEEP, 0x44, [], 0x3fffff, 0x0, 0x0, 0x0, 0x0, 0x3c0000⟩,
  ⟨.HCLK_GATE_DEEP, 0x48, [], 0xf, 0x0, 0x0, 0x0, 0x0, 0xf⟩,
  ⟨.HCLK_MSEL, 0x900, [], 0x0, 0x13f7, 0x0, 0x0, 0x0, 0x80⟩,
  ⟨.HCLK_CHK, 0x904, [], 0x0, 0xffffff, 0x0, 0x0, 0x0, 0xa1e⟩,
  ⟨.HCLK_STAT, 0x908, [], 0x0, 0x0, 0x400, 0x0, 0x0, 0x80000⟩]

/-- The registers of page HPWR. -/
def regsHPWR : List RDesc := [
  ⟨.HPWR_AVS, 0x40, [], 0x3ff03ff, 0x0, 0x0, 0x0, 0x0, 0x3520258⟩,
  ⟨.HPWR_TWARN, 0x44, [], 0xff, 0x0, 0x0, 0x0, 0x0, 0x73⟩,
  ⟨.HPWR_CTL, 0x900, [], 0x0, 0x0, 0x0, 0x7, 0x0, 0x0⟩,
  ⟨.HPWR_ALARM0, 0x904, [], 0x0, 0xffffffff, 0x0, 0x0, 0x0, 0x0⟩,
  ⟨.HPWR_ALARM1, 0x908, [], 0x0, 0x8000ffff, 0x0, 0x0, 0x0, 0x0⟩,
  ⟨.HPWR_CELL0, 0x90c, [], 0x0, 0x0, 0x0, 0x0, 0x0, 0x0⟩,
  ⟨.HPWR_CELL1, 0x910, [], 0x0, 0x0, 0x0, 0x0, 0x0, 0x0⟩,
  ⟨.HPWR_VREQ, 0x920, [], 0x0, 0x0, 0x10000000, 0x0, 0x0, 0x0⟩,
  ⟨.HPWR_THERM, 0x930, [], 0x0, 0x0, 0x2000, 0x0, 0x0, 0x0⟩]

/-- The registers of page HGOV. -/
def regsHGOV : List RDesc := [
  ⟨.HGOV_CFG, 0x40, [], 0xffff, 0x0, 0x0, 0x0, 0x0, 0x190⟩,
  ⟨.HGOV_STAT, 0x900, [], 0x0, 0x0, 0x0, 0x0, 0xffffffff, 0x0⟩,
  ⟨.HGOV_DMAX, 0x904, [], 0x0, 0x0, 0x0, 0x0, 0xffffffff, 0x0⟩,
  ⟨.HGOV_DSUM, 0x908, [], 0x0, 0x0, 0x0, 0x0, 0xffffffff, 0x0⟩,
  ⟨.HGOV_PEND, 0x90c, [], 0x0, 0x0, 0x0, 0x0, 0x0, 0x0⟩]

/-- The registers of page HRST. -/
def regsHRST : List RDesc := [
  ⟨.HRST_CTL, 0x900, [], 0x0, 0x0, 0x0, 0xf1, 0x0, 0x0⟩,
  ⟨.HRST_TILE, 0x904, [], 0x0, 0x0, 0x0, 0x101ff, 0x0, 0x0⟩,
  ⟨.HRST_STAT, 0x908, [], 0x0, 0x0, 0x0, 0x0, 0x0, 0x0⟩]

/-- The registers of page HBOOT. -/
def regsHBOOT : List RDesc := [
  ⟨.HBOOT_STAT, 0x900, [], 0x0, 0x0, 0x0, 0x0, 0x0, 0xff⟩,
  ⟨.HBOOT_DSEQ, 0x904, [], 0x0, 0x0, 0x0, 0x0, 0x0, 0x0⟩]

/-- The registers of page HOTP. -/
def regsHOTP : List RDesc := [
  ⟨.HOTP_W, 0x900, [(64, 4)], 0x0, 0x0, 0x0, 0x0, 0x0, 0x0⟩,
  ⟨.HOTP_VALID, 0xa00, [(2, 4)], 0x0, 0x0, 0x0, 0x0, 0x0, 0x0⟩,
  ⟨.HOTP_ADDR, 0xa10, [], 0x0, 0x3f, 0x0, 0x0, 0x0, 0x0⟩,
  ⟨.HOTP_DATA, 0xa14, [], 0x0, 0xffffffff, 0x0, 0x0, 0x0, 0x0⟩,
  ⟨.HOTP_CMD, 0xa18, [], 0x0, 0x0, 0xe00, 0x1, 0x0, 0x0⟩]

end Sys2Proof.Machine
end

