-- ==== Sys2Proof/Machine/State.lean ====
section
/-! DEFINITION. The state of the WT6416 as plain data: every register word (staged, live, pending, retiring, immediate,
per-master), and every buffer, queue, counter and state machine the chapters give the device. Tables are lists of
(key, value) pairs; a key the list does not hold has the default value of its table. -/
namespace Sys2Proof.Machine

/-- A table from numbers to values: an unlisted key has the default its reader names. -/
abbrev Tab (α : Type) := List (Nat × α)

/-- Why the machine stops with a fault. No command of this block stops it: every refusal of the spec is a status, a
counter or a pulse, after which the device goes on. The one constructor names the access no command makes. -/
inductive Fault where
  /-- An access outside the 512 MiB media store (R134, R360); raised by nothing: accesses outside the space are
  answered by their own rule. Safe. -/
  | outsideStore
deriving DecidableEq, Repr

/-- Why a command is refused by the model. -/
inductive Refusal where
  /-- A command that has no meaning in the model yet, by its mnemonic. Safe: nothing is claimed of it. -/
  | notModelled (mnemonic : String)
deriving DecidableEq, Repr

/-! ## Time -/

/-- Where the TPLL stands (R62-R66). -/
inductive TpllState where
  | acquire | locked | holdover | slowHold
deriving DecidableEq, Repr

/-- A slew in progress (R59): what remains of d, in 2^-16 TU, signed, and its rate in ppm. -/
structure Slew where
  rem : Int
  rate : Nat
deriving DecidableEq, Repr

/-- A pending phase step (R56): d in TU, the whole second it waits for, if it waits for one, and else the TPLL cycle. -/
structure PStep where
  d : Int
  second : Option Nat
  cyc : Nat
deriving DecidableEq, Repr

/-- A per-master latch of one or more words. -/
abbrev Latch := List Nat

/-- One entry of the capture FIFO: five words (R75). -/
abbrev CapEntry := List Nat

/-- One reference input (R77). -/
structure RefIn where
  lock : Bool := false
  good : Nat := 0
  missing : Nat := 0
  lastMark : Option Nat := none
  det : Nat := 0
  frames : Nat := 0
deriving DecidableEq, Repr

/-- The hearth: counter, corrections, TPLL, sources, captures, ring (chapter Hearth Time Engine). -/
structure Hearth where
  /-- the time counter at the last TPLL cycle, in 2^-16 TU since the PTP epoch (R51) -/
  ctr : Nat := 0
  /-- the instant reached within that cycle, in TU: interpolated, as a TDC reads it (R52) -/
  atTU : Nat := 0
  /-- TPLL cycles since reset (R148) -/
  cycle : Nat := 0
  run : Bool := false
  /-- a load of the counter that waits for its TPLL cycle (R54): the value, and the cycle -/
  tset : Option Nat := none
  tsetCyc : Nat := 0
  pstep : Option PStep := none
  slew : Option Slew := none
  tpll : TpllState := .acquire
  /-- the instants at which HOLDOVER began or ended, newest first (R307) -/
  holdLog : List (Nat × Bool) := []
  src : Nat := 0
  ready : List Bool := [true, false, false, false]
  everLocked : Bool := false
  /-- RUN waits for the load and the step of its own write (R54) -/
  runPend : Bool := false
  /-- the source whose loss began the holdover (R66) -/
  lostSrc : Option Nat := none
  /-- SLOW_HOLD latches: the counter and the cellar count at entry (R64) -/
  slowC0 : Nat := 0
  slowN0 : Nat := 0
  trimGood : Nat := 0
  cap : List CapEntry := []
  capArmed : Bool := true
  refs : Tab RefIn := []
  /-- the instant of the last edge of each output: REF0-REF3, 4 the 1PPS, 5 the 10 MHz; the instant at which the 1PPS falls (R78) -/
  outEdge : Tab Nat := []
  ppsFall : Option Nat := none
  linkUp : List Bool := [false, false]
  markSent : Option Nat := none
deriving DecidableEq, Repr

/-! ## Registers -/

/-- The register words. Every map is keyed by the BAR0 address of the staged (or immediate) word; an unlisted address
holds its reset value (R24, `Ops`). -/
structure Regs where
  /-- the landing: staged values (R109) -/
  staged : Tab Word := []
  /-- the live bank (R111), keyed by the staged address -/
  live : Tab Word := []
  /-- the live bank before the last boundary, kept to drain close (R92) -/
  retiring : Option (Tab Word) := none
  /-- pending banks, one per domain with a commit (R110) -/
  pending : Tab (Tab Word) := []
  /-- immediate registers -/
  imm : Tab Word := []
  /-- per-master instances, keyed by 1024 × address + reader (a master, or an engine or DMA channel from 8 on) -/
  per : Tab Word := []
deriving DecidableEq, Repr

/-! ## Pulses and controllers -/

/-- An event pulse (R41). -/
structure Pulse where
  id : Nat
  stamp : Nat
  arg : Nat
deriving DecidableEq, Repr

/-- Where a copy of a pulse goes: the controller its source names (R385), the quadrant controller as a host copy, an
engine whose inbox has no place for it yet (R387), a tile subscription (R388), a timer (R248) or a DMA WAIT (R376). -/
inductive Dest where
  | ctl
  | host
  | eng (T : Nat)
  | sub (T : Nat)
  | timer (T i : Nat)
  | dma (c : Nat)
deriving DecidableEq, Repr

/-- A pulse in the fabric: `src` names the source queue of R45, `dom` the domain an EMIT carries (R386). -/
structure FabEntry where
  p : Pulse
  dest : Dest := .ctl
  src : Nat := 0
  dom : Option Nat := none
  /-- counted in INBOX_FULL (R348) -/
  held : Bool := false
deriving DecidableEq, Repr

/-- The state of one (controller, domain, class) (R391). -/
inductive IrqSt where
  | idle | waiting | hold | holdPend
deriving DecidableEq, Repr

structure IrqWin where
  st : IrqSt := .idle
  winEnd : Nat := 0
  /-- the epoch in which NO_TARGET was first counted, as epoch + 1 (R396) -/
  ntEpoch : Nat := 0
deriving DecidableEq, Repr

/-! ## Epochs, snapshots, commits -/

/-- One epoch that has begun: its number, the instant it began, and its low mark after a backward step (R35, R58). -/
structure EpochMark where
  num : Nat
  beg : Nat
  low : Nat
deriving DecidableEq, Repr

inductive SlotState where
  | empty | filling | published
deriving DecidableEq, Repr

/-- One snapshot slot (R97-R99): state, epoch and the words published, by slot offset. -/
structure Slot where
  st : SlotState := .empty
  epoch : Nat := 0
  words : Tab Nat := []
  /-- the settings in force in the epoch, for the ACTIVE flags and the rooms of the record headers (R98) -/
  bank : Tab Word := []
deriving DecidableEq, Repr

/-- One spill entry (R94, R95). -/
structure Spill where
  epoch : Nat
  kind : Nat
  src : Nat
  room : Nat
  count : Nat
  first : Nat
  last : Nat
  recOff : Nat
deriving DecidableEq, Repr

/-- An epoch waiting for publication or under it (R91, R101): its slot once chosen, whether its drain has closed, and
the settings that were in force in it. -/
structure Publn where
  epoch : Nat
  slot : Option Nat
  closed : Bool
  bank : Tab Word
deriving DecidableEq, Repr

/-- One settings slot of the flash: the fields of its header and the settings its body holds (R125). A slot that is erased or half
programmed is none. -/
structure FlashSlot where
  seq : Nat
  length : Nat := 0
  epoch : Nat
  crc : Nat := 0
  words : Tab Word
deriving DecidableEq, Repr

/-- One master's snapshot pin (R106). -/
structure Pin where
  held : Bool := false
  slot : Nat := 0
  epoch : Nat := 0
  age : Nat := 0
  refused : Bool := false
  lapsed : Bool := false
deriving DecidableEq, Repr

inductive CommitSt where
  | idle | checking | checked | agreeing | locked
deriving DecidableEq, Repr

/-- The commit state of one domain (R113, R114). -/
structure Commit where
  st : CommitSt := .idle
  id : Nat := 0
  target : Nat := 0
  twin : Bool := false
  master : Nat := 0
  /-- the twin's PREPARED that is held: its target, ID and group digests (R120, R426) -/
  prepared : Option (List Nat) := none
  decided : Bool := false
  relies : Option Nat := none
  lastStatus : Nat := 0xFF
  lastId : Nat := 0
  lastEpoch : Nat := 0
  firstRule : Nat := 0
  failCount : Nat := 0
  flog : List (Nat × Nat) := []
  /-- tooth tables copied at COMMIT, by angle unit (R292) -/
  teeth : Tab (List Nat) := []
deriving DecidableEq, Repr

/-- Epochs, accumulators, publication, pins and commits (chapter Epochs, Snapshots and Commits). -/
structure Seq where
  num : Nat := 0
  marks : List EpochMark := []
  /-- the grid counts: RUN set and the TPLL locked (R81) -/
  armed : Bool := false
  /-- index of the next grid point (R80) -/
  nextGrid : Int := 0
  bnd : Nat := 0
  nxt : Nat := 0
  runAt : Nat := 0
  anyBoundary : Bool := false
  /-- the last epochs that carry TIME_STEP, newest first (R307) -/
  stepped : List Nat := []
  /-- epochs below this number have had their drain close -/
  closedBelow : Nat := 0
  /-- accumulators, keyed by epoch × 2^24 + slot offset -/
  acc : Tab Nat := []
  slots : Tab Slot := []
  cur : Option Nat := none
  pubSeq : Nat := 0
  pubs : List Publn := []
  spill : List Spill := []
  spillLost : Nat := 0
  spillOver : Bool := false
  pins : Tab Pin := []
  commits : Tab Commit := []
  nextId : Nat := 1
  locked : Bool := false
  firstApplied : Bool := false
  pfwLow : Bool := false
  pfwActive : Bool := false
  pfwEnd : Nat := 0
  saving : Bool := false
  /-- the two settings slots of the flash (R125) -/
  flashA : Option FlashSlot := none
  flashB : Option FlashSlot := none
  saveBuf : FlashSlot := { seq := 0, epoch := 0, words := [] }
  saveB : Bool := false
  blocked : Bool := false
  modes : List Nat := []
  /-- set of masters whose write was refused in this epoch (R144) -/
  refusedM : List Nat := []
deriving DecidableEq, Repr

/-! ## Ownership and control ports -/

inductive OwnSt where
  | unowned | electing | owned | offered
deriving DecidableEq, Repr

/-- One ownership domain (R147-R152). -/
structure Own where
  st : OwnSt := .unowned
  owner : Nat := 0
  prio : Nat := 0
  claims : Tab Nat := []
  winEnd : Nat := 0
  target : Nat := 0
  deadline : Nat := 0
  stale : Nat := 0
  base : Nat := 0
deriving DecidableEq, Repr

/-- Late-fault log, posted-write numbers (R382, R383). -/
structure LateLog where
  log : List (List Nat) := []
  num : Tab Nat := []
  acc : Tab Nat := []
deriving DecidableEq, Repr

/-! ## Flow channels and ports -/

/-- The measurement model of an ingress channel (R168-R180). Sequence numbers are extended by counting wraps, from 2^40
up. -/
structure FlowIn where
  started : Bool := false
  h : Nat := 0
  got : List Nat := []
  hiA : Option Nat := none
  hiB : Option Nat := none
  oldA : Nat := 0
  oldB : Nat := 0
  lastA : Option Nat := none
  lastB : Option Nat := none
  /-- the other path's first packet since A's and since B's last (R170) -/
  sinceA : Option Nat := none
  sinceB : Option Nat := none
  silentA : Bool := false
  silentB : Bool := false
  c : Nat := 0
  td : Option Nat := none
  ts : Option Nat := none
  tsA : Option Nat := none
  tsB : Option Nat := none
  frameOpen : Bool := false
  marker : Bool := false
  frames : Nat := 0
  m : Nat := 0
  t0 : Int := 0
  lastPkt : Option Nat := none
  synced : Bool := false
  /-- octets × TU per second (R178) -/
  tokens : Nat := 0
  tokAt : Nat := 0
  tokLive : Bool := false
  ssrc : Option Nat := none
  resync : Bool := false
  /-- a migration's NEW waits for OLD's state (R355) -/
  held : Bool := false
deriving DecidableEq, Repr

/-- A classified packet on its way to the flow datapath (R162, R166). `port` is its sub-port's first lane;
`bad` says that its FCS proved bad (R206); `old` that a backward step came after its stamp (R58); `ovr` that it exceeded
its CINST limit (R206); `wait` for what it waits, once it stands in the tile's best-effort queue (R179), and `fst`
the stamp of the first packet of its frame (R175). -/
structure InPkt where
  fc : Nat
  path : Nat
  port : Option Nat
  stamp : Nat
  bytes : List Byte
  bad : Bool := false
  old : Bool := false
  ovr : Bool := false
  wait : Nat := 0
  fst : Nat := 0
deriving DecidableEq, Repr

/-- A packet an egress channel receives (R184, R185): its buffer, or the octets of one whose FCS proved bad at `endAt`
(R206). `fst` is the stamp of the first packet of its frame. -/
structure Stored where
  src : Nat
  buf : Nat
  len : Nat
  /-- the length of its UDP datagram -/
  ulen : Nat
  stamp : Nat
  ts : Nat
  clk : Nat
  ovr : Bool
  inPort : Option Nat
  /-- the binding it is for: 0 the new one, 1 the retiring one, 2 one retired before it -/
  who : Nat := 0
  raw : List Byte := []
  endAt : Nat := 0
  fst : Nat := 0
deriving DecidableEq, Repr

/-- A binding of an egress channel to a source with its settings (R198), and where its current frame stands (R188):
`cur` is the frame's RTP timestamp and its first packet's stamp. -/
structure Binding where
  src : Nat
  words : Tab Word := []
  since : Nat := 0
  cur : Option (Nat × Nat) := none
  tS : Int := 0
  slot : Int := 0
  pos : Nat := 0
  why : Nat := 0
deriving DecidableEq, Repr

/-- A packet of an accepted frame that waits for its slot's decision (R190). -/
structure EgPkt where
  p : Stored
  slot : Int
  pos : Nat
  tS : Int
deriving DecidableEq, Repr

/-- A source frame an egress channel has met (R202): its source and media instant, and whether the retiring and the new
binding have served it. -/
structure SrcFrame where
  src : Nat
  tS : Int
  old : Bool := false
  new : Bool := false
deriving DecidableEq, Repr

/-- An egress channel (R187-R203): the packets it has still to take, Q, its bindings, the switch point S, the slots next
to be decided under the new and the retiring binding, the packets accepted for undecided slots, a migration's OLD whose
Q it waits for. -/
structure FlowOut where
  inq : List Stored := []
  q : Nat := 0
  bind : Option Binding := none
  retire : Option Binding := none
  elder : Option Binding := none
  elderAt : Int := 0
  elderNext : Option Int := none
  elderEnd : Int := 0
  swS : Int := 0
  swPend : Bool := false
  swDefer : Nat := 0
  /-- PER and PHASE are unchanged by the switch (R200) -/
  swFree : Bool := false
  /-- the release instant of the retiring binding -/
  relAt : Int := 0
  held : List EgPkt := []
  nextSlot : Option Int := none
  oldNext : Option Int := none
  oldEnd : Int := 0
  nextPoint : Option Int := none
  gapRun : Nat := 0
  /-- SOURCE_LOST of the run in progress has been pulsed -/
  lostSaid : Bool := false
  /-- the slots that were filled (R190) -/
  filled : List Int := []
  lastTs : Nat := 0
  /-- the last frame served under the retiring and under the new binding -/
  lastOld : Option Int := none
  lastNew : Option Int := none
  firstNew : Bool := false
  seen : List SrcFrame := []
  sinceBind : Nat := 0
  seqFrom : Option Nat := none
  ready : List EgPkt := []
deriving DecidableEq, Repr

/-- One entry of a sub-port calendar or of its best-effort queue (R192, R193, R207), with the settings its frame is
rewritten by. `arr` is the instant at which a scheduled request reached the calendar. -/
structure CalEnt where
  t : Nat
  fc : Nat
  idx : Nat
  p : Stored
  words : Tab Word
  seqOut : Nat
  tsOut : Nat
  be : Bool := false
  arr : Option Nat := none
  /-- a best-effort packet that waited for the spine (R207) -/
  spine : Bool := false
deriving DecidableEq, Repr

/-- One sub-port (R193, R207, R209-R214), keyed by its first lane. -/
structure SubPort where
  up : Bool := false
  cal : List CalEnt := []
  be : List CalEnt := []
  freeAt : Nat := 0
  hostTurn : Bool := false
deriving DecidableEq, Repr

/-- One host transmit entry (R212). -/
structure HTx where
  buf : Nat
  handle : Nat
  len : Nat
  sub : Nat
deriving DecidableEq, Repr

/-- One port octet's host queues (R211, R212). -/
structure HostQ where
  rx : List (List Nat) := []
  tx : List HTx := []
deriving DecidableEq, Repr

/-! ## Media store -/

inductive BankSt where
  | held | scrubbing | testing
deriving DecidableEq, Repr

/-- One media-store bank (R363-R366). `pool` is the pool (0-63) it belongs to. -/
structure Bank where
  holder : Nat := 0x100
  st : BankSt := .held
  target : Nat := 0x100
  noscrub : Bool := false
  refused : Bool := false
  pool : Option Nat := none
  retiring : Bool := false
  lastPool : Option Nat := none
deriving DecidableEq, Repr

inductive BufHolder where
  | datapath | hostRx | device | explicit
deriving DecidableEq, Repr

/-- One 2,048-byte buffer (R367, R185). -/
structure Buf where
  gen : Nat := 0
  alloc : Bool := false
  ever : Bool := false
  dom : Nat := 0x100
  holder : BufHolder := .datapath
  readers : Nat := 0
deriving DecidableEq, Repr

/-- One buffer pool, keyed by 64q + P (R365-R367). -/
structure Pool where
  free : List Nat := []
  lowSent : Bool := false
  emptyEpoch : Nat := 0
  faultEpoch : List Nat := [0, 0, 0, 0]
deriving DecidableEq, Repr

/-- A bank or pantry test in progress (R372). -/
structure MTest where
  running : Bool := false
  bank : Nat := 0
  preserve : Bool := false
deriving DecidableEq, Repr

inductive DmaSt where
  | idle | run | wait | stopping | fault
deriving DecidableEq, Repr

/-- A strided copy in progress (R375, R379). -/
structure DmaMove where
  rows : Nat
  rowBytes : Nat
  srcOff : Nat
  srcSpace : Nat
  dstOff : Nat
  dstSpace : Nat
  srcStride : Int
  dstStride : Int
  nochk : Bool
deriving DecidableEq, Repr

/-- One DMA channel (R373-R379): the loop counters that are loaded, the running check register, the move in progress and
what a WAIT waits for. -/
structure Dma where
  st : DmaSt := .idle
  regMode : Bool := false
  index : Nat := 0
  fault : Nat := 0
  ctrs : Tab Nat := []
  crc : Nat := 0
  /-- DMA_CHK -/
  chk : Nat := 0
  bytes : Nat := 0
  move : Option DmaMove := none
  waitId : Option Nat := none
  waitT : Option Nat := none
  waitTimeout : Option Nat := none
  dom : Nat := 0x100
deriving DecidableEq, Repr

/-! ## Pin channels, timers, protection, motion -/

/-- One entry of an edge queue (R233): `t` is the instant pushed; `arr` marks an entry that has reached the interpolator, `moved`
the instant a late one is placed at instead, `lat` the LAT_OUT of that request (R227, R230). -/
structure EdgeEnt where
  t : Nat
  level : Bool
  arr : Bool := false
  moved : Option Nat := none
  lat : Int := 0
deriving DecidableEq, Repr

/-- A request an interpolator holds: place the waveform level at the instant (R223). `why` is 0 waveform, 2 last inactive edge of
a train, 4 an active edge delayed by dead time, 5 the start of a refresh window (R239, R240); `lat` is LAT_OUT when the request
was made (R230). -/
structure EdgeReq where
  t : Nat
  level : Bool
  why : Nat := 0
  lat : Int := 0
deriving DecidableEq, Repr

/-- One input transition (R243, R244): its stamp and new level, by how much phase steps have moved the counter since, and whether one
of them went back (R58). -/
structure Cap where
  stamp : Nat
  level : Bool
  moved : Int := 0
  old : Bool := false
deriving DecidableEq, Repr

/-- One pin channel (chapters on pin channels). -/
structure PinCh where
  /-- the settings of the waveform that runs, by block offset: the old ones until C (R230) -/
  words : Tab Word := []
  anchor : Nat := 0
  nextN : Int := 0
  sinceC : Nat := 0
  running : Bool := false
  stopped : Bool := false
  cPoint : Option Nat := none
  /-- the boundary the settings that wait for C count their grid from -/
  nextAnchor : Nat := 0
  /-- the period at which RESTART begins the waveform anew (R235) -/
  restartN : Option Int := none
  /-- no period has begun since the waveform began or was restarted -/
  fresh : Bool := true
  trainCnt : Nat := 0
  rfrCnt : Nat := 0
  /-- the level of a PWM's interval before dead time -/
  raw : Bool := false
  q : List EdgeEnt := []
  lastPush : Option Nat := none
  reqs : List EdgeReq := []
  wlevel : Bool := false
  pin : Bool := false
  oe : Bool := false
  lastEdge : Option Nat := none
  duty : Nat := 0
  shadow : Nat := 0
  /-- duties written and the instants from which a period takes them, oldest first (R238) -/
  sched : List (Nat × Nat) := []
  pend : Option (Nat × Nat) := none
  trigs : List (Nat × Nat) := []
  inLevel : Bool := false
  held : Option Cap := none
  /-- the stamped transitions, newest first, as far back as a gate or a chatter window looks (R245, R274) -/
  trs : List (Nat × Bool) := []
  /-- the arrival of the last clear of the count (R245) -/
  clrAt : Option Nat := none
  /-- the transition that the held one has ended, counted once that proves no narrow pulse (R226, R243) -/
  ended : Option Cap := none
  /-- a chatter instant that stands once its transition proves no narrow pulse (R226, R274) -/
  chat : Option Nat := none
  fifo : List Cap := []
  cnt : Nat := 0
  cause : Nat := 0
  causeAt : Nat := 0
  safePend : Option Nat := none
  inSafe : Bool := false
  resume : Option Nat := none
  chatter : Bool := false
deriving DecidableEq, Repr

/-- One tile timer (R247-R251), keyed by 8T + i. -/
structure Timer where
  started : Bool := false
  s : Nat := 0
  /-- the value and direction STOP froze -/
  frozen : Option (Nat × Bool) := none
  armed : Option Nat := none
  /-- ticks up to which matches and wraps have been pulsed -/
  matchTick : Nat := 0
  wrapTick : Nat := 0
deriving DecidableEq, Repr

/-- One trip input (R262-R265). -/
structure Trip where
  level : Bool := false
  held : Option Nat := none
  /-- the blanking windows that have not ended, earliest first: start and end (R263) -/
  blank : List (Nat × Nat) := []
  /-- the t_q of the assertions that wait for the end of their window -/
  blankHeld : List Nat := []
  asserted : Bool := false
  tripped : Bool := false
deriving DecidableEq, Repr

inductive AxSt where
  | idle | move | homeSeek | hardStop
deriving DecidableEq, Repr

/-- One axis (R268-R277), keyed by 8q + a. -/
structure Axis where
  st : AxSt := .idle
  homed : Bool := false
  result : Nat := 0
  pos : Int := 0
  /-- steps of the move, steps placed, instant of the next step -/
  n : Nat := 0
  j : Nat := 0
  tNext : Nat := 0
  neg : Bool := false
  /-- the level of the direction: 1 positive -/
  dirLevel : Bool := false
  /-- the direction edges still to be placed, earliest first -/
  dirAt : List (Nat × Bool) := []
  /-- the instants of the last steps placed, newest first -/
  placed : List Nat := []
  /-- the channels whose causes 4 and 5 this axis has set (R257) -/
  stopped : List Nat := []
  nr : Nat := 0
  pcru : Nat := 0
  psta : Nat := 0
deriving DecidableEq, Repr

/-- Where a demand stands: it waits for its pull-in, pulls in, or holds (R281, R282). -/
inductive DemandSt where
  | waiting | pulling | holding
deriving DecidableEq, Repr

/-- One demand of a high-side group (R279-R282): its member, its start a, its pull-in start p or, once it holds, the start
of its next chopping period. -/
structure Demand where
  k : Nat
  a : Nat
  st : DemandSt := .waiting
  p : Nat := 0
deriving DecidableEq, Repr

/-- One high-side group (R278-R283), keyed by 16q + g. -/
structure Grp where
  demands : List Demand := []
  /-- e′: the end of the pull-in before -/
  lastE : Nat := 0
deriving DecidableEq, Repr

/-! ## Angle units -/

inductive AuSt where
  | off | seek | sync
deriving DecidableEq, Repr

/-- One processed edge: its count and stamp, its direction, whether the direction was qualified after it, whether it began
a run, whether it gives no speed with the edge before it (R294-R297), whether a backward step came after its stamp (R58). -/
structure AuEdge where
  c : Int
  t : Nat
  neg : Bool := false
  qual : Bool := false
  rev : Bool := false
  brk : Bool := false
  old : Bool := false
deriving DecidableEq, Repr

/-- One entry of an output queue (R299): `tp` is its predicted instant; `late` that it was passed and will fire (R301); `neg` the
direction in which it is due or was passed (R302). -/
structure AuEnt where
  pos : Int
  dir : Nat
  level : Bool
  rep : Bool
  pulse : Bool
  tp : Option Nat := none
  late : Bool := false
  neg : Bool := false
deriving DecidableEq, Repr

/-- The statement of a unit's position at an exposure instant (R304). -/
structure AuState where
  pos : Int
  speed : Int
  gap : Nat
  method : Nat
  sync : Bool
  neg : Bool
  phase : Int
deriving DecidableEq, Repr

/-- One angle unit (chapter Angle Units and Angle Flows). -/
structure AU where
  st : AuSt := .off
  /-- the stamps on their way from the pins: line A 0, B 1, Z 2 (R289) -/
  inq : Tab (List Cap) := []
  /-- a stamp that found its queue full (R289) -/
  ovr : Option Nat := none
  lvA : Bool := false
  lvB : Bool := false
  lvZ : Bool := false
  lastA : Option Nat := none
  lastB : Option Nat := none
  c : Int := 0
  /-- the edges processed, newest first, as far back as a capture may need them -/
  edges : List AuEdge := []
  neg : Bool := false
  runLen : Nat := 0
  /-- the run began by a reversal; the count of its first edge -/
  reversed : Bool := false
  runFirst : Int := 0
  qual : Bool := false
  stall : Bool := false
  /-- the suspect edge: `brk` tells that it ends a stall (R294, R297) -/
  suspect : Option AuEdge := none
  sinceSubst : Option Nat := none
  lossCause : Nat := 0
  setc : Option Int := none
  /-- the suspect edge came before the write of SETC (R293) -/
  setcLate : Bool := false
  /-- the live tooth table -/
  teeth : List Nat := []
  outs : Tab (List AuEnt) := []
  /-- exposure instants from this one on are still to be captured -/
  nextAt : Nat := 0
  /-- the exposure instants a forward step passed over: from the first up to, not including, the second (R309) -/
  passed : Nat × Nat := (0, 0)
  /-- the capture and flow settings that boundaries replaced, oldest first: they serve the exposures before their boundary (R308) -/
  capOld : List (Nat × Tab Word) := []
  /-- the capture that waits for its packet: alignment point, instant, holdover, the statements by unit -/
  expo : Option (Int × Nat × Bool × Tab AuState) := none
  seq : Nat := 0
  bad : Nat := 0
  phase : Option Int := none
  /-- a partner's reversal waits for this wheel: its direction and φ(t1) -/
  partnerRev : Option (Bool × Int) := none
deriving DecidableEq, Repr

/-! ## Engines -/

inductive EngSt where
  | offline | loading | idle | run | wait | trap | halted | stopped
deriving DecidableEq, Repr

/-- A media-store transfer of a tag (R321, R322): write = to the media store. -/
structure Xfer where
  write : Bool
  store : Nat
  pantry : Nat
  len : Nat
deriving DecidableEq, Repr

/-- One inbox entry (R324, R325). -/
structure InEnt where
  p : Pulse
  dom : Nat
  idx : Nat
  chan : Nat
  held : Bool := false
deriving DecidableEq, Repr

/-- What an engine waits for. -/
inductive Wait where
  | untilT (t : Nat)
  | tags (mask : Nat)
  | finish
deriving DecidableEq, Repr

/-- One engine's loaded image (R333). -/
structure Image where
  kind : Nat := 0
  iface : Nat := 0
  version : Nat := 0
  patches : Nat := 0
  init : Nat := 0
  trapVec : Nat := 0
  ctxLog : Nat := 0
  ctxBase : Nat := 0
  tileCtx : Nat := 0
  pub : Nat := 0
  disp : Tab Nat := []
deriving DecidableEq, Repr

/-- One Mentalas engine (R312-R332). -/
structure Eng where
  st : EngSt := .offline
  /-- the state at the halt -/
  back : EngSt := .offline
  inInit : Bool := false
  pc : Nat := 0
  x : Tab Word64 := []
  fz : Bool := false
  fn : Bool := false
  fc : Bool := false
  fv : Bool := false
  /-- return addresses, newest first -/
  stack : List Nat := []
  /-- the entries of the call stack above its depth, lowest first -/
  above : List Nat := []
  tags : Tab Xfer := []
  /-- the event in hand: the pulse, its channel, domain and dispatch index -/
  ev : Pulse := ⟨0, 0, 0⟩
  chan : Nat := 0xFF
  dom : Nat := 0x100
  didx : Nat := 0
  cb : Nat := 0
  /-- no WRS has changed CB -/
  cbOwn : Bool := false
  slice : Nat := 0
  sliceLeft : Nat := 0
  hwords : Nat := 0
  /-- words charged to the dispatch, and the instant of its first word -/
  charged : Nat := 0
  began : Nat := 0
  wait : Option Wait := none
  waitAt : Nat := 0
  /-- when the engine halted; HALT waits for the word in progress; a stop or halt that its stamp has still to tell (R266,
  R332, R339): the pulse's number and argument -/
  haltAt : Nat := 0
  haltReq : Bool := false
  unstamped : Option (Nat × Nat) := none
  lastDom : Nat := 0x100
  lastCause : Nat := 0
  /-- since when the engine is out of IDLE -/
  busyAt : Option Nat := some 0
  resetting : Bool := false
  /-- STEP lets one word or dispatch run; the word at a breakpoint runs after RESUME or STEP -/
  step : Bool := false
  passBp : Bool := false
  img : Image := {}
  cstore : Tab Micro := []
  inbox : List InEnt := []
  ldResult : Nat := 0xFF
  ldQueued : Bool := false
  ldBusy : Bool := false
  ldPatch : Bool := false
  dropEpoch : Nat := 0
deriving DecidableEq, Repr

/-! ## Check-value units -/

inductive CvuSt where
  | idle | guarding | scanning
deriving DecidableEq, Repr

/-- One check-value unit (R397-R403): the scan in progress with the settings it started under, the boundaries since the
settings applied, a trigger that waits, the outcomes and causes of the guards, their last ALIVE, and the guards that have had
one since they were enabled. -/
structure Cvu where
  st : CvuSt := .idle
  fault : Nat := 0
  val : Nat := 0
  poly : Nat := 0
  space : Nat := 0
  tile : Nat := 0
  addr : Nat := 0
  len : Nat := 0
  dom : Nat := 0x100
  sinceN : Nat := 0
  due : Bool := false
  guards : Tab (Nat × Nat) := []
  galive : Tab Nat := []
  seen : List Nat := []
deriving DecidableEq, Repr

/-! ## Twin -/

inductive LinkSt where
  | down | training | up
deriving DecidableEq, Repr

inductive PairSt where
  | solo | joining | joined | suspect | severed | alone
deriving DecidableEq, Repr

/-- A planned handover in progress (R422). -/
structure Handover where
  th : Nat
  mask : List Nat
  trigger : Nat
  ack : Bool := false
deriving DecidableEq, Repr

/-- One master's mailbox read in progress (R431). -/
structure Mbox where
  deadline : Nat
deriving DecidableEq, Repr

/-- The Zynjo link and the pair (chapter Twin Pairing). -/
structure Zyn where
  link : LinkSt := .down
  downAt : Nat := 0
  lanes : Nat := 0
  sideConflict : Bool := false
  txSeq : Nat := 0
  rxSeq : Nat := 0
  replay : List Flit := []
  /-- payloads that wait for a place in the replay buffer (R411) -/
  waitq : List FlitBody := []
  /-- the link has been DOWN too long to resume: what is sent is lost at once (R412) -/
  dead : Bool := true
  hb : Option Heartbeat := none
  hbArr : Nat := 0
  /-- the whole µs of the last HEARTBEAT sent, and of the last tick (R414, R416) -/
  hbSentAt : Nat := 0
  hbTickAt : Nat := 0
  ofs : List Int := []
  rtt : Nat := 0
  ovr : Nat := 0
  under : Nat := 0
  ofsOver : Bool := false
  misses : Nat := 0
  /-- ZY_HB_IN is silent -/
  wireSilent : Bool := false
  pair : PairSt := .solo
  prev : PairSt := .solo
  tk : Nat := 0
  /-- when this side sent its JOIN_REQ, and E_j (R433) -/
  joinAt : Nat := 0
  joinEj : Nat := 0
  /-- the twin's JOIN_REQ: its E_j and its arrival -/
  twinReq : Option (Nat × Nat) := none
  joinOk : Bool := false
  tj : Option Nat := none
  /-- both requests are held -/
  joinBoth : Bool := false
  joinResult : Nat := 0xFF
  twinPins : List PinItem := []
  driving : List Nat := []
  takeAt : Option Nat := none
  ho : Option Handover := none
  hoIn : Option Handover := none
  conflict : List Nat := []
  conflictNow : List Nat := []
  mirror : List (Nat × PinItem) := []
  meters : Tab (Nat × Nat) := []
  digests : Tab (List Nat) := []
  twinDigests : Tab (List Nat) := []
  divmap : List Nat := []
  diverged : Bool := false
  ringTko : Bool := false
  /-- the ring role committed, which a takeover has overlaid in the live copy (R420) -/
  ringRole : Option Nat := none
  follow : Bool := false
  mbox : Tab Mbox := []
deriving DecidableEq, Repr

/-! ## Clocks, power, reset, boot -/

/-- One clock source of R438. -/
structure ClkSrc where
  good : Nat := 0
  last : Option Int := none
  ready : Bool := false
deriving DecidableEq, Repr

inductive PwrSt where
  | run | sleep | deep
deriving DecidableEq, Repr

/-- One queued activation of the start governor (R454, R455). -/
structure GovReq where
  order : Nat
  index : Nat
  at_ : Nat
  /-- the tick of its arrival (R457) -/
  tk : Nat
deriving DecidableEq, Repr

/-- Clocks, power, governor, resets, boot, OTP and package state. -/
structure Pwr where
  clk : Tab ClkSrc := []
  ocxoWait : Bool := false
  ocxoDone : Bool := false
  msrc : Nat := 0
  mfreq : Nat := 8
  glideTo : Option Nat := none
  coast : Bool := false
  spllLock : List Bool := [false, false, false, false]
  st : PwrSt := .run
  req : Option PwrSt := none
  deepAt : Option Nat := none
  cellar : Nat := 0
  vreq : Nat := 0
  /-- the request before DEEP SLEEP, which a wake restores (R447) -/
  vkeep : Nat := 0
  vread : Nat := 0
  avsFails : Nat := 0
  speedLow : Bool := false
  tj : Int := 0
  outOfSpec : Bool := false
  tick : Nat := 0
  govQ : List GovReq := []
  govLog : List (Nat × Nat) := []
  govDefEpoch : Nat := 0
  active : List (Nat × Nat) := []
  cause : Nat := 0
  qbusy : List Nat := []
  inReset : Bool := false
  thermalHold : Bool := false
  supplyLow : List Nat := []
  banksOff : List Nat := []
  hallwayOpen : Bool := true
  side : Bool := false
  bootMode : Nat := 0
  oscDly : Nat := 0
  celRc : Bool := false
  steward : Bool := true
  /-- the loads the steward has still to do: tile, patch, image (R467, R468) -/
  bootQ : List (Nat × Bool × List Byte) := []
  /-- the tiles it has loaded -/
  bootDone : List Nat := []
  /-- the steward has handed the head of its list to the loader -/
  bootWait : Bool := false
  /-- the second directory is in use -/
  bootB : Bool := false
  bootResult : Nat := 0xFF
  bootWarn : Nat := 0
  bootSeq : Nat := 0
  /-- a reload after DEEP SLEEP, which loads no settings (R447) -/
  bootWake : Bool := false
  bootFlash : Option BootFlash := none
  otp : Tab Word := []
  otpBad : List Nat := []
  /-- words programmed since, and words whose program failed; they take effect at the next device reset (R472) -/
  otpNew : Tab Word := []
  otpFail : List Nat := []
  /-- the program in progress: word and value (R472) -/
  otpCmd : Option (Nat × Word) := none
deriving DecidableEq, Repr

/-- How an error is classed in Advanced Error Reporting (R135). -/
inductive AerSev where
  | advisory | nonFatal | fatal
deriving DecidableEq, Repr

/-- A PCIe function's power state and its AER status: uncorrectable and correctable error bits, and whether a non-fatal
and a fatal error were detected (R130, R135). -/
structure PcieFn where
  d3hot : Bool := false
  unc : List Nat := []
  cor : List Nat := []
  nonFatal : Bool := false
  fatal : Bool := false
deriving DecidableEq, Repr

/-- What the device put on its wires and pins, newest first: the model's own log. -/
inductive Output where
  | readData (m : Nat) (v : List Nat)
  | unsupported (m : Nat)
  | edge (pc t : Nat) (level : Bool)
  | driver (pc t : Nat) (on : Bool)
  | frame (lane t : Nat) (bytes : List Byte)
  | refEdge (n t : Nat)
  | ppsEdge (ten : Bool) (t : Nat) (rise : Bool)
  | ring (port : Nat) (gs : List CodeGroup)
  /-- a sequenced flit with the ACK it carries (R409) -/
  | flit (f : Flit) (ack : Nat)
  /-- the 256 bytes of a NAK or a HEARTBEAT flit (R409) -/
  | nak (bytes : List Byte)
  | heartbeat (bytes : List Byte)
  /-- ZY_HB_OUT (R414) -/
  | hbWire (t : Nat) (level : Bool)
  | msix (f vec : Nat) (addr : Nat) (data : Word)
  | svcReply (bytes : List Byte)
  | aer (f bit : Nat) (sev : AerSev)
  | hallway (open_ : Bool)
deriving DecidableEq, Repr

/-- The device without its memories. -/
structure Dev where
  h : Hearth := {}
  regs : Regs := {}
  fabric : List FabEntry := []
  sq : Seq := {}
  own : Tab Own := []
  late : LateLog := {}
  fin : Tab FlowIn := []
  fout : Tab FlowOut := []
  finOld : Tab FlowIn := []
  /-- the frame in progress of each source's stream after merge: its timestamp and its first packet's stamp (R175, R188) -/
  srcFrame : Tab (Nat × Nat) := []
  tileIn : Tab (List InPkt) := []
  /-- the tiles' best-effort queues (R179) -/
  tileBe : Tab (List InPkt) := []
  ports : Tab SubPort := []
  hostq : Tab HostQ := []
  banks : Tab Bank := []
  bufs : Tab Buf := []
  pools : Tab Pool := []
  btest : Tab MTest := []
  ptest : Tab MTest := []
  pins : Tab PinCh := []
  timers : Tab Timer := []
  trips : Tab Trip := []
  axes : Tab Axis := []
  grps : Tab Grp := []
  au : Tab AU := []
  eng : Tab Eng := []
  loadQ : List Nat := []
  budget : Tab Int := []
  meters : Tab (Nat × Nat × Nat) := []
  mig : Tab (Nat × Nat × Nat) := []
  dma : Tab Dma := []
  irq : Tab IrqWin := []
  irqLast : Tab Nat := []
  /-- the words of the MSI-X tables, at 8192 f + dword; an unlisted one is 0, and a vector's control word 1: masked (R130, R131) -/
  msixTab : Tab Word := []
  msixPend : Tab Nat := []
  pcie : Tab PcieFn := []
  cvu : Tab Cvu := []
  zyn : Zyn := {}
  pwr : Pwr := {}
  out : List Output := []
  free : Nat := 0
deriving DecidableEq, Repr

/-- The memories: the media store and the pantries (pantry byte p of tile T at key T × 2^18 + p), each a list of cells
in rising address order that holds no zero byte: an unlisted byte reads 0 (DESIGN CHOICE, log entry 3). -/
structure Mem where
  store : List Host.Cell := []
  pantry : List Host.Cell := []
deriving DecidableEq, Repr

/-- The whole machine: the device, its memories and the commands that wait. -/
structure State where
  dev : Dev := {}
  mem : Mem := {}
  pending : List Instr := []
deriving DecidableEq, Repr

/-- Right after device reset: every register at its reset value (unlisted words read it), the counter at zero, every
queue empty, every engine OFFLINE, no domain owned, memory with nothing listed (R24, R459). -/
def State.reset : State := {}

end Sys2Proof.Machine
end

