-- ==== Sys2Proof/Machine/Ops.lean ====
section
/-! DEFINITION. The named operations over the state: tables, register words and fields, the clock, memory, the lifting
of a meaning to a step outcome. -/
namespace Sys2Proof.Machine

/-! ## Tables -/

/-- The entry of a key, if the table lists it. -/
def Tab.get? {α : Type} : Tab α → Nat → Option α
  | [], _ => none
  | (k', v) :: t, k => if k = k' then some v else Tab.get? t k

/-- The value of a key: the listed one, or the table's default. -/
def Tab.get {α : Type} (t : Tab α) (dflt : α) (k : Nat) : α := (Tab.get? t k).getD dflt

/-- Sets the value of a key, keeping the keys rising. -/
def Tab.set {α : Type} : Tab α → Nat → α → Tab α
  | [], k, v => [(k, v)]
  | (k', v') :: t, k, v =>
    if k = k' then (k, v) :: t else if k < k' then (k, v) :: (k', v') :: t else (k', v') :: Tab.set t k v

/-- Changes the value of a key. -/
def Tab.upd {α : Type} (t : Tab α) (dflt : α) (k : Nat) (f : α → α) : Tab α := Tab.set t k (f (Tab.get t dflt k))

/-- Removes a key. -/
def Tab.del {α : Type} (t : Tab α) (k : Nat) : Tab α := t.filter (fun e => e.1 != k)

/-- Lays the entries of the second table over the first. -/
def Tab.ovr {α : Type} (t u : Tab α) : Tab α := u.foldl (fun t e => Tab.set t e.1 e.2) t

/-! ## Sorting -/

/-- Places a number in a rising list. -/
def insertNat (x : Nat) : List Nat → List Nat
  | [] => [x]
  | y :: t => if x ≤ y then x :: y :: t else y :: insertNat x t

/-- A list in rising order. -/
def sortNat (l : List Nat) : List Nat := l.foldr insertNat []

/-! ## Numbers -/

/-- The value of a field of a word. -/
def fget (w : Word) (f : Fld) : Nat := (w.toNat >>> f.lo) % 2 ^ f.w

/-- A word with one field replaced. -/
def fput (w : Word) (f : Fld) (v : Nat) : Word :=
  (w &&& ~~~(BitVec.ofNat 32 ((2 ^ f.w - 1) <<< f.lo))) ||| BitVec.ofNat 32 ((v % 2 ^ f.w) <<< f.lo)

/-- Bit `k` of a number, as a Bool. -/
def bitOf (n k : Nat) : Bool := n.testBit k

/-- `n` bits read as a two's complement number. -/
def sgn (n v : Nat) : Int := if v % 2 ^ n < 2 ^ (n - 1) then (v % 2 ^ n : Nat) else (v % 2 ^ n : Nat) - (2 ^ n : Nat)

/-- An integer as an `n`-bit two's complement pattern. -/
def unsgn (n : Nat) (v : Int) : Nat := (v % (2 ^ n : Nat)).toNat

/-- Saturates at the largest `n`-bit value (R23). -/
def sat (n v : Nat) : Nat := min v (2 ^ n - 1)

/-- A Bool as a bit. -/
def b2n (b : Bool) : Nat := if b then 1 else 0

/-- `b` is later than `a` in a modular order of `n` bits (R15). -/
def laterMod (n a b : Nat) : Bool := decide (0 < sgn n (unsgn n ((b : Int) - (a : Int))))

/-- The nearest absolute instant to `now` whose Short Time is `s` (R13, R15). -/
def unshort (now s : Nat) : Nat := ((now : Int) + sgn 64 (unsgn 64 ((s : Int) - (now : Int)))).toNat

/-- TU in a nanosecond (R11). -/
def nsTU : Nat := 65536
/-- TU in a microsecond. -/
def usTU : Nat := 65536000
/-- TU in a second. -/
def secTU : Nat := 65536 * 1000000000

/-- Words 0 to 2 of the Full Time of an instant (R12). -/
def fullTime (t : Nat) : List Nat :=
  let s := t / secTU
  let ns := t % secTU / 65536
  let fr := t % 65536
  let v := fr + ns * 2 ^ 16 + (s % 2 ^ 48) * 2 ^ 48
  [v % 2 ^ 32, v / 2 ^ 32 % 2 ^ 32, v / 2 ^ 64 % 2 ^ 32]

/-- The instant a Full Time value names (R12). -/
def ofFullTime (w0 w1 w2 : Nat) : Nat :=
  let v := w0 + w1 * 2 ^ 32 + w2 * 2 ^ 64
  (v / 2 ^ 48) * secTU + (v / 2 ^ 16 % 2 ^ 32) * 65536 + v % 2 ^ 16

/-- The nanosecond field of Full Time words. -/
def fullNs (w0 w1 : Nat) : Nat := w0 / 2 ^ 16 + w1 % 2 ^ 16 * 2 ^ 16

/-- Set bit `k` of a mask number. -/
def setBit (n k : Nat) : Nat := n ||| 2 ^ k
/-- Clear bit `k` of a mask number. -/
def clrBit (n k : Nat) : Nat := if n.testBit k then n - 2 ^ k else n

/-! ## Register words -/

/-- The kind of page that holds a BAR0 address (R157, R158). -/
def pageOf (a : Nat) : PageKind :=
  if a < 0x10000 then (if a < 0xF000 then .house (a / 0x1000) else .none)
  else if a < 0x18000 then .au ((a - 0x10000) / 0x1000)
  else if a < 0x20000 then .none
  else if a < 0x24000 then .zyn ((a - 0x20000) / 0x1000)
  else if a < 0x30000 then .none
  else if a < 0x36000 then .house (16 + (a - 0x30000) / 0x1000)
  else if a < 0x40000 then .none
  else if a < 0x50000 then .hras ((a - 0x40000) / 0x1000)
  else if a < 0x100000 then .none
  else if a < 0x500000 then
    let q := (a - 0x100000) / 0x100000
    let o := a % 0x100000
    if o < 0x1000 then .qcfg q
    else if o < 0x2000 then .qirq q
    else if o < 0x10000 then .none
    else if o < 0x20000 then .port (4 * q + (o - 0x10000) / 0x4000) ((o - 0x10000) % 0x4000 / 0x1000)
    else if o < 0x28000 then .dma (8 * q + (o - 0x20000) / 0x1000)
    else if o < 0x30000 then .none
    else if o < 0x34000 then .cvu (4 * q + (o - 0x30000) / 0x1000)
    else if o < 0x40000 then .none
    else if o < 0x44000 then .qmem q ((o - 0x40000) / 0x1000)
    else if o < 0x50000 then .none
    else if o < 0x52000 then .qpool q ((o - 0x50000) / 0x1000)
    else .none
  else if a < 0x1000000 then .none
  else if a < 0x2040000 then
    let T := (a - 0x1000000) / 0x10000
    let j := a % 0x10000 / 0x1000
    if j = 0 then .teng T else if j = 1 then .tirq T else if j = 2 then .ttmr T else if j = 3 then .tpan T
    else if T < 256 then .fch T j else .pch (T - 256) j
  else if a < 0x3000000 then .none
  else if a < 0x3400000 then .room ((a - 0x3000000) / 0x4000) (a % 0x4000 / 0x1000)
  else if a < 0x4000000 then .none
  else if a < 0x8000000 then .window
  else .none

/-- The registers of a page kind beyond the common header; `eg` selects the egress layout of an FCH page (R161). -/
def descsOf (eg : Bool) : PageKind → List RDesc
  | .house 0 => regsHCFG | .house 1 => regsHTIM | .house 2 => regsHSRC | .house 3 => regsHPTP | .house 4 => regsHCAP
  | .house 5 => regsHREF | .house 6 => regsHEPC | .house 7 => regsHRING | .house 8 => regsHSNP | .house 9 => regsHCOM
  | .house 10 => regsHOWN | .house 11 => regsHPCI | .house 12 => regsHSVC | .house 13 => regsHIRQ
  | .house 14 => regsHLFL | .house 16 => regsHCLK | .house 17 => regsHPWR | .house 18 => regsHGOV
  | .house 19 => regsHRST | .house 20 => regsHBOOT | .house 21 => regsHOTP | .house _ => []
  | .au _ => regsAU
  | .zyn 0 => regsZYN0 | .zyn 1 => regsZYN1 | .zyn 2 => regsZYN2 | .zyn 3 => regsZYN3 | .zyn _ => []
  | .hras j => if j < 5 then regsHRAS04 else if j < 7 then regsHRAS56 else if j = 7 then regsHRAS7
      else if j = 8 then regsHRAS8 else []
  | .qirq _ => regsQIRQ
  | .port _ 0 => regsPRT0 | .port _ 1 => regsPRT1 | .port _ 2 => regsPRT2 | .port _ 3 => regsPRT3 | .port _ _ => []
  | .dma _ => regsDMA | .cvu _ => regsCVU
  | .qmem _ j => if j = 0 then regsQMEM else regsQMEM.take 1
  | .qpool _ _ => regsQPOOL
  | .teng _ => regsTENG | .tirq _ => regsTIRQ | .ttmr _ => regsTTMR | .tpan _ => regsTPAN
  | .fch _ _ => if eg then regsFCHE ++ regsFCH else regsFCH
  | .pch _ j => if j = 15 then regsPCH15 else regsPCH
  | .room _ 0 => regsROOM0 | .room _ 1 => regsROOM1 | .room _ 2 => regsROOM2 | .room _ _ => []
  | _ => []

/-- The indices of an offset within a register's instances, if it is one of them. -/
def strideIdx : List (Nat × Nat) → Nat → Option (List Nat)
  | [], d => if d = 0 then some [] else none
  | (n, s) :: t, d => if d / s < n then (strideIdx t (d % s)).map (fun l => d / s :: l) else none

/-- The register at an offset of a page, with its instance indices. -/
def findDesc : List RDesc → Nat → Option (RDesc × List Nat)
  | [], _ => none
  | r :: t, off =>
    if r.off ≤ off then
      match strideIdx r.st (off - r.off) with
      | some ix => some (r, ix)
      | none => findDesc t off
    else findDesc t off

/-- Whether a page has the instance of a register: its other offsets are reserved (R22). FCH page 15 holds slots 0 to 6 (R160),
PCH page 14 slots 0 to 3 (R220), a pin tile 64 channels and the protection IDs R493 names, HRAS page 4 tiles up to 259 (R342). -/
def hasInstance (pk : PageKind) (id : RegId) (i : Nat) : Bool :=
  match pk, id with
  | .tirq T, .TIRQ_CH => decide (T < 256) || decide (i < 64)
  | .tirq T, .TIRQ_PR => decide (256 ≤ T) && (decide (i < 12) || (decide (16 ≤ i) && decide (i ≤ 32)))
  | .tirq _, _ => true
  | .fch _ j, _ => decide (11 * (j - 4) + i < 128)
  | .pch _ j, _ => decide (15 ≤ j) || decide (6 * (j - 4) + i < 64)
  | .hras j, .HRAS_SHA | .hras j, .HRAS_SHB => decide (62 * j + i < 260)
  | _, _ => true

/-- The bits EV_STAT, EV_EN and EV_FORCE of a page have: one for each slot of a channel page (R161, R221), for each trip, the tile, each axis and
group of page 15 (R287); the others are reserved (R22). -/
def evBits : PageKind → Nat
  | .fch _ j => 2 ^ min 11 (128 - 11 * (j - 4)) - 1
  | .pch _ j => if j = 15 then 0xFFFFFF1F else 2 ^ min 6 (64 - 6 * (j - 4)) - 1
  | _ => 2 ^ 32 - 1

/-- The register at an address: the header of every page (R154), or the page's own. -/
def descAt (eg : Bool) (a : Nat) : Option (RDesc × List Nat) :=
  let pk := pageOf a
  if pk = .none ∨ pk = .window then none
  else match findDesc regsEVERY (a % 0x1000) with
    | some r => some r
    | none => (findDesc (descsOf eg pk) (a % 0x1000)).filter (fun r => hasInstance pk r.1.id (r.2.headD 0))

/-- The reset value of a word (R24): that of its register table, 0 elsewhere (R22). -/
def resetWord (eg : Bool) (a : Nat) : Word :=
  match descAt eg a with
  | some (r, _) => BitVec.ofNat 32 r.rst
  | none => 0

/-- The staged word at an address. -/
def Dev.stg (d : Dev) (a : Nat) : Word := (Tab.get? d.regs.staged a).getD (resetWord false a)

/-- The live word whose staged address is `a`. -/
def Dev.lvW (d : Dev) (a : Nat) : Word := (Tab.get? d.regs.live a).getD (resetWord false a)

/-- A field of a live word. -/
def Dev.lv (d : Dev) (a : Nat) (f : Fld) : Nat := fget (d.lvW a) f

/-- A live word of the egress layout of a channel block (R183). -/
def Dev.lvWE (d : Dev) (a : Nat) : Word := (Tab.get? d.regs.live a).getD (resetWord true a)

/-- A field of the egress layout. -/
def Dev.lvE (d : Dev) (a : Nat) (f : Fld) : Nat := fget (d.lvWE a) f

/-- A field of a live word as a flag. -/
def Dev.lvb (d : Dev) (a : Nat) (f : Fld) : Bool := d.lv a f != 0

/-- The instant from which stamps belong to the epoch in progress (R35, R58, R92): the last boundary, lowered by a backward
step since. -/
def Dev.bndLow (d : Dev) : Nat := match d.sq.marks with | m :: _ => m.low | [] => 0

/-- The word in force at a stamp: the retiring bank for a stamp before the last boundary while it is kept (R92). -/
def Dev.lvAt (d : Dev) (stamp a : Nat) (f : Fld) : Nat :=
  match d.regs.retiring with
  | some bank => if stamp < d.bndLow then fget ((Tab.get? bank a).getD (resetWord false a)) f else d.lv a f
  | none => d.lv a f

/-- An immediate word. -/
def Dev.immW (d : Dev) (a : Nat) : Word := (Tab.get? d.regs.imm a).getD (resetWord false a)

/-- A field of an immediate word. -/
def Dev.im (d : Dev) (a : Nat) (f : Fld) : Nat := fget (d.immW a) f

def Dev.imb (d : Dev) (a : Nat) (f : Fld) : Bool := d.im a f != 0

/-- Sets an immediate word. -/
def Dev.setImmW (d : Dev) (a : Nat) (v : Word) : Dev :=
  { d with regs := { d.regs with imm := Tab.set d.regs.imm a v } }

/-- Sets a field of an immediate word. -/
def Dev.setIm (d : Dev) (a : Nat) (f : Fld) (v : Nat) : Dev := d.setImmW a (fput (d.immW a) f v)

/-- Adds to a saturating field of an immediate word (R23). -/
def Dev.incIm (d : Dev) (a : Nat) (f : Fld) (n : Nat) : Dev := d.setIm a f (sat f.w (d.im a f + n))

/-- A master's own instance of a word (R113, R145); reader 8 is an engine (R321). -/
def Dev.perW (d : Dev) (a m : Nat) : Word := (Tab.get? d.regs.per (1024 * a + m)).getD (resetWord false a)

def Dev.per (d : Dev) (a m : Nat) (f : Fld) : Nat := fget (d.perW a m) f

def Dev.setPerW (d : Dev) (a m : Nat) (v : Word) : Dev :=
  { d with regs := { d.regs with per := Tab.set d.regs.per (1024 * a + m) v } }

def Dev.setPer (d : Dev) (a m : Nat) (f : Fld) (v : Nat) : Dev := d.setPerW a m (fput (d.perW a m) f v)

/-- Loads a latch of successive per-master words (R55, R75, R81, R244, R383). -/
def Dev.setLatch (d : Dev) (a m : Nat) : List Nat → Dev
  | [] => d
  | v :: t => (d.setPerW a m (BitVec.ofNat 32 v)).setLatch (a + 4) m t

/-- Counts an error of a page (R154). -/
def Dev.err (d : Dev) (page : Nat) : Dev := d.incIm (A.ERR_CNT page) F.ERR_CNT_COUNT 1

/-- The page base of an address. -/
def pageBase (a : Nat) : Nat := a / 0x1000 * 0x1000

/-! ## The clock -/

/-- The counter in TU (R51, R52): what it counted at the last cycle, or the instant reached since. -/
def Dev.now (d : Dev) : Nat := max (d.h.ctr / 65536) d.h.atTU

/-- The counter as Short Time (R13). -/
def shortOf (t : Nat) : Nat := t % 2 ^ 64

/-- Division rounded to nearest, ties to even (R51), of a signed number by a positive one. -/
def roundEven (n : Int) (m : Nat) : Int :=
  let q := n / (m : Int)
  let r := 2 * (n % (m : Int))
  if r < (m : Int) then q else if r = (m : Int) then (if q % 2 = 0 then q else q + 1) else q + 1

/-- The counter's increment per TPLL cycle in 2^-16 TU for a trim in 2^-8 ppb and a slew in ppm (R51, R59, R61):
2^32 × (1 + y) with y = (trim + slew × 256,000) / (256 × 10^9). -/
def incrementFor (trim : Int) (slewPpm : Int) : Nat :=
  (2 ^ 32 + roundEven (2 ^ 32 * (trim + slewPpm * 256000)) 256000000000).toNat

/-- The trim in force. -/
def Dev.ftrim (d : Dev) : Int := sgn 32 (d.im A.HTIM_FTRIM F.HTIM_FTRIM_FTRIM)

/-- The slew in force, signed ppm; none once d has been absorbed. -/
def Dev.slewPpm (d : Dev) : Int :=
  match d.h.slew with
  | some s => if 0 < s.rem then (s.rate : Int) else if s.rem < 0 then -(s.rate : Int) else 0
  | none => 0

/-- The increment without a slew. -/
def Dev.plainInc (d : Dev) : Nat := incrementFor d.ftrim 0

/-- The increment in force (R51). -/
def Dev.increment (d : Dev) : Nat := incrementFor d.ftrim d.slewPpm

/-- What one cycle absorbs of a slew: the increment with it less the increment without (R51). -/
def Dev.slewStep (d : Dev) : Int := (d.increment : Int) - (d.plainInc : Int)

/-- The cycles a slew still runs before its final one, which adds the remainder of d (R59). -/
def Dev.slewCycles (d : Dev) (s : Slew) : Nat := (s.rem.natAbs - 1) / max d.slewStep.natAbs 1

/-- `k` TPLL cycles pass: the count adds each increment exactly, and a slew absorbs its share until d has been absorbed
(R51, R59). -/
def Dev.cycles (d : Dev) (k : Nat) : Dev :=
  let h := { d.h with cycle := d.h.cycle + k }
  match d.h.slew with
  | none => { d with h := { h with ctr := h.ctr + k * d.plainInc } }
  | some s =>
    if s.rem = 0 ∨ d.slewCycles s < k then
      { d with h := { h with ctr := ((h.ctr : Int) + (k * d.plainInc : Nat) + s.rem).toNat, slew := some { s with rem := 0 } } }
    else { d with h := { h with ctr := h.ctr + k * d.increment, slew := some { s with rem := s.rem - d.slewStep * (k : Int) } } }

/-- The cycles that pass before the counter stands at or before `t` for the last time. -/
def Dev.cyclesTo (d : Dev) (t : Nat) : Nat :=
  let gap (c inc : Nat) : Nat := (t * 65536 - c) / max inc 1
  match d.h.slew with
  | none => gap d.h.ctr d.plainInc
  | some s =>
    let n := d.slewCycles s
    let k := gap d.h.ctr d.increment
    if s.rem = 0 then gap d.h.ctr d.plainInc
    else if k ≤ n then k
    else
      let c := (d.cycles (n + 1)).h.ctr
      if t * 65536 < c then n else n + 1 + gap c d.plainInc

/-- Lets the counter run to an instant that lies ahead: whole cycles pass, and the instant is reached within the last of them,
as a TDC or an interpolator has it (R52). -/
def Dev.advanceTo (d : Dev) (t : Nat) : Dev :=
  if t ≤ d.now then d
  else
    let e := d.cycles (d.cyclesTo t)
    { e with h := { e.h with atTU := t } }

/-- Lets the counter run to a TPLL cycle that lies ahead (R148). -/
def Dev.advanceCycle (d : Dev) (c : Nat) : Dev := if c ≤ d.h.cycle then d else d.cycles (c - d.h.cycle)

/-- One TPLL cycle (R51): the whole of what the clock does when no command waits (DESIGN CHOICE, log entry 1). -/
def Dev.tick (d : Dev) : Dev := d.cycles 1

/-- The device takes no command: it is held in reset (R459, R484) or in DEEP SLEEP (R447). -/
def Dev.halted (d : Dev) : Bool := d.pwr.inReset || d.pwr.st == .deep

/-- What passes when no command waits: one TPLL cycle, or nothing while the device is halted (DESIGN CHOICE, log entry 1). -/
def Dev.idle (d : Dev) : Dev := if d.halted then d else d.tick

/-- The next whole multiple of `unit` TU strictly after `t`. -/
def nextWhole (unit t : Nat) : Nat := (t / unit + 1) * unit

/-! ## Memory -/

/-- The byte at an address: an unlisted one reads 0 (log entry 3). -/
def cellGet : List Host.Cell → Nat → Byte
  | [], _ => 0
  | (k, v) :: t, a => if a = k then v else cellGet t a

/-- Writes one byte, keeping the addresses rising and no zero byte listed. -/
def cellSet : List Host.Cell → Nat → Byte → List Host.Cell
  | [], a, v => if v = 0 then [] else [(a, v)]
  | (k, w) :: t, a, v =>
    if a < k then (if v = 0 then (k, w) :: t else (a, v) :: (k, w) :: t)
    else if a = k then (if v = 0 then t else (a, v) :: t)
    else (k, w) :: cellSet t a v

/-- Zeroes a range: drops its cells. -/
def cellZero (m : List Host.Cell) (a n : Nat) : List Host.Cell := m.filter (fun c => !(decide (a ≤ c.1) && decide (c.1 < a + n)))

/-- Writes successive bytes. -/
def cellPut : List Host.Cell → Nat → List Byte → List Host.Cell
  | m, _, [] => m
  | m, a, b :: t => cellPut (cellSet m a b) (a + 1) t

/-- One write to a memory: the only ways a memory changes. -/
inductive MemOp where
  | store (a : Nat) (bs : List Byte)
  | pantry (T p : Nat) (bs : List Byte)
  | zeroStore (a n : Nat)
  | zeroPantry (T p n : Nat)
  | clear
deriving DecidableEq, Repr

/-- The key of pantry byte `p` of tile `T`. -/
def panKey (T p : Nat) : Nat := T * 2 ^ 18 + p

/-- Carries out one memory write. -/
def Mem.run1 (m : Mem) : MemOp → Mem
  | .store a bs => { m with store := cellPut m.store a bs }
  | .pantry T p bs => { m with pantry := cellPut m.pantry (panKey T p) bs }
  | .zeroStore a n => { m with store := cellZero m.store a n }
  | .zeroPantry T p n => { m with pantry := cellZero m.pantry (panKey T p) n }
  | .clear => {}

/-- Carries out memory writes in order. -/
def Mem.run (m : Mem) (ops : List MemOp) : Mem := ops.foldl Mem.run1 m

/-- Byte `a` of the media store. -/
def Mem.byte (m : Mem) (a : Nat) : Byte := cellGet m.store a
/-- Byte `p` of tile `T`'s pantry. -/
def Mem.pbyte (m : Mem) (T p : Nat) : Byte := cellGet m.pantry (panKey T p)

/-- `n` bytes of the media store. -/
def Mem.bytes (m : Mem) (a n : Nat) : List Byte := (List.range n).map (fun i => m.byte (a + i))
/-- `n` bytes of a pantry. -/
def Mem.pbytes (m : Mem) (T p n : Nat) : List Byte := (List.range n).map (fun i => m.pbyte T (p + i))

/-- The number little-endian bytes hold. -/
def leNat : List Byte → Nat
  | [] => 0
  | b :: t => b.toNat + 256 * leNat t

/-- The number big-endian bytes hold. -/
def beNat (l : List Byte) : Nat := leNat l.reverse

/-- `n` little-endian bytes of a number. -/
def leBytes : Nat → Nat → List Byte
  | 0, _ => []
  | n + 1, v => BitVec.ofNat 8 v :: leBytes n (v / 256)

/-- `n` big-endian bytes of a number. -/
def beBytes (n v : Nat) : List Byte := (leBytes n v).reverse

/-- The memory is in canonical form: addresses strictly rising, no zero byte listed. -/
def cellsOk : List Host.Cell → Bool
  | [] => true
  | [c] => decide (c.2 ≠ 0)
  | c :: c' :: t => decide (c.2 ≠ 0) && decide (c.1 < c'.1) && cellsOk (c' :: t)

/-- Both memories are canonical. -/
def Mem.wf (m : Mem) : Bool := cellsOk m.store && cellsOk m.pantry

/-! ## Check values (R398) -/

/-- Width, polynomial, initial value, reflected, final XOR of each polynomial code. -/
def crcParams : Nat → Nat × Nat × Nat × Bool × Nat
  | 0 => (32, 0x04C11DB7, 0xFFFFFFFF, true, 0xFFFFFFFF)
  | 1 => (32, 0x1EDC6F41, 0xFFFFFFFF, true, 0xFFFFFFFF)
  | 2 => (16, 0x1021, 0xFFFF, false, 0)
  | _ => (64, 0x42F0E1EBA9EA3693, 0, false, 0)

/-- The low `n` bits in reverse order. -/
def revBits : Nat → Nat → Nat
  | 0, _ => 0
  | n + 1, v => v % 2 * 2 ^ n + revBits n (v / 2)

/-- `k` shifts of a check register of `w` bits. -/
def crcShift (w poly : Nat) : Nat → Nat → Nat
  | 0, r => r
  | k + 1, r =>
    let r2 := r * 2 % 2 ^ w
    crcShift w poly k (if r.testBit (w - 1) then r2 ^^^ poly else r2)

/-- One byte into a check register. -/
def crcByte (code r : Nat) (b : Byte) : Nat :=
  let p := crcParams code
  let v := if p.2.2.2.1 then revBits 8 b.toNat else b.toNat
  crcShift p.1 p.2.1 8 (r ^^^ v * 2 ^ (p.1 - 8))

/-- The initial check register. -/
def crcInit (code : Nat) : Nat := (crcParams code).2.2.1

/-- The check value a register stands for. -/
def crcOut (code r : Nat) : Nat :=
  let p := crcParams code
  (if p.2.2.2.1 then revBits p.1 r else r) ^^^ p.2.2.2.2

/-- The register after bytes. -/
def crcRun (code r : Nat) (bs : List Byte) : Nat := bs.foldl (crcByte code) r

/-- The check value of bytes. -/
def crcOf (code : Nat) (bs : List Byte) : Nat := crcOut code (crcRun code (crcInit code) bs)

/-! ## Octets -/

def byteAt (bs : List Byte) (o : Nat) : Nat := (bs.getD o 0).toNat

/-- Replaces bytes at an offset. -/
def putBytes (bs : List Byte) (o : Nat) (v : List Byte) : List Byte := bs.take o ++ v ++ bs.drop (o + v.length)

/-! ## Meanings as steps -/

abbrev Res := Host.Outcome State Fault Refusal

/-- A meaning that changes the device and no memory. A device held in reset or in DEEP SLEEP takes no command
(R447, R459, R484). -/
def onDev (f : Dev → Dev) (s : State) : Res :=
  if s.dev.halted then .next s else .next { s with dev := f s.dev }

/-- A meaning of a level at a ball: a halted device takes the level and does nothing else with it (DESIGN CHOICE, log entry 92). -/
def onLevel (f g : Dev → Dev) (s : State) : Res := .next { s with dev := if s.dev.halted then g s.dev else f s.dev }

/-- A meaning that also reads the memories and writes them, by memory writes carried out in order. -/
def onMem (f : Dev → Mem → Dev × List MemOp) (s : State) : Res :=
  if s.dev.halted then .next s
  else .next { s with dev := (f s.dev s.mem).1, mem := s.mem.run (f s.dev s.mem).2 }

/-- A meaning of the reset, supply and wake family, which acts on a halted device too. -/
def onAny (f : Dev → Mem → Dev × List MemOp) (s : State) : Res :=
  .next { s with dev := (f s.dev s.mem).1, mem := s.mem.run (f s.dev s.mem).2 }

/-- Logs an output. -/
def Dev.emit (d : Dev) (o : Output) : Dev := { d with out := o :: d.out }

/-- Draws a fresh free value (log entry 2). -/
def Dev.fresh (d : Dev) : BitVec 64 × Dev := (Config.freeValue d.free, { d with free := d.free + 1 })

end Sys2Proof.Machine
end

