-- ==== Sys2Proof/Machine/Holders.lean ====
section
/-! DEFINITION. Who holds what: rooms' shares and resources under an assignment, the domain of every register, the
ownership test (chapters on rooms and on control ports). -/
namespace Sys2Proof.Machine

/-- A reading of the settings by staged address: the live bank, a pending bank over it, a landing. -/
abbrev View := Nat → Word

/-- A field under a view. -/
def View.f (w : View) (a : Nat) (f : Fld) : Nat := fget (w a) f
/-- A flag under a view. -/
def View.b (w : View) (a : Nat) (f : Fld) : Bool := fget (w a) f != 0

/-- The house's domain number (R109). -/
def houseDom : Nat := 0x100

/-- The live settings. -/
def Dev.live (d : Dev) : View := d.lvW

/-- The settings in force before the last boundary while the retiring bank is kept (R92). -/
def Dev.retView (d : Dev) : View :=
  match d.regs.retiring with
  | some bank => fun a => (Tab.get? bank a).getD (resetWord false a)
  | none => d.lvW

/-- The settings in force at a stamp (R92). -/
def Dev.viewAt (d : Dev) (stamp : Nat) : View := if stamp < d.bndLow then d.retView else d.live

/-- The live settings with a domain's pending bank laid over them. -/
def Dev.pendView (d : Dev) (dom : Nat) : View :=
  match Tab.get? d.regs.pending dom with
  | some bank => fun a => match Tab.get? bank a with | some w => w | none => d.lvW a
  | none => d.lvW

/-- One enabled share of a tile (R342). -/
structure Share where
  s : Nat
  room : Nat
  k0 : Nat
  kn : Nat
  dpw : Nat
  budget : Nat
deriving DecidableEq, Repr

/-- Share `s` of tile `T`, if it is enabled. -/
def shareAt (w : View) (T s : Nat) : Option Share :=
  let a := A.HRAS_SHA T s
  if w.b a F.HRAS_SHA_EN then
    some ⟨s, w.f a F.HRAS_SHA_ROOM, w.f a F.HRAS_SHA_K0, w.f a F.HRAS_SHA_KN, w.f a F.HRAS_SHA_DPW,
      w.f (A.HRAS_SHB T s) F.HRAS_SHB_BUDGET⟩
  else none

/-- The enabled shares of a tile. -/
def sharesOf (w : View) (T : Nat) : List Share := [0, 1, 2, 3].filterMap (shareAt w T)

/-- Channels of a tile: 128 on a flow tile, 64 on a pin tile. -/
def chansOf (T : Nat) : Nat := if T < 256 then 128 else 64

/-- The domain that holds channel `k` of tile `T` (R341). -/
def chanHolder (w : View) (T k : Nat) : Nat :=
  match (sharesOf w T).find? (fun s => decide (s.k0 ≤ k) && decide (k < s.k0 + s.kn)) with
  | some s => s.room
  | none => houseDom

def fcHolder (w : View) (fc : Nat) : Nat := chanHolder w (fc / 128) (fc % 128)
def pcHolder (w : View) (pc : Nat) : Nat := chanHolder w (256 + pc / 64) (pc % 64)

/-- The room that holds the whole tile, otherwise the house (R342, R140). -/
def wholeHolder (w : View) (T : Nat) : Nat :=
  match sharesOf w T with
  | [s] => if s.k0 = 0 ∧ chansOf T ≤ s.kn then s.room else houseDom
  | _ => houseDom

/-- The room's share of a tile, if it has one. -/
def roomShare (w : View) (T r : Nat) : Option Share := (sharesOf w T).find? (fun s => s.room == r)

/-- The holder of entry `e` of HRAS_RES (R341). -/
def resHolder (w : View) (e : Nat) : Nat :=
  let a := A.HRAS_RES (e / 2)
  if e % 2 = 0 then (if w.b a F.HRAS_RES_EN0 then w.f a F.HRAS_RES_ROOM0 else houseDom)
  else if w.b a F.HRAS_RES_EN1 then w.f a F.HRAS_RES_ROOM1 else houseDom

def tripHolder (w : View) (i : Nat) : Nat := resHolder w i
def axisHolder (w : View) (a : Nat) : Nat := resHolder w (16 + a)
def grpHolder (w : View) (g : Nat) : Nat := resHolder w (48 + g)
def auHolder (w : View) (u : Nat) : Nat := resHolder w (112 + u)
def dmaHolder (w : View) (c : Nat) : Nat := resHolder w (120 + c)
def cvuHolder (w : View) (c : Nat) : Nat := resHolder w (152 + c)

/-- The holder of protection ID 0x2040 + `i` of pin tile `q` (R493, R287). -/
def protHolder (w : View) (q i : Nat) : Nat :=
  if i < 4 then tripHolder w (4 * q + i)
  else if i < 12 then axisHolder w (8 * q + (i - 4))
  else if 16 ≤ i ∧ i < 32 then grpHolder w (16 * q + (i - 16))
  else wholeHolder w (256 + q)

/-- To whom a register belongs (R140): to no domain, to each master its own instance (R145), to one domain, or bit by
bit to several (R141). -/
inductive RegDom where
  | none
  | own
  | dom (x : Nat)
  | bits
deriving DecidableEq, Repr

/-- The domain of a page's header registers. -/
def headerDom (w : View) : PageKind → Nat
  | .au u => auHolder w u
  | .dma c => dmaHolder w c
  | .cvu c => cvuHolder w c
  | .teng T | .tirq T | .ttmr T | .tpan T | .fch T _ => wholeHolder w T
  | .pch q _ => wholeHolder w (256 + q)
  | .room r _ => r
  | _ => houseDom

/-- The per-master registers of R113, R145 and R371. -/
def perMaster : RegId → Bool
  | .HCOM_TARGET | .HCOM_CMD | .HCOM_DSEL | .HCOM_MYSTAT | .HSNP_PIN | .HSNP_PINEPOCH | .HSNP_STRADDLE
  | .HOWN_REQ | .HOWN_MYSTAT | .HOWN_DSEL | .TPAN_PADDR | .TPAN_PDATA0 | .TPAN_PDATA1
  | .ZYN_MADDR | .ZYN_MDATA | .ZYN_MGO | .ZYN_MSTAT | .ZYN_MRDATA => true
  | _ => false

/-- The flow channel of a slot of an FCH page (R160). -/
def fcOfSlot (T j s : Nat) : Nat := 128 * T + 11 * (j - 4) + s
/-- The pin channel of a slot of a PCH page (R220). -/
def pcOfSlot (q j s : Nat) : Nat := 64 * q + 6 * (j - 4) + s

/-- The domain of bit `k` of EV_STAT, EV_EN or EV_FORCE of a page (R141). -/
def bitDom (w : View) (pk : PageKind) (k : Nat) : Nat :=
  match pk with
  | .fch T j => if k < 11 ∧ 11 * (j - 4) + k < 128 then fcHolder w (fcOfSlot T j k) else headerDom w pk
  | .pch q j =>
    if j < 15 then (if k < 6 ∧ 6 * (j - 4) + k < 64 then pcHolder w (pcOfSlot q j k) else headerDom w pk)
    else if k < 4 then tripHolder w (4 * q + k)
    else if 8 ≤ k ∧ k < 16 then axisHolder w (8 * q + (k - 8))
    else if 16 ≤ k then grpHolder w (16 * q + (k - 16))
    else headerDom w pk
  | _ => headerDom w pk

/-- Whether the header's event registers of a page are divided among domains. -/
def dividedBits : PageKind → Bool
  | .fch _ _ | .pch _ _ => true
  | _ => false

/-- To whom the register with identifier `id` and instance `ix` on a page belongs (R140, R141, R145, R161, R221, R256,
R288, R373, R390, R397, R493). -/
def domOfId (w : View) (pk : PageKind) (id : RegId) (ix : List Nat) : RegDom :=
  if perMaster id then .own
  else match id with
  | .EV_STAT | .EV_EN | .EV_FORCE => if dividedBits pk then .bits else .dom (headerDom w pk)
  | .PG_ID | .PG_REV | .PG_STATE | .PG_CTRL | .ERR_CNT | .OWNER_VIEW | .LH_EPOCH | .LH_COMMIT | .LH_ASSIGN =>
    .dom (headerDom w pk)
  | .HOWN_ALIVE | .QIRQ_DOM | .HIRQ_DOM => .dom (ix.headD 0)
  | .TIRQ_CH => match pk with | .tirq T => .dom (chanHolder w T (ix.headD 0)) | _ => .none
  | .TIRQ_PR => match pk with | .tirq T => .dom (protHolder w (T - 256) (ix.headD 0)) | _ => .none
  | .TRIP_CFG | .TRIP_BLK | .TRIP_MASK | .TRIP_CTL | .TRIP_CNT =>
    match pk with | .pch q _ => .dom (tripHolder w (4 * q + ix.headD 0)) | _ => .none
  | .AX_PINS | .AX_OPT | .AX_PHOME | .AX_HMAX | .AX_HPOS | .AX_TIME | .AX_DRV | .AX_STEPS | .AX_PCRU | .AX_PSTA
  | .AX_T | .AX_CMD | .AX_STAT | .AX_POS =>
    match pk with | .pch q _ => .dom (axisHolder w (8 * q + ix.headD 0)) | _ => .none
  | .GRP_CFG | .GRP_MEM | .GRP_HOLDP | .GRP_STAT =>
    match pk with | .pch q _ => .dom (grpHolder w (16 * q + ix.headD 0)) | _ => .none
  | _ => match pk with
    | .fch T j => .dom (fcHolder w (fcOfSlot T j (ix.headD 0)))
    | .pch q j => .dom (pcHolder w (pcOfSlot q j (ix.headD 0)))
    | .none | .window => .none
    | pk => .dom (headerDom w pk)

/-- Which layout a channel block's words have: the egress one while the staged DIR is EGRESS (R161). -/
def Dev.egress (d : Dev) (a : Nat) : Bool :=
  match pageOf a with
  | .fch T j =>
    let s := (a % 0x800 - 0x40) / 0xB0
    fget (d.stg (A.FCH_MODE (fcOfSlot T j s))) F.FCH_MODE_DIR == 2
  | _ => false

/-- The page whose header names a staged address: the staged half of a live copy's address. -/
def stagedOf (a : Nat) : Nat := if a % 0x1000 < 0x800 then a else a - 0x800

/-- To whom the register at an address belongs under a view; a live copy goes with its staged word. -/
def domOfAddr (d : Dev) (w : View) (a : Nat) : RegDom :=
  match descAt (d.egress a) a with
  | some (r, ix) => domOfId w (pageOf a) r.id ix
  | none => match descAt (d.egress a) (stagedOf a) with
    | some (r, ix) => if r.rws ≠ 0 then domOfId w (pageOf a) r.id ix else .none
    | none => .none

/-- The state of the house's pending commit lets its assignment count (R142). -/
def Dev.houseMoves (d : Dev) : Bool :=
  match (Tab.get d.sq.commits {} houseDom).st with
  | .checked | .agreeing | .locked => true
  | _ => false

/-- The assignments under which an ownership check looks: the live one and the house's pending one (R142). -/
def Dev.assigns (d : Dev) : List View := if d.houseMoves then [d.live, d.pendView houseDom] else [d.live]

/-- The owner of a domain, if it has one (R152). -/
def Dev.ownerOf (d : Dev) (dom : Nat) : Option Nat :=
  let o := Tab.get d.own {} dom
  match o.st with
  | .owned | .offered => some o.owner
  | _ => none

/-- Master `m` owns domain `dom`. -/
def Dev.owns (d : Dev) (m dom : Nat) : Bool := d.ownerOf dom == some m

/-- Master `m` owns the domain of a register under some assignment that counts (R142). -/
def Dev.ownsReg (d : Dev) (m a : Nat) : Bool :=
  d.assigns.any (fun w => match domOfAddr d w a with | .dom x => d.owns m x | .own => true | _ => false)

/-- Master `m` owns bit `k` of a divided event register (R141). -/
def Dev.ownsBit (d : Dev) (m : Nat) (pk : PageKind) (k : Nat) : Bool := d.assigns.any (fun w => d.owns m (bitDom w pk k))

/-- The holder of a bank: a domain, or 0x1FF while it is scrubbed or under a destructive test (R364, R372). -/
def Dev.bankHolder (d : Dev) (b : Nat) : Nat := (Tab.get d.banks {} b).holder

/-- Master `m` qualifies for a bank (R134). -/
def Dev.qualifies (d : Dev) (m b : Nat) : Bool :=
  let h := d.bankHolder b
  if h < 0x100 then d.owns m h else if h = houseDom then d.owns m houseDom else false

/-- The domains whose registers a page holds. -/
def pageDoms (w : View) (pk : PageKind) : List Nat :=
  match pk with
  | .fch T j => headerDom w pk :: (List.range 11).filterMap (fun s => if 11 * (j - 4) + s < 128 then some (fcHolder w (fcOfSlot T j s)) else none)
  | .pch q 15 => headerDom w pk :: (List.range 32).map (protHolder w q)
  | .pch q j => headerDom w pk :: (List.range 6).filterMap (fun s => if 6 * (j - 4) + s < 64 then some (pcHolder w (pcOfSlot q j s)) else none)
  | .tirq T => headerDom w pk :: (List.range (chansOf T)).map (chanHolder w T) ++
      (if 256 ≤ T then (List.range 33).map (protHolder w (T - 256)) else [])
  | .house 10 | .house 13 | .qirq _ => [houseDom, 0]
  | pk => [headerDom w pk]

/-- The domain OWNER_VIEW and LH_ASSIGN show for a page: 0x1FF for several. -/
def pageDom (w : View) (pk : PageKind) : Nat :=
  match pageDoms w pk with
  | x :: t => if t.all (· == x) then x else 0x1FF
  | [] => houseDom

/-- The domain of a media-store byte's bank: 0x1FF when none holds it. -/
def bankOfByte (a : Nat) : Nat := a / 2 ^ 18

end Sys2Proof.Machine
end

