-- ==== Sys2Proof/Machine/Records.lean ====
section
/-! DEFINITION. Epoch attribution, the epoch-scoped records and spill (R35, R58, R92-R100). An accumulator of epoch `e`
at slot offset `o` has key e × 2^24 + o; the inner offsets 0x40_0000 + T note which tiles were online throughout. -/
namespace Sys2Proof.Machine

def recHouse : Nat := 0x1000
def recQuad (q : Nat) : Nat := 0x2000 + 0x800 * q
def recTile (T : Nat) : Nat := 0x10000 + 0x400 * T
def recRoom (r : Nat) : Nat := 0x80000 + 0x400 * r
def recAU (u : Nat) : Nat := 0xC0000 + 0x1000 * u
def recPin (pc : Nat) : Nat := 0xD0000 + 0x100 * pc
def recFc (fc : Nat) : Nat := 0x800000 + 0x100 * fc
def recOnline (T : Nat) : Nat := 0x400000 + T

/-- Event IDs of the resources (R42). -/
def fcId (fc : Nat) : Nat := (fc / 8192) * 0x4000 + fc % 8192
def pcId (pc : Nat) : Nat := (pc / 64) * 0x4000 + 0x2000 + pc % 64
def tripId (i : Nat) : Nat := (i / 4) * 0x4000 + 0x2040 + i % 4
def axisId (a : Nat) : Nat := (a / 8) * 0x4000 + 0x2044 + a % 8
def grpId (g : Nat) : Nat := (g / 16) * 0x4000 + 0x2050 + g % 16
def engId (T : Nat) : Nat := if T < 256 then (T / 64) * 0x4000 + 0x2080 + T % 64 else (T - 256) * 0x4000 + 0x20C0
def portId (n j : Nat) : Nat := (n / 4) * 0x4000 + 0x2100 + (n % 4) * 32 + j
def dmaId (c j : Nat) : Nat := (c / 8) * 0x4000 + 0x2180 + (c % 8) * 8 + j
def cvuId (c j : Nat) : Nat := (c / 4) * 0x4000 + 0x21C0 + (c % 4) * 8 + j
def storeId (q j : Nat) : Nat := q * 0x4000 + 0x21E0 + j
def auId (u j : Nat) : Nat := 0x3200 + u * 32 + j

/-- Where an item is published: its record, its spill kind, its source's event ID and its room (R94, R95). -/
structure Src where
  kind : Nat
  base : Nat
  id : Nat
  room : Nat
deriving DecidableEq, Repr

/-- One change of a record word. -/
abbrev RecOp := Nat × (Nat → Nat)

/-- Adds to a whole counter word, saturating. -/
def opAdd (off n : Nat) : RecOp := (off, fun x => sat 32 (x + n))
/-- Adds to a field of a counter word, saturating. -/
def opAddF (off lo w n : Nat) : RecOp :=
  (off, fun x => let v := x / 2 ^ lo % 2 ^ w; x - v * 2 ^ lo + sat w (v + n) * 2 ^ lo)
/-- Keeps the larger. -/
def opMax (off v : Nat) : RecOp := (off, fun x => max x v)
/-- Sets bits. -/
def opOr (off v : Nat) : RecOp := (off, fun x => x ||| v)
/-- Sets the word. -/
def opSet (off v : Nat) : RecOp := (off, fun _ => v % 2 ^ 32)

/-- The epoch in progress when a stamp was taken: the newest begun at or before it, a backward step having lowered the
mark of the epoch it fell in (R35, R58). -/
def Dev.epochAt (d : Dev) (stamp : Nat) : Nat :=
  match d.sq.marks.find? (fun m => decide (m.low ≤ stamp)) with
  | some m => m.num
  | none => 0

/-- The epochs begin where they began: a backward step has lowered no mark. -/
def Dev.rewound (d : Dev) : Dev := { d with sq := { d.sq with marks := d.sq.marks.map (fun m => { m with low := m.beg }) } }

/-- Carries out what has a stamp taken before a backward step, when `old` says so: the stamp belongs to the epoch that was in progress
when it was taken, though the step repeats its value (R58). -/
def Dev.asTaken (d : Dev) (old : Bool) (f : Dev → Dev) : Dev :=
  if old then let r := f d.rewound; { r with sq := { r.sq with marks := d.sq.marks } } else f d

/-- The key of an accumulator. -/
def accKey (e off : Nat) : Nat := e * 2 ^ 24 + off

/-- An accumulator. -/
def Dev.acc (d : Dev) (e off : Nat) : Nat := Tab.get d.sq.acc 0 (accKey e off)

/-- Changes accumulators of an epoch. -/
def Dev.accRun (d : Dev) (e rec : Nat) (ops : List RecOp) : Dev :=
  { d with sq := { d.sq with acc := ops.foldl (fun t o => Tab.upd t 0 (accKey e (rec + o.1)) o.2) d.sq.acc } }

/-- Adds to the spill store, merging items of one source, kind and epoch (R95). -/
def spillMerge : List Spill → Spill → Option (List Spill)
  | [], _ => none
  | x :: t, s =>
    if x.epoch = s.epoch ∧ x.kind = s.kind ∧ x.src = s.src ∧ x.room = s.room then
      some ({ x with count := sat 32 (x.count + s.count), first := min x.first s.first, last := max x.last s.last } :: t)
    else (spillMerge t s).map (fun l => x :: l)

/-- Publishes an item as spill (R94, R95). -/
def Dev.spillItem (d : Dev) (s : Spill) : Dev :=
  match spillMerge d.sq.spill s with
  | some l => { d with sq := { d.sq with spill := l } }
  | none =>
    if d.sq.spill.length < 32768 then { d with sq := { d.sq with spill := d.sq.spill ++ [s] } }
    else { d with sq := { d.sq with spillLost := sat 32 (d.sq.spillLost + 1), spillOver := true } }

/-- Counts an item stamped at `stamp`: in its epoch's record, or as spill after that epoch's drain close (R94). -/
def Dev.item (d : Dev) (s : Src) (stamp : Nat) (ops : List RecOp) : Dev :=
  let e := d.epochAt stamp
  if e < d.sq.closedBelow then
    d.spillItem ⟨e, s.kind, s.id, s.room, 1, stamp, stamp, s.base⟩
  else d.accRun e s.base ops

/-- An accumulator of the epoch of a stamp. -/
def Dev.recAt (d : Dev) (stamp rec off : Nat) : Nat := d.acc (d.epochAt stamp) (rec + off)

/-- Counts something of the house or of a quadrant at a hearth instant of its own: no spill (R406). -/
def Dev.count (d : Dev) (rec : Nat) (ops : List RecOp) : Dev := d.accRun d.sq.num rec ops

def srcFc (d : Dev) (fc : Nat) : Src := ⟨1, recFc fc, fcId fc, fcHolder d.live fc⟩
def srcPin (d : Dev) (pc : Nat) : Src := ⟨2, recPin pc, pcId pc, pcHolder d.live pc⟩
def srcAU (d : Dev) (u : Nat) : Src := ⟨3, recAU u, auId u 0, auHolder d.live u⟩
def srcEng (d : Dev) (T dom : Nat) : Src := ⟨4, recTile T, engId T, if dom < 256 then dom else wholeHolder d.live T⟩
/-- Usage of a room counted by a source with event ID `id` (R359). -/
def srcRoom (r id : Nat) : Src := ⟨5, recRoom r, id, r⟩
def srcHouse : Src := ⟨6, recHouse, 0, houseDom⟩

/-- Sets EV_LOST for a pulse discarded at its source queue (R45): in the record of its stamp's epoch until that has been
published, then as spill of kind 6 (R96). -/
def Dev.evLost (d : Dev) (s : Src) (stamp : Nat) : Dev :=
  let e := d.epochAt stamp
  if d.sq.num ≤ e ∨ d.sq.pubs.any (fun p => p.epoch == e) then d.accRun e s.base [opOr 4 2]
  else d.spillItem ⟨e, 6, s.id, s.room, 1, stamp, stamp, s.base⟩

/-- Sets a flag of the slot header of the epoch of an instant (R99). -/
def Dev.hdrFlag (d : Dev) (e bit : Nat) : Dev := d.accRun e 0 [opOr 8 (2 ^ bit)]

/-- The epoch in progress carries TIME_STEP (R99). -/
def Dev.markStepped (d : Dev) : Dev :=
  let d := d.hdrFlag d.sq.num 1
  { d with sq := { d.sq with stepped := (d.sq.num :: d.sq.stepped).take 64 } }

end Sys2Proof.Machine
end

