-- ==== Sys2Proof/Machine/Pulses.lean ====
section
/-! DEFINITION. The event fabric's sources: emitting a pulse, its source queue and its copies (R41-R45, R248, R376,
R385, R388), the domain of a pulse (R325, R386). -/
namespace Sys2Proof.Machine

/-- The quadrant and local number of an event ID (R41). -/
def idQuad (id : Nat) : Nat := id / 0x4000 % 4
def idLocal (id : Nat) : Nat := id % 0x4000

/-- The flow channel, pin channel or tile a local number names (R42). -/
def idFc (id : Nat) : Nat := idQuad id * 8192 + idLocal id
def idPc (id : Nat) : Nat := idQuad id * 64 + (idLocal id - 0x2000)
def idEngTile (id : Nat) : Nat := if idLocal id = 0x20C0 then 256 + idQuad id else idQuad id * 64 + (idLocal id - 0x2080)

/-- The tile of a pulse's source, if a tile controller accepts it (R385). -/
def idTile (id : Nat) : Option Nat :=
  let l := idLocal id
  if l < 0x2000 then some (idFc id / 128)
  else if l < 0x2080 then some (256 + idQuad id)
  else if l < 0x20C1 then some (idEngTile id)
  else none

/-- The domain of a pulse for routing (R386); `em` is the domain of an emitting dispatch. -/
def pulseDom (d : Dev) (p : Pulse) (em : Option Nat) : Nat :=
  let w := d.live
  let l := idLocal p.id
  let q := idQuad p.id
  if l < 0x2000 then fcHolder w (idFc p.id)
  else if l < 0x2040 then pcHolder w (idPc p.id)
  else if l < 0x2080 then protHolder w q (l - 0x2040)
  else if l < 0x20C1 then
    let kind := p.arg % 256
    if kind < 0x40 then em.getD (wholeHolder w (idEngTile p.id))
    else if kind = 0x66 then p.arg / 2 ^ 8 % 512
    else if kind = 0x67 then fcHolder w (p.arg / 2 ^ 8 % 32768)
    else wholeHolder w (idEngTile p.id)
  else if l < 0x2180 then houseDom
  else if l < 0x21C0 then dmaHolder w (8 * q + (l - 0x2180) / 8)
  else if l < 0x21E0 then cvuHolder w (4 * q + (l - 0x21C0) / 8)
  else if l = 0x21E2 then p.arg / 2 ^ 4 % 512
  else if l = 0x21E3 then p.arg / 2 ^ 9 % 512
  else if l < 0x3200 then houseDom
  else if l < 0x3300 then auHolder w ((l - 0x3200) / 32)
  else if 0x3F00 ≤ l then
    let pd := pageDom w (pageOf (p.arg / 256 * 4096))
    if pd = 0x1FF then houseDom else pd
  else houseDom

/-- The domain of a pulse as an inbox entry (R325). -/
def inboxDom (d : Dev) (p : Pulse) : Nat :=
  let l := idLocal p.id
  if 0x2080 ≤ l ∧ l < 0x20C1 then wholeHolder d.live (idEngTile p.id)
  else if l = 0x21E2 ∨ l = 0x21E3 then houseDom
  else pulseDom d p none

/-- The depth of a source queue (R45): keys below 256 are flow tiles, 256-259 pin tiles, 300-307 angle units, 320-335
hearth-island blocks; other sources wait and lose nothing. -/
def srcDepth (key : Nat) : Option Nat :=
  if key < 256 then some 256 else if key < 260 then some 128 else if key < 300 then none
  else if key < 308 then some 64 else if 320 ≤ key ∧ key < 336 then some 32 else none

/-- The key of a house block's queue: pages HTIM to HRING, HSNP and HCOM belong to the hearth island (R39). -/
def houseKey (page : Nat) : Nat := if page < 10 then 320 + page else 1000 + page

/-- The key of a microengine: a handshake source, which waits and loses nothing (R45). -/
def engKey (T : Nat) : Nat := 2000 + T

/-- Entries of the source queue `key` that wait for their controller. -/
def Dev.queued (d : Dev) (key : Nat) : List FabEntry := d.fabric.filter (fun e => e.src == key && (match e.dest with | .ctl | .eng _ => true | _ => false))

/-- The source queue is full for a pulse of domain `dom` (R45; the shares of R348 on a tile). -/
def Dev.queueFull (d : Dev) (key dom : Nat) : Bool :=
  match srcDepth key with
  | none => false
  | some n =>
    let l := d.queued key
    if key < 260 then
      decide (n ≤ l.length) ||
        decide (n / ((sharesOf d.live key).length + 1) ≤ (l.filter (fun e => inboxDom d e.p == dom)).length)
    else decide (n ≤ l.length)

/-- Tiles with an enabled subscription to an event ID (R388). -/
def Dev.subsOf (d : Dev) (id : Nat) : List Nat :=
  (d.regs.live.filterMap (fun e =>
    match pageOf e.1 with
    | .tirq T =>
      let o := e.1 % 0x1000
      if 0x350 ≤ o ∧ o < 0x390 ∧ fget e.2 F.TIRQ_SUB_EN = 1 ∧ fget e.2 F.TIRQ_SUB_ID = id then some T else none
    | _ => none)).eraseDups

/-- Timers with global start on an event ID (R248). -/
def Dev.gidTimers (d : Dev) (id : Nat) : List (Nat × Nat) :=
  d.regs.live.filterMap (fun e =>
    match pageOf e.1 with
    | .ttmr T =>
      let o := e.1 % 0x1000
      if 0x40 ≤ o ∧ o < 0x140 ∧ (o - 0x40) % 0x20 = 0 ∧ fget e.2 F.TMR_CFG_EN = 1 ∧ fget e.2 F.TMR_CFG_START = 1 ∧
          fget e.2 F.TMR_CFG_GID = id then some (T, (o - 0x40) / 0x20) else none
    | _ => none)

/-- The copies of an accepted pulse (R385). -/
def Dev.copies (d : Dev) (p : Pulse) (key : Nat) : List FabEntry :=
  (d.subsOf p.id).map (fun T => ⟨p, .sub T, key, none, false⟩) ++
  (d.gidTimers p.id).map (fun x => ⟨p, .timer x.1 x.2, key, none, false⟩) ++
  (d.dma.filter (fun e => e.2.waitId == some p.id)).map (fun e => ⟨p, .dma e.1, key, none, false⟩)

/-- Emits a pulse from a source queue. A full queue discards it, counts it in ERR_CNT of the source's page and sets
EV_LOST in its record (R45); the room record counts what a full share turns away (R348). -/
def Dev.emitFrom (d : Dev) (key page : Nat) (s : Src) (em : Option Nat) (p : Pulse) : Dev :=
  let dom := inboxDom d p
  if d.queueFull key dom then
    let d := (d.err page).evLost s p.stamp
    if key < 260 ∧ dom < 256 then d.item (srcRoom dom s.id) p.stamp [opAdd 0x74 1] else d
  else { d with fabric := d.fabric ++ ⟨p, .ctl, key, em, false⟩ :: d.copies p key }

/-- Sets bits of EV_STAT of a page. -/
def Dev.evSet (d : Dev) (page k : Nat) : Dev :=
  d.setImmW (A.EV_STAT page) (d.immW (A.EV_STAT page) ||| BitVec.ofNat 32 (2 ^ k))

/-- EV_EN bit `k` of a page. -/
def Dev.evEn (d : Dev) (page k : Nat) : Bool := bitOf (d.immW (A.EV_EN page)).toNat k

/-- Happening `k` of a page: EV_STAT is set, and the pulse goes out when EV_EN enables it (R154). -/
def Dev.happen (d : Dev) (key page k : Nat) (s : Src) (p : Pulse) : Dev :=
  let d := d.evSet page k
  if d.evEn page k then d.emitFrom key page s none p else d

/-- A house block's pulse, which no event bit gates (R87, R129, R159). -/
def Dev.house (d : Dev) (page id arg : Nat) : Dev :=
  d.emitFrom (houseKey page) (page * 0x1000) srcHouse none ⟨id, d.now, arg % 2 ^ 32⟩

/-- A house block's pulse stamped at another instant. -/
def Dev.houseAt (d : Dev) (page id arg stamp : Nat) : Dev :=
  d.emitFrom (houseKey page) (page * 0x1000) srcHouse none ⟨id, stamp, arg % 2 ^ 32⟩

def pgHCFG : Nat := 0
def pgHTIM : Nat := 1
def pgHSRC : Nat := 2
def pgHPTP : Nat := 3
def pgHCAP : Nat := 4
def pgHREF : Nat := 5
def pgHEPC : Nat := 6
def pgHRING : Nat := 7
def pgHSNP : Nat := 8
def pgHCOM : Nat := 9
def pgHOWN : Nat := 10
def pgHPCI : Nat := 11
def pgHSVC : Nat := 12
def pgHIRQ : Nat := 13
def pgHLFL : Nat := 14
def pgZYN : Nat := 0x20
def pgHCLK : Nat := 0x30
def pgHPWR : Nat := 0x31
def pgHGOV : Nat := 0x32
def pgHRST : Nat := 0x33
def pgHBOOT : Nat := 0x34
def pgHOTP : Nat := 0x35

/-- Pages of tiles and quadrants. -/
def tengPage (T : Nat) : Nat := 0x1000000 + T * 0x10000
def tirqPage (T : Nat) : Nat := tengPage T + 0x1000
def ttmrPage (T : Nat) : Nat := tengPage T + 0x2000
def tpanPage (T : Nat) : Nat := tengPage T + 0x3000
def protPage (q : Nat) : Nat := tengPage (256 + q) + 0xF000
def qcfgPage (q : Nat) : Nat := 0x100000 + q * 0x100000
def qmemPage (q : Nat) : Nat := qcfgPage q + 0x40000
def qpoolPage (q j : Nat) : Nat := qcfgPage q + 0x50000 + 0x1000 * j
def dmaPage (c : Nat) : Nat := qcfgPage (c / 8) + 0x20000 + 0x1000 * (c % 8)
def cvuPage (c : Nat) : Nat := qcfgPage (c / 4) + 0x30000 + 0x1000 * (c % 4)
def auPage (u : Nat) : Nat := 0x10000 + 0x1000 * u
def roomPage (r j : Nat) : Nat := 0x3000000 + r * 0x4000 + 0x1000 * j

/-- A flow channel's pulse of a kind: recorded while FCH_EVMASK enables the kind, gated by EV_EN of its slot (R182). -/
def Dev.fcPulse (d : Dev) (fc kind arg stamp : Nat) : Dev :=
  if bitOf (d.viewAt stamp (A.FCH_EVMASK fc)).toNat kind then
    d.happen (fc / 128) (fchPage fc) (fchSlot fc) (srcFc d fc) ⟨fcId fc, stamp, (kind + arg * 256) % 2 ^ 32⟩
  else d

/-- A pin channel's pulse of a kind: recorded while PCH_EVMASK enables the kind, gated by EV_EN of its slot (R221,
R254): PKINDS holds the kinds from 0x20 on. -/
def Dev.pcPulse (d : Dev) (pc kind arg stamp : Nat) : Dev :=
  if bitOf (d.viewAt stamp (A.PCH_EVMASK pc)).toNat (if kind < 16 then kind else kind - 16) then
    d.happen (256 + pc / 64) (pchPage pc) (pchSlot pc) (srcPin d pc) ⟨pcId pc, stamp, (kind + arg * 256) % 2 ^ 32⟩
  else d

/-- A protection pulse of pin tile `q`: ID 0x2040 + `j`, recorded in EV_STAT bit `k` of PCH page 15 (R287). -/
def Dev.protPulse (d : Dev) (q j k arg stamp : Nat) : Dev :=
  d.happen (256 + q) (protPage q) k ⟨2, recTile (256 + q), q * 0x4000 + 0x2040 + j, wholeHolder d.live (256 + q)⟩
    ⟨q * 0x4000 + 0x2040 + j, stamp, arg % 2 ^ 32⟩

/-- A store or pool pulse 0x21E0 + `j` of quadrant `q`, recorded in bit `k` of a page (R384). -/
def Dev.storePulse (d : Dev) (q j page k arg : Nat) : Dev :=
  d.happen 1100 page k srcHouse ⟨storeId q j, d.now, arg % 2 ^ 32⟩

/-- A pulse of the fabric with no event bit: a controller's own (R396). -/
def Dev.rawPulse (d : Dev) (id arg : Nat) : Dev := d.emitFrom 1200 0 srcHouse none ⟨id, d.now, arg % 2 ^ 32⟩

end Sys2Proof.Machine
end

