-- ==== Sys2Proof/Machine/Gates.lean ====
section
/-! DEFINITION. Gating, governed activations and what is running (R444, R454, R457), the wake from SLEEP (R445). -/
namespace Sys2Proof.Machine

/-- The flow channel whose mode word is at a staged address. -/
def fcModeAt (a : Nat) : Option Nat :=
  match pageOf a with
  | .fch T j =>
    let o := a % 0x1000
    if 0x40 ≤ o ∧ o < 0x7D0 ∧ (o - 0x40) % 0xB0 = 0 ∧ fcOfSlot T j ((o - 0x40) / 0xB0) < 128 * (T + 1) then
      some (fcOfSlot T j ((o - 0x40) / 0xB0)) else none
  | _ => none

/-- The pin channel whose mode word is at a staged address. -/
def pcModeAt (a : Nat) : Option Nat :=
  match pageOf a with
  | .pch q j =>
    let o := a % 0x1000
    if j < 15 ∧ 0x40 ≤ o ∧ o < 0x7C0 ∧ (o - 0x40) % 0x140 = 0 ∧ pcOfSlot q j ((o - 0x40) / 0x140) < 64 * (q + 1) then
      some (pcOfSlot q j ((o - 0x40) / 0x140)) else none
  | _ => none

/-- The keys two banks list. -/
def bankKeys (b : Tab Word) : List Nat := b.map (·.1)

/-- Flow channels with DIR other than OFF under a view, among the keys listed. -/
def activeFcs (w : View) (keys : List Nat) : List Nat :=
  (keys.filterMap fcModeAt).filter (fun fc => w.f (A.FCH_MODE fc) F.FCH_MODE_DIR != 0)

/-- Modes that drive their pin (R222). -/
def drivenMode (m : Nat) : Bool := m ∈ [1, 2, 3, 4, 5, 9, 10, 12]

/-- Pin channels with MODE other than OFF under a view. -/
def activePcs (w : View) (keys : List Nat) : List Nat :=
  (keys.filterMap pcModeAt).filter (fun pc => w.f (A.PCH_MODE pc) F.PCH_MODE_MODE != 0)

/-- The bank of a single-ended pin channel; the LVDS pairs run from VDD_ANA (R219, R478, R487). -/
def pinBank (pc : Nat) : Option Nat := if pc % 64 < 60 then some (4 * (pc / 64) + pc % 64 / 15) else none

/-- Lanes per sub-port of octet `n` (R27). -/
def laneWidth (w : View) (n : Nat) : Nat := 8 / 2 ^ w.f (A.PRT_CFG n) F.PRT_CFG_SPLIT

/-- The first lane of the sub-port that uses lane `i`. -/
def subOf (w : View) (i : Nat) : Nat := i / laneWidth w (i / 8) * laneWidth w (i / 8)

/-- `i` is the first lane of a sub-port of the split. -/
def isSub (w : View) (i : Nat) : Bool := decide (i < 128) && decide (subOf w i = i)

/-- The PRT_SUB word of the sub-port with first lane `i`. -/
def subCfg (w : View) (i : Nat) : Nat := A.PRT_SUB (i / 8) (i % 8 / laneWidth w (i / 8))

/-- Whether the sub-port with first lane `i` is enabled. -/
def subEn (w : View) (i : Nat) : Bool := isSub w i && w.b (subCfg w i) F.PRT_SUB_EN

/-- Octets that list a word of their page 0. -/
def octetsOf (keys : List Nat) : List Nat :=
  (keys.filterMap (fun a => match pageOf a with | .port n 0 => some n | _ => none)).eraseDups

/-- Lanes of the enabled sub-ports, and the Zynjo lanes (128-135) when PAIR_EN is set (R454, row 5). -/
def wantedLanes (w : View) (keys : List Nat) : List Nat :=
  ((octetsOf keys).flatMap (fun n => (List.range 8).map (8 * n + ·))).filter (fun l => subEn w (subOf w l)) ++
  (if w.b A.ZYN_CFG F.ZYN_CFG_PAIR_EN then (List.range 8).map (128 + ·) else [])

/-- The activations the settings ask for, in the table's order (R454, rows 3 to 6). -/
def wantedActs (w : View) (keys : List Nat) : List (Nat × Nat) :=
  (((activeFcs w keys).map (· / 128)).eraseDups.map (fun T => (3, T))) ++
  ((((activePcs w keys).filter (fun pc => drivenMode (w.f (A.PCH_MODE pc) F.PCH_MODE_MODE))).filterMap pinBank).eraseDups.map (fun b => (4, b))) ++
  ((wantedLanes w keys).map (fun l => (5, l))) ++
  (((List.range 8).filter (fun u => w.b (A.AU_CFG u) F.AU_CFG_EN)).map (fun u => (6, u)))

/-- The gate word in force (R444). -/
def Dev.gateW (d : Dev) : Word :=
  match d.pwr.st with
  | .run => d.lvW A.HCLK_GATE_RUN
  | .sleep => d.lvW A.HCLK_GATE_SLEEP
  | .deep => 0

/-- Bit `k` of the gate word. -/
def Dev.gate (d : Dev) (k : Nat) : Bool := bitOf d.gateW.toNat k

/-- An activation has started (R454, R457). -/
def Dev.activated (d : Dev) (order idx : Nat) : Bool := d.pwr.active.contains (order, idx)

/-- Places a request in the governor's queue: by arrival, those of one instant by order and index (R455). -/
def govInsert : List GovReq → GovReq → List GovReq
  | [], r => [r]
  | x :: t, r =>
    if r.at_ < x.at_ ∨ (x.at_ = r.at_ ∧ (r.order < x.order ∨ (r.order = x.order ∧ r.index < x.index))) then r :: x :: t
    else x :: govInsert t r

/-- Requests an activation, unless it has started or waits already. -/
def Dev.govReq (d : Dev) (order idx : Nat) : Dev :=
  if d.activated order idx ∨ d.pwr.govQ.any (fun r => r.order == order && r.index == idx) then d
  else { d with pwr := { d.pwr with govQ := govInsert d.pwr.govQ ⟨order, idx, d.now, d.pwr.tick + 1⟩ } }

/-- Requests every activation the live settings ask for. -/
def Dev.govWanted (d : Dev) : Dev :=
  (wantedActs d.live (bankKeys d.regs.live)).foldl (fun d x => d.govReq x.1 x.2) d

/-- A block the gates hold off loses its activation (R444, R445). -/
def Dev.govDrop (d : Dev) : Dev :=
  let keep (x : Nat × Nat) : Bool :=
    if x.1 = 3 then d.gate (4 + x.2 / 64) else if x.1 = 5 then (if x.2 < 128 then d.gate (x.2 / 32) else d.gate 16)
    else if x.1 = 6 then d.gate 17 else true
  { d with pwr := { d.pwr with active := d.pwr.active.filter keep, govQ := d.pwr.govQ.filter (fun r => keep (r.order, r.index)) } }

/-- The engine of a tile. -/
def Dev.engOf (d : Dev) (T : Nat) : Eng := Tab.get d.eng {} T

/-- The tile reads OFFLINE or RESET: engine OFFLINE, LOADING or STOPPED, in its INIT routine, or resetting (R313). -/
def Eng.offlineNow (e : Eng) : Bool :=
  e.inInit || e.resetting || match e.st with | .offline | .loading | .stopped => true | _ => false

def Dev.tileOffline (d : Dev) (T : Nat) : Bool := (d.engOf T).offlineNow

/-- The engine is an inactive target (R389). -/
def Dev.engInactive (d : Dev) (T : Nat) : Bool :=
  match (d.engOf T).st with | .offline | .loading | .stopped => true | _ => false

/-- The engine of a tile is gated (R444). -/
def Dev.engGated (d : Dev) (T : Nat) : Bool := if T < 256 then !(d.gate (8 + T / 64)) else !(d.gate (12 + (T - 256)))

/-- The flow datapath of a tile runs: the tile is online, its gate is open and its activation has started (R46, R444, R457). -/
def Dev.fdpRuns (d : Dev) (T : Nat) : Bool := !(d.tileOffline T) && d.gate (4 + T / 64) && d.activated 3 T

/-- A port lane runs (R444, R457, R437). -/
def Dev.laneRuns (d : Dev) (l : Nat) : Bool := d.gate (l / 32) && d.activated 5 l && d.pwr.spllLock.getD (l / 32) false

/-- An angle unit runs. -/
def Dev.auRuns (d : Dev) (u : Nat) : Bool := d.gate 17 && d.activated 6 u

/-- The wake from SLEEP (R445): the blocks of GATE_RUN are requested, 0x3511 and 0x3510 are emitted. -/
def Dev.wakeSleep (d : Dev) (cause : Nat) : Dev :=
  let d := { d with pwr := { d.pwr with st := .run, req := none } }
  let d := d.govWanted
  let d := d.house pgHPWR 0x3511 cause
  d.house pgHPWR 0x3510 0

end Sys2Proof.Machine
end

