-- ==== Sys2Proof/Machine/Front.lean ====
section
/-! DEFINITION. How an access of a master meets the registers: posted-write numbers, the ownership check, late faults
(R133, R140-R146, R381-R383). -/
namespace Sys2Proof.Machine

/-- The reader numbers of engine `T` and of DMA channel `c` (R321, R374): no masters; each has per-master latches of its own. -/
def engineReader (T : Nat) : Nat := 8 + T
def dmaReader (c : Nat) : Nat := 300 + c

/-- A refused write of master `m` (R144): counted, except for the service port, and pulsed once per epoch. -/
def Dev.refuse (d : Dev) (m : Nat) : Dev :=
  if 8 ≤ m then d else
  let d := if m = 6 then d else d.incIm (A.HOWN_WREFUSED m) F.HOWN_WREFUSED_COUNT 1
  if d.sq.refusedM.contains m then d
  else { d with sq := { d.sq with refusedM := m :: d.sq.refusedM } }.house pgHOWN 0x3405 m

/-- The quadrant of a quadrant or tile page, 0 for other pages. -/
def quadOfPage : PageKind → Nat
  | .qcfg q | .qirq q | .qmem q _ | .qpool q _ => q
  | .port n _ => n / 4
  | .dma c => c / 8
  | .cvu c => c / 4
  | .teng T | .tirq T | .ttmr T | .tpan T | .fch T _ => if T < 256 then T / 64 else T - 256
  | .pch q _ => q
  | _ => 0

/-- Enters or leaves the block on commits (R128). -/
def Dev.setBlocked (d : Dev) (b : Bool) : Dev :=
  if d.sq.blocked = b then d else { d with sq := { d.sq with blocked := b } }.house pgHCOM 0x3113 (b2n b)

/-- A late fault is detected (R127, R128, R382, R383): the log, TAINTED, the pulse; `seq` is the write's number,
`orig` its originator and `twinM` the twin's master. -/
def Dev.lateFault (d : Dev) (orig twinM cause : Nat) (link bar2 : Bool) (seq addr q : Nat) : Dev :=
  let e0 := orig + twinM * 8 + b2n link * 64 + b2n bar2 * 128 + cause * 256 + 2 ^ 31
  let ent := [e0, seq % 2 ^ 32, d.sq.num % 2 ^ 32, addr % 2 ^ 32, d.now % 2 ^ 32, d.now / 2 ^ 32 % 2 ^ 32]
  let d := if d.late.log.length < 64 then { d with late := { d.late with log := d.late.log ++ [ent] } }
    else d.incIm A.HLFL_LOST F.HLFL_LOST_LOST 1
  let d := d.item ⟨7, 0, storeId q 5, houseDom⟩ d.now [opOr 8 1, opAdd 0x14 1]
  let d := d.happen 1100 (pgHLFL * 0x1000) 0 srcHouse ⟨storeId q 5, d.now, orig + cause * 8 + b2n link * 128⟩
  let d := if orig < 7 then d.incIm (A.HLFL_ORIG orig) F.HLFL_ORIG_COUNT 1 else d
  if link then d.setBlocked true else d

/-- The immediate register at an address belongs to a block that is down (R381, R313): the pantry data registers and
the immediate registers of FCH pages of a tile that reads OFFLINE or RESET, and a quadrant's port, DMA and check pages
while the quadrant is in reset. -/
def Dev.blockDown (d : Dev) (a : Nat) (id : RegId) : Bool :=
  let tileDown (T : Nat) : Bool := d.tileOffline T || (d.engOf T).resetting
  match pageOf a with
  | .tpan T => (id = .TPAN_PDATA0 || id = .TPAN_PDATA1) && tileDown T
  | .fch T _ => tileDown T
  | .port n _ => d.pwr.qbusy.contains (n / 4)
  | .dma c => d.pwr.qbusy.contains (c / 8)
  | .cvu c => d.pwr.qbusy.contains (c / 4)
  | _ => false

/-- The number the next posted write of a master takes (R382). -/
def Dev.postNum (d : Dev) (m : Nat) : Nat := (Tab.get d.late.num 0 m + 1) % 2 ^ 32

/-- A posted write of `m` takes its number (R382). -/
def Dev.post (d : Dev) (m : Nat) : Dev :=
  if m < 6 then { d with late := { d.late with num := Tab.set d.late.num m (d.postNum m) } } else d

/-- The write of `m` last numbered was accepted (R382). -/
def Dev.postAccepted (d : Dev) (m : Nat) : Dev :=
  if m < 6 then { d with late := { d.late with acc := Tab.set d.late.acc m (Tab.get d.late.num 0 m) } } else d

/-- A read-only register of the page header, served whatever the block's state: PG_STATE itself tells it. -/
def headerReg : RegId → Bool
  | .PG_ID | .PG_REV | .PG_STATE | .ERR_CNT | .OWNER_VIEW | .LH_EPOCH | .LH_COMMIT | .LH_ASSIGN => true
  | _ => false

/-- How a write meets a register: it acts, it has no effect, ownership refuses it, or its block is down. -/
inductive Meet where
  | act | nothing | refuse | late
deriving DecidableEq, Repr

/-- How a write of master `m` meets the register at `a` (R140-R144, R381). -/
def Dev.meet (d : Dev) (m a : Nat) : Meet :=
  match descAt (d.egress a) a with
  | none => .nothing
  | some (r, ix) =>
    if r.rws = 0 ∧ r.rw = 0 ∧ r.w1c = 0 ∧ r.wo = 0 then .nothing
    else match domOfId d.live (pageOf a) r.id ix with
      | .none => .nothing
      | .bits => if d.blockDown a r.id && (List.range 32).any (d.ownsBit m (pageOf a)) then (if m = 6 then .nothing else .late) else .act
      | _ =>
        if d.ownsReg m a then
          if r.rws = 0 ∧ d.blockDown a r.id ∧ headerReg r.id = false then (if m = 6 then .nothing else .late) else .act
        else .refuse

/-- A write of master `m` meets the register at `a`: refused, lost to a block that is down, or carried out by `act`.
The flag answers whether ownership refused it. `twinM` and `seq` are the link's for a write of M7. -/
def Dev.tryWrite (d : Dev) (m twinM seq a : Nat) (act : Dev → Dev) : Dev × Bool :=
  match d.meet m a with
  | .act => (act d, false)
  | .nothing => (d, false)
  | .refuse => (d.refuse m, true)
  | .late => (d.lateFault m twinM 1 (m = 7) false seq a (quadOfPage (pageOf a)), false)

/-- One posted BAR0 write of one word by a PCIe function, or a write word of another master. -/
def Dev.hostWrite (d : Dev) (m a : Nat) (act : Dev → Dev) : Dev :=
  let d := d.post m
  let r := d.tryWrite m 0 (Tab.get d.late.num 0 m) a act
  if r.2 then r.1 else r.1.postAccepted m

/-- Puts the words a read returned on the wire. -/
def Dev.answer (d : Dev) (m : Nat) (ws : List Nat) : Dev := d.emit (.readData m ws)

/-- A read of an RC word (R20, R146): the owner's read clears the RC bits. -/
def Dev.readRC (d : Dev) (m a mask : Nat) : Dev × Nat :=
  let v := d.immW a
  (if d.ownsReg m a then d.setImmW a (v &&& ~~~(BitVec.ofNat 32 mask)) else d, v.toNat)

/-- A host read of an RC word. -/
def Dev.hostReadRC (d : Dev) (m a mask : Nat) : Dev :=
  let r := d.readRC m a mask
  r.1.answer m [r.2]

/-- The value left in a field of a register by a plain write: RW bits take the value, W1C bits that are written 1
clear, other bits stay (R20, R22). -/
def plainWrite (r : RDesc) (old v : Word) : Word :=
  let rw := BitVec.ofNat 32 r.rw
  let w1c := BitVec.ofNat 32 r.w1c
  ((old &&& ~~~rw) ||| (v &&& rw)) &&& ~~~(v &&& w1c)

end Sys2Proof.Machine
end

