-- ==== Sys2Proof/Machine/Hearth.lean ====
section
/-! DEFINITION. The hearth's commands (chapter Hearth Time Engine): the counter, its corrections, the TPLL, the RCO trim,
captures, references and the timing ring. The phase step itself stands with the elements it reaches (Steps.lean). -/
namespace Sys2Proof.Machine

/-! ## The cadence grid (R80-R83) -/

/-- The frame rate of a format code, frames per second as a fraction (R76). -/
def fmtRate : Nat → Nat × Nat
  | 1 => (30000, 1001) | 2 => (25, 1) | 3 => (24000, 1001) | 4 => (24, 1) | 5 => (25, 1) | 6 => (30000, 1001)
  | 7 => (30, 1) | 8 => (50, 1) | 9 => (60000, 1001) | 10 => (60, 1) | 11 => (50, 1) | 12 => (60000, 1001)
  | 13 => (60, 1) | _ => (0, 1)

/-- The epoch period P in seconds as a fraction under a view (R80). -/
def periodOf (w : View) : Nat × Nat :=
  if w.b A.HEPC_CFG F.HEPC_CFG_MODE then (w.f A.HEPC_NUM F.HEPC_NUM_NUM, w.f A.HEPC_DEN F.HEPC_DEN_DEN)
  else
    let r := fmtRate (w.f A.HEPC_CFG F.HEPC_CFG_RATE)
    (w.f A.HEPC_CFG F.HEPC_CFG_FRAMES * r.2, r.1)

/-- Grid point G(n) of a period (R80). -/
def gridPoint (p : Nat × Nat) (n : Int) : Int := n * (p.1 : Int) * (secTU : Int) / (p.2 : Int)

/-- The index of the first grid point at or after an instant. -/
def gridFrom (p : Nat × Nat) (t : Nat) : Int :=
  let n := (t : Int) * (p.2 : Int) / ((p.1 : Int) * (secTU : Int))
  if (t : Int) ≤ gridPoint p n then n else if (t : Int) ≤ gridPoint p (n + 1) then n + 1 else n + 2

/-- The period in TU, rounded down. -/
def periodTU (p : Nat × Nat) : Nat := p.1 * secTU / p.2

/-- θ: the twin's counter minus this device's, the mean of the samples held rounded down (R415; the rounding is a DESIGN CHOICE, log
entry 64). -/
def Dev.theta (d : Dev) : Int := if d.zyn.ofs = [] then 0 else (d.zyn.ofs.foldl (· + ·) 0) / (d.zyn.ofs.length : Int)

/-- The number of the epoch in progress before the first boundary (R81), or under FOLLOW one less than the number the twin
gives the same grid point (R434). -/
def Dev.firstNum (d : Dev) (p : Nat × Nat) (n : Int) : Nat :=
  match d.zyn.follow, d.zyn.hb with
  | true, some h =>
    let g := ((unshort d.now h.grid : Int) - d.theta - (periodTU p / 2 : Nat)).toNat
    ((h.epoch : Int) + (n - gridFrom p g) - 1).toNat
  | _, _ => 0

/-- The grid begins, at the later of RUN and the first lock (R81): the first boundary is the first grid point at least 1 ms
later. What was counted before it goes to the epoch in progress then. -/
def Dev.armGrid (d : Dev) : Dev :=
  if d.h.run ∧ d.h.everLocked ∧ d.sq.armed = false then
    let p := periodOf d.live
    let n := gridFrom p (d.now + 1000 * usTU)
    let e := d.firstNum p n
    { d with sq := { d.sq with armed := true, nextGrid := n, nxt := (gridPoint p n).toNat, num := e, closedBelow := e,
                               marks := d.sq.marks.map (fun m => { m with num := e }),
                               acc := d.sq.acc.map (fun x => (x.1 + e * 2 ^ 24, x.2)) },
             zyn := { d.zyn with follow := false } }
  else d

/-- RUN is set (R53, R81): epoch 0 is the epoch in progress, or with FOLLOW the twin's numbering is taken; FOLLOW_FAIL when
no running twin is heard (R434). HEPC_BND shows this instant until a boundary has begun an epoch (DESIGN CHOICE, log entry 83). -/
def Dev.setRun (d : Dev) : Dev :=
  if d.h.run then d
  else
    let d := { d with h := { d.h with run := true, runPend := false },
                      sq := { d.sq with runAt := d.now, bnd := d.now, marks := [⟨0, d.now, 0⟩] } }
    let heard := d.zyn.link == .up && (match d.zyn.hb with | some h => h.run | none => false)
    let fol := d.im A.ZYN_CTL F.ZYN_CTL_FOLLOW == 1
    let d := { d with zyn := { d.zyn with follow := fol && heard } }
    let d := d.eng.foldl (fun d e => if e.2.offlineNow then d else d.accRun 0 (recOnline e.1) [opSet 0 1]) d
    let d := if fol && !heard then d.setIm A.ZYN_STAT F.ZYN_STAT_FOLLOW_FAIL 1 else d
    (d.setIm A.HTIM_CTRL F.HTIM_CTRL_RUN 1).armGrid

/-! ## HTIM -/

/-- A step or a slew is in progress (CORR_BUSY). -/
def Dev.corrBusy (d : Dev) : Bool := d.h.pstep.isSome || d.h.slew.isSome

/-- The phase correction d held in HTIM_PSTEP. -/
def Dev.pstepVal (d : Dev) : Int :=
  sgn 64 ((d.immW (A.HTIM_PSTEP 0)).toNat + (d.immW (A.HTIM_PSTEP 1)).toNat * 2 ^ 32)

/-- A TSET_GO (R54), judged with RUN = `run`. -/
def Dev.doTset (d : Dev) (run : Bool) : Dev :=
  let w0 := (d.immW (A.HTIM_TSET 0)).toNat
  let w1 := (d.immW (A.HTIM_TSET 1)).toNat
  let w2 := (d.immW (A.HTIM_TSET 2)).toNat
  if run ∨ 999999999 < fullNs w0 w1 then
    ((d.setIm A.HTIM_STAT F.HTIM_STAT_TSET_REFUSED 1).err 0x1000).house pgHTIM 0x3004 1
  else { d with h := { d.h with tset := some (ofFullTime w0 w1 w2), tsetCyc := d.h.cycle + 1 } }

/-- A STEP_GO (R56, R59, R60), judged with RUN = `run`. A slew keeps the RATE that is live here, also over a commit of RATE (DESIGN
CHOICE, log entry 84). -/
def Dev.doStep (d : Dev) (run slew atSecond : Bool) : Dev :=
  let v := d.pstepVal
  let p := periodOf d.live
  let bad := d.corrBusy ||
    (if slew then decide (secTU < v.natAbs)
     else run && decide (p.1 * secTU ≤ v.natAbs * p.2))
  if bad then ((d.setIm A.HTIM_STAT F.HTIM_STAT_STEP_REFUSED 1).err 0x1000).house pgHTIM 0x3004 2
  else if slew then { d with h := { d.h with slew := some ⟨v * 65536, d.lv A.HTIM_SLEW F.HTIM_SLEW_RATE⟩ } }
  else { d with h := { d.h with pstep := some ⟨v,
    if atSecond then some (nextWhole secTU (d.h.tset.getD d.now)) else none, d.h.cycle + 1 + b2n d.h.tset.isSome⟩ } }

/-- A write of HTIM_CTRL (R53, R54, R56, R59): the load, the step and RUN of one write act in that order. -/
def writeHtimCtrl (v : Word) (d : Dev) : Dev :=
  let run0 := d.h.run
  let slew := fget v F.HTIM_CTRL_METHOD = 1
  let atS := fget v F.HTIM_CTRL_STEP_AT = 1
  let setsRun := fget v F.HTIM_CTRL_RUN = 1
  let d := (d.setIm A.HTIM_CTRL F.HTIM_CTRL_METHOD (b2n slew)).setIm A.HTIM_CTRL F.HTIM_CTRL_STEP_AT (b2n atS)
  let d := if fget v F.HTIM_CTRL_TSET_GO = 1 then d.doTset run0 else d
  let d := if fget v F.HTIM_CTRL_STEP_GO = 1 then d.doStep (if atS && !slew then run0 || setsRun else run0) slew atS else d
  if setsRun ∧ run0 = false then
    let waits := d.h.tset.isSome || (match d.h.pstep with | some s => s.second.isNone | none => false)
    if waits then { d with h := { d.h with runPend := true } } else d.setRun
  else d

/-- A write of HTIM_CTRL with one action's bit set. -/
def htimCmd (m : Nat) (v bit : Word) (d : Dev) : Dev := d.hostWrite m A.HTIM_CTRL (writeHtimCtrl (v ||| bit))

/-- RUN set at the cycle after the last of its write's load and step (R54). -/
def Dev.runAfter (d : Dev) : Dev :=
  let waits := d.h.tset.isSome || (match d.h.pstep with | some s => s.second.isNone | none => false)
  if d.h.runPend ∧ waits = false then d.tick.setRun else d

/-- TSET_LOAD (R54): the counter takes the TSET value, and a step that waits for a whole second (R56) waits for the next one from there. -/
def tsetLoad (d : Dev) : Dev :=
  match d.h.tset with
  | none => d
  | some t =>
    let step := d.h.pstep.map (fun p => { p with second := p.second.map (fun _ => nextWhole secTU t) })
    { d with h := { d.h with ctr := t * 65536, atTU := 0, cycle := max d.h.cycle d.h.tsetCyc, tset := none, pstep := step } }.runAfter

/-- SLEW_COMPLETE (R59): the cycles up to the final one pass, if they have not, and it adds the remainder of d. -/
def slewComplete (d : Dev) : Dev :=
  match d.h.slew with
  | none => d
  | some s =>
    let d := if s.rem = 0 then d else d.cycles (d.slewCycles s + 1)
    { d with h := { d.h with slew := none } }.house pgHTIM 0x3003 0

/-- A write of HTIM_FTRIM (R61). -/
def writeFtrim (v : Word) (d : Dev) : Dev :=
  let x := v.toInt
  if x < -51200000 ∨ 51200000 < x then
    let lim : Int := if x < 0 then -51200000 else 51200000
    ((d.setIm A.HTIM_FTRIM F.HTIM_FTRIM_FTRIM (unsgn 32 lim)).setIm A.HTIM_STAT F.HTIM_STAT_FTRIM_CLAMP 1).house pgHTIM 0x3004 3
  else d.setImmW A.HTIM_FTRIM v

/-- NOW_READ (R55). -/
def readNow (m : Nat) (d : Dev) : Dev × Nat :=
  let ws := fullTime d.now
  (d.setLatch (A.HTIM_NOW 0) m ws, ws.headD 0)

/-! ## The TPLL (R62-R67) -/

def tpllCode : TpllState → Nat
  | .acquire => 0 | .locked => 1 | .holdover => 2 | .slowHold => 3

/-- Moves the TPLL to a state and a source; a change of either emits 0x3000 (R64). The loss that began a holdover counts no longer
once it is over (R66). -/
def Dev.tpllTo (d : Dev) (st : TpllState) (src : Nat) : Dev :=
  let ch := st ≠ d.h.tpll ∨ src ≠ d.h.src
  let hold := decide (st = .holdover)
  let log := if hold == decide (d.h.tpll = .holdover) then d.h.holdLog else ((d.now, hold) :: d.h.holdLog).take 16
  let d := { d with h := { d.h with tpll := st, src := src, holdLog := log, lostSrc := if st == TpllState.acquire || st == TpllState.locked then none else d.h.lostSrc } }.setIm A.HSRC_SEL F.HSRC_SEL_SRC src
  let d := if st = .holdover then (d.hdrFlag d.sq.num 8).count recHouse [opOr 0x10 16] else d
  if ch then d.house pgHSRC 0x3000 (tpllCode st + src * 256) else d

/-- The TPLL was in HOLDOVER at an instant (R307). -/
def Dev.holdoverAt (d : Dev) (t : Nat) : Bool :=
  match d.h.holdLog.find? (fun x => decide (x.1 ≤ t)) with
  | some x => x.2
  | none => match d.h.holdLog.getLast? with | some x => !x.2 | none => decide (d.h.tpll = .holdover)

/-- READY of a source code. -/
def Dev.srcReady (d : Dev) (c : Nat) : Bool := d.h.ready.getD c false

/-- In HOLDOVER with AUTO = 1 the highest-priority READY source is selected (R64). -/
def Dev.autoSelect (d : Dev) : Dev :=
  if d.h.tpll = .holdover ∧ d.imb A.HSRC_SEL F.HSRC_SEL_AUTO then
    let prio := d.im A.HSRC_SEL F.HSRC_SEL_PRIO
    match [prio % 4, prio / 4 % 4, prio / 16 % 4, prio / 64 % 4].find? d.srcReady with
    | some c => d.tpllTo .acquire c
    | none => d
  else d

/-- A write of HSRC_SEL (R63, R64). -/
def writeHsrcSel (v : Word) (d : Dev) : Dev :=
  let src := fget v F.HSRC_SEL_SRC
  let sel := src ≠ d.h.src ∨ (d.h.tpll = .holdover ∧ src = d.h.src ∧ d.srcReady src)
  if sel ∧ d.srcReady src = false then
    (d.setIm A.HSRC_STAT F.HSRC_STAT_SEL_REFUSED 1).house pgHSRC 0x3004 4
  else
    let d := (d.setIm A.HSRC_SEL F.HSRC_SEL_AUTO (fget v F.HSRC_SEL_AUTO)).setIm A.HSRC_SEL F.HSRC_SEL_PRIO (fget v F.HSRC_SEL_PRIO)
    let d := if sel then d.tpllTo (if d.h.tpll = .holdover then .acquire else d.h.tpll) src else d
    d.autoSelect

/-- A write of HSRC_CFG (R63): refused when it changes the field of the selected source. -/
def writeHsrcCfg (v : Word) (d : Dev) : Dev :=
  let o := d.immW A.HSRC_CFG
  if (d.h.src = 1 ∧ fget v F.HSRC_CFG_OCXO_FREQ ≠ fget o F.HSRC_CFG_OCXO_FREQ) ∨
     (d.h.src = 3 ∧ fget v F.HSRC_CFG_SYNCE_LANE ≠ fget o F.HSRC_CFG_SYNCE_LANE) then
    (d.setIm A.HSRC_STAT F.HSRC_STAT_SEL_REFUSED 1).house pgHSRC 0x3004 4
  else d.setImmW A.HSRC_CFG (v &&& 0x77F01#32)

/-- TPLL_LOCK (R64, R65): the phase error has stayed within 1 ns for 1 ms in ACQUIRE. -/
def tpllLock (d : Dev) : Dev :=
  if d.h.tpll = .acquire ∧ d.srcReady d.h.src then
    let d := { d with h := { d.h with everLocked := true } }
    (d.tpllTo .locked d.h.src).armGrid
  else d

/-- SOURCE_READY_LOSS (R64, R66); the RCO is READY from reset (R62). -/
def sourceReadyLoss (src : Nat) (d : Dev) : Dev :=
  if src = 0 ∨ d.srcReady src = false then d
  else
    let d := { d with h := { d.h with ready := d.h.ready.set src false } }.house pgHSRC 0x3001 src
    let d := if src = d.h.src then
        match d.h.tpll with
        | .acquire => if d.h.everLocked then { d with h := { d.h with lostSrc := some src } }.tpllTo .holdover src else d.tpllTo .acquire 0
        | .locked => { d with h := { d.h with lostSrc := some src } }.tpllTo .holdover src
        | _ => d
      else d
    d.autoSelect

/-- SOURCE_READY_GAIN (R64). -/
def sourceReadyGain (src : Nat) (d : Dev) : Dev :=
  if 4 ≤ src ∨ d.srcReady src then d
  else ({ d with h := { d.h with ready := d.h.ready.set src true } }.house pgHSRC 0x3001 (src + 256)).autoSelect

/-- HOLD_BASE (R66): the OCXO when it is READY and not the lost source. -/
def Dev.holdBase (d : Dev) : Bool := d.h.tpll = .holdover && d.srcReady 1 && d.h.lostSrc != some 1

/-! ## RCO trimming (R68) -/

/-- The argument of 0x3030. -/
def Dev.trimArg (d : Dev) : Nat := d.im A.HRCO_STAT F.HRCO_STAT_TRIMMED + 2 * d.im A.HRCO_STAT F.HRCO_STAT_TRIM_LOST

/-- RCO_TRIM_GATE: one gate measured `ofs` in 0.01 ppm. -/
def rcoTrimGate (ofs : Int) (d : Dev) : Dev :=
  let src := d.im A.HRCO_CTRL F.HRCO_CTRL_TSRC
  if src = 0 ∨ 8 ≤ src then d
  else
    let o : Int := if ofs < -32768 then -32768 else if 32767 < ofs then 32767 else ofs
    let good := if ofs.natAbs ≤ 100 then d.h.trimGood + 1 else 0
    let d := { d with h := { d.h with trimGood := min good 3 } }.setIm A.HRCO_STAT F.HRCO_STAT_OFFSET (unsgn 16 o)
    if 3 ≤ good ∧ d.imb A.HRCO_STAT F.HRCO_STAT_TRIMMED = false then
      let d := d.setIm A.HRCO_STAT F.HRCO_STAT_TRIMMED 1
      d.house pgHSRC 0x3030 d.trimArg
    else d

/-- TRIM_SOURCE_LOSS: the RCO keeps its last trim. -/
def trimSourceLoss (d : Dev) : Dev :=
  let src := d.im A.HRCO_CTRL F.HRCO_CTRL_TSRC
  if src = 0 ∨ 8 ≤ src then d
  else
    let d := { d with h := { d.h with trimGood := 0 } }.setIm A.HRCO_STAT F.HRCO_STAT_TRIM_LOST 1
    d.house pgHSRC 0x3030 d.trimArg

/-- A write of HRCO_CTRL. -/
def writeHrcoCtrl (v : Word) (d : Dev) : Dev :=
  let t := fget v F.HRCO_CTRL_TSRC
  if t = 7 ∧ d.h.src = 0 then d.setIm A.HRCO_STAT F.HRCO_STAT_TRIM_REFUSED 1
  else { d with h := { d.h with trimGood := 0 } }.setIm A.HRCO_CTRL F.HRCO_CTRL_TSRC t

/-! ## The capture FIFO (R75) -/

/-- Inserts an entry: SRC, the bits of word 3 above it, INFO2 and the stamp. -/
def Dev.capInsert (d : Dev) (src info info2 stamp : Nat) : Dev :=
  let n := d.h.cap.length
  if 1024 ≤ n then
    ((d.incIm A.HCAP_LOST F.HCAP_LOST_LOST 1).item srcHouse stamp [opAdd 0x1C 1]).house pgHCAP 0x3019 src
  else
    let d := { d with h := { d.h with cap := d.h.cap ++ [fullTime stamp ++ [src + info + 2 ^ 31, info2 % 2 ^ 32]] } }
    if d.h.capArmed ∧ d.lv A.HCAP_CFG F.HCAP_CFG_THRESH ≤ n + 1 then
      { d with h := { d.h with capArmed := false } }.house pgHCAP 0x3018 (n + 1)
    else d

/-- CAPTURE_FIFO_POP: a read of HCAP_E3 (R75, R146). -/
def readCapE3 (m : Nat) (d : Dev) : Dev × Nat :=
  match d.h.cap with
  | [] => (d.setLatch (A.HCAP_E 0) m [0, 0, 0, 0, 0], 0)
  | e :: t =>
    let d := d.setLatch (A.HCAP_E 0) m e
    let d := if d.ownsReg m (A.HCAP_E 3) then
        let low := decide (t.length < d.lv A.HCAP_CFG F.HCAP_CFG_THRESH)
        { d with h := { d.h with cap := t, capArmed := d.h.capArmed || low } }
      else d
    (d, e.getD 3 0)

/-! ## House references (R76-R78) -/

/-- Private sums of a reference input's period deviations, beyond the record's published words: count, sum (offset
2^47), minimum and maximum are taken of a signed deviation. -/
def refSum (n : Nat) : Nat := 0x500000 + 16 * n

/-- Saturates a signed TU value to 32 bits. -/
def sat32i (x : Int) : Int := if x < -2147483648 then -2147483648 else if 2147483647 < x then 2147483647 else x

/-- Adds a period deviation to the record of input `n` (R77, R100). -/
def Dev.refPeriod (d : Dev) (n : Nat) (dev : Int) (t : Nat) : Dev :=
  let o := 0x20 + 32 * n
  let v := sat32i dev
  let cnt := d.recAt t (refSum n) 0
  let mn := sgn 32 (d.recAt t recHouse (o + 16))
  let mx := sgn 32 (d.recAt t recHouse (o + 20))
  let d := d.item srcHouse t [opSet (o + 16) (unsgn 32 (if cnt = 0 then v else min mn v)),
    opSet (o + 20) (unsgn 32 (if cnt = 0 then v else max mx v))]
  let d := d.item { srcHouse with base := refSum n } t [(0, (· + 1)), (4, (· + (v + 2 ^ 47).toNat))]
  let c := d.recAt t (refSum n) 0
  let sum : Int := (d.recAt t (refSum n) 4 : Int) - (c : Int) * 2 ^ 47
  d.item srcHouse t [opSet (o + 24) (unsgn 32 (sat32i (sum / max (c : Int) 1)))]

/-- The interval between two marks is the format's frame period to ±1 µs (R77). -/
def periodOk (f : Nat × Nat) (t0 t : Nat) : Bool :=
  decide ((((t : Int) - (t0 : Int)) * (f.1 : Int) - ((f.2 * secTU : Nat) : Int)).natAbs ≤ usTU * f.1)

/-- REF_FRAME_MARK (R77): `fmt` is the detected format, 0 where none is found. A mark of the input's format counts towards LOCK; one at another interval
from the mark before it begins the count anew (DEDUCED, log entry 85). -/
def refFrameMark (n fmt t : Nat) (d : Dev) : Dev :=
  if d.lvb (A.HREF_IN n) F.HREF_IN_EN = false then d
  else
    let d := d.advanceTo t
    let r := Tab.get d.h.refs {} n
    let want := d.lv (A.HREF_IN n) F.HREF_IN_FMT
    let f := fmtRate (if want = 0 then fmt else want)
    let hit := fmt != 0 && (want = 0 || want = fmt)
    let goes := match r.lastMark with | some t0 => periodOk f t0 t | none => false
    let good := if hit = false then 0 else if goes then min (r.good + 1) 8 else 1
    let lock := r.lock || decide (8 ≤ good)
    let frames := if lock && r.lock then (r.frames + 1) % 2 ^ 32 else 0
    let r' : RefIn := ⟨lock, good, 0, some t, fmt, frames⟩
    let d := { d with h := { d.h with refs := Tab.set d.h.refs n r' } }
    let d := if lock && !r.lock then d.houseAt pgHREF (0x3010 + n) 1 t else d
    let d := d.item srcHouse t [opAdd (0x20 + 32 * n) 1]
    let d := match r.lastMark with
      | some t0 => if f.1 = 0 then d else d.refPeriod n (((t : Int) - (t0 : Int)) - ((f.2 * secTU / f.1 : Nat) : Int)) t
      | none => d
    if bitOf (d.lv A.HCAP_CFG F.HCAP_CFG_EN_REF) n then d.capInsert (1 + n) (fmt % 16 * 256) frames t else d

/-- REF_MARK_MISSING (R77). -/
def refMarkMissing (n : Nat) (d : Dev) : Dev :=
  if d.lvb (A.HREF_IN n) F.HREF_IN_EN = false then d
  else
    let r := Tab.get d.h.refs {} n
    let miss := r.missing + 1
    let d := d.item srcHouse d.now [opAdd (0x24 + 32 * n) 1]
    if r.lock ∧ 2 ≤ miss then
      let d := { d with h := { d.h with refs := Tab.set d.h.refs n { r with lock := false, good := 0, missing := miss, det := 0, lastMark := none } } }
      (d.setIm (A.HREF_INSTAT n) F.HREF_INSTAT_LOST 1).house pgHREF (0x3010 + n) 0
    else { d with h := { d.h with refs := Tab.set d.h.refs n { r with missing := miss, good := 0 } } }

/-- PPS_IN_EDGE (R75). -/
def ppsInEdge (t : Nat) (d : Dev) : Dev :=
  if d.lvb A.HREF_PPS F.HREF_PPS_PPS_IN_EN ∧ d.lvb A.HCAP_CFG F.HCAP_CFG_EN_PPS then
    (d.advanceTo t).capInsert 5 0 0 t
  else d

/-- The earliest instant an output's next edge may have: the present one, or later than the output's last edge. -/
def Dev.edgeFrom (d : Dev) (k : Nat) : Int := max d.now (match Tab.get? d.h.outEdge k with | some t => t + 1 | none => 0)

/-- An output's edge at `t`. -/
def Dev.outputAt (d : Dev) (k t : Nat) (o : Output) : Dev :=
  { d.advanceTo t with h := { (d.advanceTo t).h with outEdge := Tab.set d.h.outEdge k t } }.emit o

/-- REF_OUTPUT_EDGE (R78): the output's next alignment point of the format plus HREF_OFS. The outputs follow the counter's value: an
edge whose value a backward step repeats is placed again, and one that a forward step passes over is not placed (DESIGN CHOICE,
log entry 86). -/
def refOutputEdge (n : Nat) (d : Dev) : Dev :=
  let w := d.lvW (A.HREF_OUT n)
  let f := fmtRate (fget w F.HREF_OUT_FMT)
  if fget w F.HREF_OUT_EN = 0 ∨ f.1 = 0 ∨ d.gate 19 = false then d
  else
    let ofs := sgn 32 (d.lv (A.HREF_OFS n) F.HREF_OFS_OFS)
    let p : Nat × Nat := (f.2, f.1)
    let t := gridPoint p (gridFrom p (d.edgeFrom n - ofs).toNat) + ofs
    d.outputAt n t.toNat (.refEdge n t.toNat)

/-- PPS_OUTPUT_EDGE (R78): the fall of a 1PPS that is high, WIDTH µs after its rise; else the output's next whole second, or whole
multiple of 100 ns, plus PPSOFS. As for REF_OUTPUT_EDGE, log entry 86. -/
def ppsOutputEdge (ten : Bool) (d : Dev) : Dev :=
  let en := if ten then d.lvb A.HREF_PPS F.HREF_PPS_M10_OUT_EN else d.lvb A.HREF_PPS F.HREF_PPS_PPS_OUT_EN
  if en = false ∨ d.gate 19 = false then d
  else match if ten then none else d.h.ppsFall with
    | some t => { d.advanceTo t with h := { (d.advanceTo t).h with ppsFall := none } }.emit (.ppsEdge false t false)
    | none =>
      let ofs := sgn 32 (d.lv A.HREF_PPSOFS F.HREF_PPSOFS_OFS)
      let unit : Int := if ten then 6553600 else secTU
      let t := ((d.edgeFrom (if ten then 5 else 4) - ofs + unit - 1) / unit * unit + ofs).toNat
      let d := d.outputAt (if ten then 5 else 4) t (.ppsEdge ten t true)
      if ten then d else { d with h := { d.h with ppsFall := some (t + d.lv A.HREF_PPS F.HREF_PPS_WIDTH * usTU) } }

/-! ## The timing ring (R84-R86) -/

/-- FLAGS[1] of a MARK: whether a step has been in the epoch in progress when the frame is sent (DESIGN CHOICE, log entry 87: R84 does
not say which epoch). -/
def Dev.timeStepped (d : Dev) : Bool := bitOf (d.acc d.sq.num 8) 1

/-- The code-groups of a frame: SOF, the octets of code-groups 1 to 45, their CRC-32C and EOF (R84). -/
def ringGroups (body : List Byte) : List CodeGroup :=
  .control 0x3C :: (body ++ leBytes 4 (crcOf 1 body)).map .data ++ [.control 0xFD]

/-- The octets of code-groups that are all data. -/
def dataOf : List CodeGroup → Option (List Byte)
  | [] => some []
  | .data b :: t => (dataOf t).map (b :: ·)
  | _ :: _ => none

/-- What a port makes of received code-groups (R84, R86): the octets of code-groups 1 to 45, or the kind of the fault: 2 a code violation
or an unknown type, 1 a CRC error. -/
def ringRead (gs : List CodeGroup) : Except Nat (List Byte) :=
  if gs.length ≠ 51 ∨ gs.head? ≠ some (.control 0x3C) ∨ gs.getLast? ≠ some (.control 0xFD) then .error 2
  else match dataOf (gs.tail.take 49) with
    | none => .error 2
    | some bs =>
      if leNat (bs.drop 45) ≠ crcOf 1 (bs.take 45) then .error 1
      else if byteAt bs 0 ≠ 0x11 then .error 2
      else .ok (bs.take 45)

/-- The fields of a frame's octets (R84). -/
def ringHops (b : List Byte) : Nat := byteAt b 1
def ringNode (b : List Byte) : Nat := leNat ((b.drop 3).take 2)
def ringTx (b : List Byte) : Nat := ofFullTime (leNat ((b.drop 21).take 4)) (leNat ((b.drop 25).take 4)) (leNat ((b.drop 29).take 4))
def ringCorr (b : List Byte) : Int := sgn 64 (leNat ((b.drop 33).take 8))

/-- The MARK frame that an origin sends with its SOF at the present instant (R84). -/
def Dev.ringMark (d : Dev) : List Byte :=
  let u := d.lvW A.HTIM_UTC
  let flags := b2n (d.h.tpll = .holdover) + 2 * b2n d.timeStepped + 4 * fget u F.HTIM_UTC_UTC_VALID +
    8 * fget u F.HTIM_UTC_LI61 + 16 * fget u F.HTIM_UTC_LI59
  let time (t : Nat) : List Byte := (fullTime t).flatMap (leBytes 4)
  [0x11, 0, BitVec.ofNat 8 flags] ++ leBytes 2 (d.lv A.HRING_CFG F.HRING_CFG_NODE_ID) ++ leBytes 4 (d.sq.num % 2 ^ 32) ++
    time d.sq.bnd ++ time d.now ++ leBytes 8 0 ++ leBytes 2 (fget u F.HTIM_UTC_UTC_OFFSET) ++ [0, 0]

/-- The counter runs to the next code-group slot of the ring that begins at or after the present instant: a slot is eight TPLL cycles
(R39, R85). -/
def Dev.toSlot (d : Dev) : Dev :=
  let c := if d.h.ctr < d.h.atTU * 65536 then d.h.cycle + 1 else d.h.cycle
  d.advanceCycle ((c + 7) / 8 * 8)

/-- RING_MARK_SEND (R85): an origin sends MARK once for each boundary, on both ports. -/
def ringMarkSend (d : Dev) : Dev :=
  if d.lv A.HRING_CFG F.HRING_CFG_ROLE ≠ 1 ∨ d.gate 18 = false ∨ d.sq.anyBoundary = false ∨ d.h.markSent = some d.sq.num then d
  else
    let d := d.toSlot
    let gs := ringGroups d.ringMark
    { d with h := { d.h with markSent := some d.sq.num } }.emit (.ring 0 gs) |>.emit (.ring 1 gs)

/-- A frame fault of the ring (R86). -/
def Dev.ringFault (d : Dev) (kind port : Nat) : Dev :=
  let fld := match kind with
    | 1 => F.HRING_STAT_CRC_ERR | 2 => F.HRING_STAT_UNKNOWN | 3 => F.HRING_STAT_OWN_ID | _ => F.HRING_STAT_FOREIGN
  (d.setIm A.HRING_STAT fld 1).house pgHRING 0x3022 (kind + port * 256)

/-- Forwards a frame as a member: CORR gains the residence time and the link delay, HOPS one, and the CRC is recomputed. The
residence lies between the 408 ns of the frame, which is checked whole, and 480 ns; the spec fixes it no further (free value,
log entry 2). -/
def Dev.ringForward (d : Dev) (port : Nat) (b : List Byte) : Dev :=
  let fr := d.fresh
  let res := 408 * nsTU + fr.1.toNat % (72 * nsTU + 1)
  let ld := d.lv (A.HRING_LDLY port) F.HRING_LDLY_LDLY
  let corr := unsgn 64 (ringCorr b + (res : Int) + (ld : Int))
  fr.2.emit (.ring port (ringGroups (putBytes (putBytes b 1 (leBytes 1 (ringHops b + 1))) 33 (leBytes 8 corr))))

/-- A ring entry of the capture FIFO. -/
def Dev.ringCapture (d : Dev) (src hops : Nat) (v : Int) (t : Nat) : Dev :=
  if d.lvb A.HCAP_CFG F.HCAP_CFG_EN_RING then
    d.capInsert src (hops % 256 * 256 + b2n (sat32i v != v) * 65536 * b2n (decide (src < 0x12))) (unsgn 32 (sat32i v)) t
  else d

/-- RING_FRAME_RECEIVE (R85, R86): code-groups whose SOF arrives at `t`. -/
def ringFrameReceive (port : Nat) (gs : List CodeGroup) (t : Nat) (d : Dev) : Dev :=
  let role := d.lv A.HRING_CFG F.HRING_CFG_ROLE
  if role = 2 ∨ role = 3 ∨ d.gate 18 = false then d
  else
    let d := d.advanceTo t
    match ringRead gs with
    | .error kind => (d.err 0x7000).ringFault kind port
    | .ok b =>
      let own := ringNode b = d.lv A.HRING_CFG F.HRING_CFG_NODE_ID
      if role = 0 then
        if own then (d.err 0x7000).ringFault 3 port
        else
          let ld := d.lv (A.HRING_LDLY port) F.HRING_LDLY_LDLY
          let d := d.ringCapture (0x10 + port) (ringHops b) ((t : Int) - (ld : Int) - ((ringTx b : Int) + ringCorr b)) t
          d.ringForward port b
      else if own then d.ringCapture (0x12 + port) (ringHops b) ((t : Int) - (ringTx b : Int) - ringCorr b) t
      else (d.ringForward port b).ringFault 4 port

/-- RING_LINK_CHANGE (R87). -/
def ringLinkChange (port : Nat) (up : Bool) (d : Dev) : Dev :=
  if d.h.linkUp.getD port false = up then d
  else { d with h := { d.h with linkUp := d.h.linkUp.set port up } }.house pgHRING (0x3020 + port) (b2n up)

/-- EPOCH_READ (R81): the epoch number, with the boundary instants latched. -/
def readEpoch (m : Nat) (d : Dev) : Dev × Nat :=
  ((d.setLatch (A.HEPC_BND 0) m (fullTime d.sq.bnd)).setLatch (A.HEPC_NXT 0) m (fullTime d.sq.nxt), d.sq.num % 2 ^ 32)

/-- A host read whose effect is a latch or a pop. -/
def Dev.hostReadBy (d : Dev) (m : Nat) (r : Dev → Dev × Nat) : Dev :=
  let x := r d
  x.1.answer m [x.2]

/-! ## The commands -/

/-- HEARTH_RUN -/
def execHearthRun (m : Nat) (v : Word) (s : State) : Res := onDev (htimCmd m v 1#32) s
/-- TSET_GO -/
def execTsetGo (m : Nat) (v : Word) (s : State) : Res := onDev (htimCmd m v 2#32) s
/-- STEP_GO: METHOD = STEP -/
def execStepGo (m : Nat) (v : Word) (s : State) : Res := onDev (htimCmd m (v &&& ~~~8#32) 4#32) s
/-- SLEW_GO: METHOD = SLEW -/
def execSlewGo (m : Nat) (v : Word) (s : State) : Res := onDev (htimCmd m v 12#32) s
/-- TSET_LOAD -/
def execTsetLoad (s : State) : Res := onDev tsetLoad s
/-- SLEW_COMPLETE -/
def execSlewComplete (s : State) : Res := onDev slewComplete s
/-- FTRIM_WRITE -/
def execFtrimWrite (m : Nat) (v : Word) (s : State) : Res := onDev (fun d => d.hostWrite m A.HTIM_FTRIM (writeFtrim v)) s
/-- NOW_READ -/
def execNowRead (m : Nat) (s : State) : Res := onDev (fun d => d.hostReadBy m (readNow m)) s
/-- SOURCE_SELECT -/
def execSourceSelect (m : Nat) (v : Word) (s : State) : Res := onDev (fun d => d.hostWrite m A.HSRC_SEL (writeHsrcSel v)) s
/-- HSRC_CFG_WRITE -/
def execHsrcCfgWrite (m : Nat) (v : Word) (s : State) : Res := onDev (fun d => d.hostWrite m A.HSRC_CFG (writeHsrcCfg v)) s
/-- TPLL_LOCK -/
def execTpllLock (s : State) : Res := onDev tpllLock s
/-- SOURCE_READY_LOSS -/
def execSourceReadyLoss (src : Nat) (s : State) : Res := onDev (sourceReadyLoss src) s
/-- SOURCE_READY_GAIN -/
def execSourceReadyGain (src : Nat) (s : State) : Res := onDev (sourceReadyGain src) s
/-- RCO_TRIM_GATE -/
def execRcoTrimGate (ofs : Int) (s : State) : Res := onDev (rcoTrimGate ofs) s
/-- TRIM_SOURCE_LOSS -/
def execTrimSourceLoss (s : State) : Res := onDev trimSourceLoss s
/-- HRCO_CTRL_WRITE -/
def execHrcoCtrlWrite (m : Nat) (v : Word) (s : State) : Res := onDev (fun d => d.hostWrite m A.HRCO_CTRL (writeHrcoCtrl v)) s
/-- CAPTURE_FIFO_POP -/
def execCaptureFifoPop (m : Nat) (s : State) : Res := onDev (fun d => d.hostReadBy m (readCapE3 m)) s
/-- CAP_LOST_READ -/
def execCapLostRead (m : Nat) (s : State) : Res := onDev (fun d => d.hostReadRC m A.HCAP_LOST 0xFFFFFFFF) s
/-- REF_FRAME_MARK -/
def execRefFrameMark (n fmt : Nat) (found : Bool) (t : Nat) (s : State) : Res := onDev (refFrameMark n (if found then fmt else 0) t) s
/-- REF_MARK_MISSING -/
def execRefMarkMissing (n : Nat) (s : State) : Res := onDev (refMarkMissing n) s
/-- PPS_IN_EDGE -/
def execPpsInEdge (t : Nat) (s : State) : Res := onDev (ppsInEdge t) s
/-- REF_OUTPUT_EDGE -/
def execRefOutputEdge (n : Nat) (s : State) : Res := onDev (refOutputEdge n) s
/-- PPS_OUTPUT_EDGE -/
def execPpsOutputEdge (ten : Bool) (s : State) : Res := onDev (ppsOutputEdge ten) s
/-- EPOCH_READ -/
def execEpochRead (m : Nat) (s : State) : Res := onDev (fun d => d.hostReadBy m (readEpoch m)) s
/-- RING_MARK_SEND -/
def execRingMarkSend (s : State) : Res := onDev ringMarkSend s
/-- RING_FRAME_RECEIVE -/
def execRingFrameReceive (port : Nat) (gs : List CodeGroup) (t : Nat) (s : State) : Res := onDev (ringFrameReceive port gs t) s
/-- RING_LINK_CHANGE -/
def execRingLinkChange (port : Nat) (up : Bool) (s : State) : Res := onDev (ringLinkChange port up) s

end Sys2Proof.Machine
end

