-- ==== Sys2Proof/Machine/Link.lean ====
section
/-! DEFINITION. Sending on the Zynjo link and the roles of paired pins (R409-R412, R418, R419, R422). -/
namespace Sys2Proof.Machine

/-- The sending priority of a payload while it waits (R411). -/
def flitPrio : FlitBody → Nat
  | .prepared .. | .decide .. | .decideAck .. | .refused .. | .withdrawn .. | .twinFail .. | .abort .. => 0
  | .joinReq _ | .joinOk _ | .pinState _ | .leave | .handover .. | .handoverAck _ => 1
  | .fault .. => 2
  | .response .. => 3
  | .access _ => 4
  | .pin .. => 5
  | .digest .. => 6
  | .xfeed .. => 7

/-! ## Flits as bytes (R409, R414) -/

/-- The 256 bytes of a flit: TYPE, FLAGS, SEQ, ACK, LEN, the payload with zeros after it, the CRC-64. -/
def flitBytes (ty seq ack : Nat) (payload : List Byte) : List Byte :=
  let b := [BitVec.ofNat 8 ty, 0] ++ leBytes 2 seq ++ leBytes 2 ack ++ leBytes 2 payload.length ++ payload ++ List.replicate (240 - payload.length) 0
  b ++ leBytes 8 (crcOf 3 b)

/-- The little-endian field of `n` bytes at byte `o` of a flit. -/
def flitField (bs : List Byte) (o n : Nat) : Nat := leNat ((bs.drop o).take n)

/-- A flit of a type whose CRC is right. -/
def flitIs (ty : Nat) (bs : List Byte) : Bool :=
  bs.length == 256 && flitField bs 0 1 % 16 == ty && flitField bs 248 8 == crcOf 3 (bs.take 248)

/-- The payload of a HEARTBEAT. -/
def Heartbeat.payload (h : Heartbeat) : List Byte :=
  leBytes 8 h.send ++ leBytes 8 h.echoSend ++ leBytes 8 h.echoArr ++ leBytes 4 h.epoch ++ leBytes 8 h.grid ++
  leBytes 1 (h.pair + b2n h.sideB * 8 + b2n h.run * 16 + b2n h.origin * 32 + b2n h.holdover * 64 + b2n h.pfw * 128) ++ leBytes 3 0 ++
  leBytes 32 (h.driving.foldl setBit 0)

/-- The heartbeat that a flit's bytes spell; none where they are no valid HEARTBEAT. -/
def heartbeatOf (bs : List Byte) : Option Heartbeat :=
  let st := flitField bs 44 1
  let drv := flitField bs 48 32
  if flitIs 1 bs then
    some { send := flitField bs 8 8, echoSend := flitField bs 16 8, echoArr := flitField bs 24 8, epoch := flitField bs 32 4
           grid := flitField bs 36 8, pair := st % 8, sideB := bitOf st 3, run := bitOf st 4, origin := bitOf st 5, holdover := bitOf st 6
           pfw := bitOf st 7, driving := (List.range 256).filter (bitOf drv) }
  else none

/-- Places a payload in the waiting list by priority. -/
def waitInsert : List FlitBody → FlitBody → List FlitBody
  | [], b => [b]
  | x :: t, b => if flitPrio b < flitPrio x then b :: x :: t else x :: waitInsert t b

/-- Numbers a payload, keeps it in the replay buffer and sends it while the link is UP (R411). -/
def Dev.flitOut (d : Dev) (b : FlitBody) : Dev :=
  let f : Flit := ⟨d.zyn.txSeq, b⟩
  let d := { d with zyn := { d.zyn with txSeq := (d.zyn.txSeq + 1) % 65536, replay := d.zyn.replay ++ [f] } }
  if d.zyn.link = .up then d.emit (.flit f d.zyn.rxSeq) else d

/-- Sends what waits while the replay buffer has room. -/
def Dev.drainWait (d : Dev) : List FlitBody → Dev
  | [] => { d with zyn := { d.zyn with waitq := [] } }
  | b :: t => if d.zyn.replay.length < 1024 then (d.flitOut b).drainWait t else { d with zyn := { d.zyn with waitq := b :: t } }

/-- Ends a master's mailbox read with a result (R431). -/
def Dev.mboxEnd (d : Dev) (m result : Nat) : Dev :=
  match Tab.get? d.zyn.mbox m with
  | none => d
  | some _ =>
    let d := { d with zyn := { d.zyn with mbox := Tab.del d.zyn.mbox m } }
    ((d.setPer A.ZYN_MSTAT m F.ZYN_MSTAT_STATE 2).setPer A.ZYN_MSTAT m F.ZYN_MSTAT_RESULT result).house pgZYN 0x330A (m + result * 256)

/-- What the loss of a sent payload does (R412): a write is a late fault LINK_LOST of its master, a read ends with
LINK_DOWN; the loss of a COMMIT flit is the loss of the link, which the caller settles. -/
def Dev.flushed (d : Dev) (b : FlitBody) : Dev :=
  match b with
  | .access a => if a.write then d.lateFault a.master 0 2 true a.bar2 a.num a.addr 0 else d.mboxEnd a.master 2
  | _ => d

/-- Sends a sequenced flit (R411, R412). A full replay buffer makes the sender wait, but an XFEED packet is discarded. -/
def Dev.sendFlit (d : Dev) (b : FlitBody) : Dev :=
  if d.zyn.dead then d.flushed b
  else if 1024 ≤ d.zyn.replay.length then
    match b with
    | .xfeed .. => d.incIm A.ZYN_XFDROP F.ZYN_XFDROP_COUNT 1
    | _ => { d with zyn := { d.zyn with waitq := waitInsert d.zyn.waitq b } }
  else d.flitOut b

/-- The role of a pin channel under a view: 0 SOLO, 1 PRIMARY, 2 SECONDARY (R418). -/
def roleOf (w : View) (pc : Nat) : Nat := w.f (A.ZYN_PROLE (pc / 16)) ⟨2 * (pc % 16), 2⟩

/-- The channel is paired. -/
def Dev.paired (d : Dev) (pc : Nat) : Bool := roleOf d.live pc != 0

/-- The channel is paired and the other side drives it, or neither: it holds cause 8 (R418). -/
def Dev.shadowed (d : Dev) (pc : Nat) : Bool := d.paired pc && !(d.zyn.driving.contains pc)

/-- The twin counts as present for commits while the pair is JOINED (R417). -/
def Dev.joined (d : Dev) : Bool := d.zyn.pair == .joined

def pairCode : PairSt → Nat
  | .solo => 0 | .joining => 1 | .joined => 2 | .suspect => 3 | .severed => 4 | .alone => 5

/-- Changes the state of the pair (R417). -/
def Dev.pairTo (d : Dev) (s : PairSt) : Dev :=
  if d.zyn.pair = s then d
  else { d with zyn := { d.zyn with pair := s } }.house pgZYN 0x3301 (pairCode s + 256 * pairCode d.zyn.pair)

/-- Sends a mirrored item while the pair is JOINED and this side drives the channel (R418). -/
def Dev.mirrorOut (d : Dev) (pc at_ : Nat) (it : PinItem) : Dev :=
  if d.joined && d.paired pc && d.zyn.driving.contains pc then d.sendFlit (.pin (shortOf at_) it) else d

/-- The first whole µs of the counter at least `n` µs after an instant. -/
def wholeUs (t n : Nat) : Nat := (t + n * usTU + (usTU - 1)) / usTU * usTU

/-- Starts a planned handover (R422): of the pairs driven that `sel` chooses, at the first whole µs at least 4 µs after
the trigger. -/
def Dev.startHandover (d : Dev) (trigger at_ : Nat) (sel : Nat → Bool) : Dev :=
  if d.zyn.ho.isSome then d.err 0x20000
  else
    let th := wholeUs at_ 4
    let mask := d.zyn.driving.filter sel
    { d with zyn := { d.zyn with ho := some ⟨th, mask, trigger, false⟩ } }.sendFlit (.handover (shortOf th) mask)

end Sys2Proof.Machine
end

