-- ==== Sys2Proof/Machine/CommitOps.lean ====
section
/-! DEFINITION. Commits, the power-fail warning, saves, snapshot pins and reads, publication (chapter Epochs, Snapshots
and Commits, R97-R129, R492). The check itself stands in Checks.lean, the boundary and the drain close in Boundary.lean. -/
namespace Sys2Proof.Machine

/-! ## The end of a commit (R114, R118, R119, R492) -/

def Dev.commitOf (d : Dev) (dom : Nat) : Commit := Tab.get d.sq.commits {} dom
def Dev.setCommit (d : Dev) (dom : Nat) (c : Commit) : Dev := { d with sq := { d.sq with commits := Tab.set d.sq.commits dom c } }

/-- The resulting values a commit's check used (R118): its pending bank over the house's pending bank it relied on, over the
live settings. -/
def Dev.resView (d : Dev) (dom : Nat) : View :=
  let own := Tab.get d.regs.pending [] dom
  let base := if (d.commitOf dom).relies.isSome then d.pendView houseDom else d.live
  fun a => (Tab.get? own a).getD (base a)

/-- The argument of 0x3108 and 0x3109. -/
def commitArg (status dom id : Nat) : Nat := status + dom * 256 + id % 2 ^ 15 * 2 ^ 17

/-- What a twinned commit's end sends to the twin (R114, R120). -/
def endFlit (c : Commit) (dom status : Nat) : Option FlitBody :=
  if c.twin = false then none
  else match status with
    | 1 => some (.refused dom c.target)
    | 4 | 6 => some (.withdrawn dom c.target)
    | 5 => if c.st = .locked then some (.abort dom c.target) else none
    | _ => none

/-- Ends the commit of one domain. -/
def Dev.endOne (d : Dev) (dom status : Nat) : Dev :=
  let c := d.commitOf dom
  if c.st = .idle then d
  else
    let c' := { c with st := .idle, decided := false, relies := none, teeth := [],
                       prepared := c.prepared.filter (fun l => l.headD 0 % 2 ^ 32 != c.target % 2 ^ 32),
                       lastStatus := status, lastId := c.id, lastEpoch := c.target }
    let d := { d with regs := { d.regs with pending := Tab.del d.regs.pending dom } }.setCommit dom c'
    let d := match endFlit c dom status with
      | some f => d.sendFlit f
      | none => d
    d.house pgHCOM 0x3108 (commitArg status dom c.id)

/-- Notes rule 0x1E as the failure of a domain's commit; the address it names is left open (free value). -/
def Dev.noteLost (d : Dev) (dom : Nat) : Dev :=
  let fr := d.fresh
  fr.2.setCommit dom { d.commitOf dom with firstRule := 0x1E, failCount := 1, flog := [(0x1E, fr.1.toNat % 2 ^ 32)] }

/-- Ends a domain's commit, and with a house commit that ends without APPLIED every commit whose check relied on it
(R118). -/
def Dev.endCommit (d : Dev) (dom status : Nat) : Dev :=
  let c := d.commitOf dom
  if c.st = .idle then d
  else
    let d := d.endOne dom status
    if dom = houseDom ∧ status ≠ 0 then
      let rel := (d.sq.commits.filter (fun e => e.1 != houseDom && e.2.st != .idle && e.2.relies == some c.id)).map (·.1)
      rel.foldl (fun d x => if status = 5 then d.endOne x 5 else (d.noteLost x).endOne x 1) d
    else d

/-- A change of owner of a domain (R114, R153). -/
def Dev.ownerChanged (d : Dev) (dom : Nat) : Dev :=
  match (d.commitOf dom).st with
  | .checking | .checked | .agreeing => d.endCommit dom 6
  | _ => d

/-! ## COMMIT and WITHDRAW -/

/-- Sets a master's HCOM_MYSTAT. -/
def Dev.myStat (d : Dev) (m status rule id : Nat) : Dev := d.setPerW A.HCOM_MYSTAT m (BitVec.ofNat 32 (status + rule * 256 + id * 65536))

/-- The lock instant of the next boundary, under the GUARD in force before it (R88, R89). -/
def Dev.lockAt (d : Dev) : Nat := d.sq.nxt - d.lv A.HCOM_CFG F.HCOM_CFG_GUARD * usTU

/-- The lock instant of the next boundary has passed. -/
def Dev.lockPassed (d : Dev) : Bool := d.sq.locked || (d.sq.armed && decide (d.lockAt ≤ d.now))

/-- The full number of the epoch a 32-bit target names (R15, R16). -/
def Dev.fullEpoch (d : Dev) (t32 : Nat) : Nat := ((d.sq.num : Int) + sgn 32 (unsgn 32 ((t32 : Int) - (d.sq.num : Int)))).toNat

/-- A target is too late at COMMIT (R114). -/
def Dev.tooLate (d : Dev) (t32 : Nat) : Bool :=
  !(laterMod 32 d.sq.num t32) || (d.fullEpoch t32 == d.sq.num + 1 && d.lockPassed)

/-- Whether a COMMIT of `dom` with a target freezes the register at `a` (R109, R110, R142). -/
def Dev.admits (d : Dev) (dom target a : Nat) : Bool :=
  let l := domOfAddr d d.live a
  if d.houseMoves then
    let p := domOfAddr d (d.pendView houseDom) a
    if l = p then l == .dom dom
    else
      let ht := (d.commitOf houseDom).target
      (l == .dom dom && decide (target < ht)) || (p == .dom dom && decide (ht ≤ target))
  else l == .dom dom

/-- A house COMMIT leaves out the fields of a resource that it itself moves away: the house holds it live, and the COMMIT's
target is not earlier than its own (R142, DEDUCED). -/
def Dev.withoutMoved (d : Dev) (bank : Tab Word) : Tab Word :=
  let w : View := fun a => match Tab.get? bank a with | some v => v | none => d.lvW a
  bank.filter (fun e => domOfAddr d w e.1 == .dom houseDom)

/-- The landing of a domain for a target (R110, R142). -/
def Dev.freeze (d : Dev) (dom target : Nat) : Tab Word :=
  let bank := d.regs.staged.filter (fun e => d.admits dom target e.1)
  if dom = houseDom then d.withoutMoved bank else bank

/-- The angle units whose tooth tables a COMMIT copies (R292): those of the domain that its settings enable. -/
def Dev.toothUnits (d : Dev) (dom target : Nat) : List Nat :=
  (List.range 8).filter (fun u => d.admits dom target (A.AU_TTADDR u) && fget (d.stg (A.AU_CFG u)) F.AU_CFG_EN == 1)

/-- A tooth table in the media store (R292). -/
def toothTable (mem : Mem) (a nt : Nat) : List Nat := (List.range nt).map (fun i => leNat (mem.bytes (a + 4 * i) 4))

/-- The house commit that the check of a commit of `dom` for a target relies on: one whose target is not later (R118). -/
def Dev.reliesOn (d : Dev) (dom target : Nat) : Option Commit :=
  let h := d.commitOf houseDom
  if dom ≠ houseDom ∧ h.st ≠ .idle ∧ h.target ≤ target then some h else none

/-- The checks in progress of rooms rely on a house commit just taken whose target is not later than theirs (R118). -/
def Dev.relyOn (d : Dev) (dom : Nat) : Dev :=
  if dom ≠ houseDom then d
  else { d with sq := { d.sq with commits := d.sq.commits.map (fun e =>
    (e.1, if e.2.st = .checking then { e.2 with relies := (d.reliesOn e.1 e.2.target).map (·.id) } else e.2)) } }

/-- Takes a COMMIT whose form and owner are right (R110, R112, R114, R124, R492). -/
def Dev.takeCommit (d : Dev) (mem : Mem) (m dom : Nat) (twin : Bool) : Dev :=
  let t32 := d.per A.HCOM_TARGET m F.HCOM_TARGET_EPOCH
  if d.sq.pfwActive then d.myStat m 5 0 0
  else if (d.commitOf dom).st = .locked then d.myStat m 1 5 0
  else
    let d := d.endCommit dom 4
    if d.tooLate t32 then d.myStat m 3 0 0
    else
      let target := d.fullEpoch t32
      let id := d.sq.nextId
      let bank := d.freeze dom target
      let teeth := (d.toothUnits dom target).map (fun u =>
        (u, toothTable mem (d.stg (A.AU_TTADDR u)).toNat (fget (d.stg (A.AU_GEOM u)) F.AU_GEOM_NT)))
      let c := d.commitOf dom
      let relies := (d.reliesOn dom target).map (·.id)
      let d := { d with sq := { d.sq with nextId := if id = 65535 then 1 else id + 1 },
                        regs := { d.regs with pending := Tab.set d.regs.pending dom bank } }
      (d.setCommit dom { c with st := .checking, id := id, target := target, twin := twin, master := m,
                                decided := false, relies := relies, teeth := teeth }).relyOn dom |>.myStat m 0xFE 0 id

/-- A write of HCOM_CMD (R112-R114, R492). -/
def writeHcomCmd (m : Nat) (v : Word) (mem : Mem) (d : Dev) : Dev :=
  let dom := fget v F.HCOM_CMD_DOMAIN
  let com := fget v F.HCOM_CMD_COMMIT = 1
  let wd := fget v F.HCOM_CMD_WITHDRAW = 1
  if houseDom < dom ∨ (com ∧ wd) then d.err 0x9000
  else if d.owns m dom = false then (if com ∨ wd then d.myStat m 6 0 0 else d)
  else if com then d.takeCommit mem m dom (fget v F.HCOM_CMD_TWIN == 1)
  else if wd then
    let c := d.commitOf dom
    match c.st with
    | .checking | .checked | .agreeing => (d.endCommit dom 4).myStat m 4 0 c.id
    | _ => d
  else d

/-- The word of a COMMIT or WITHDRAW. -/
def hcomWord (dom : Nat) (twin : Bool) (bit : Nat) : Word := BitVec.ofNat 32 (dom % 512 + b2n twin * 512 + 2 ^ bit)

/-! ## The lock instant (R88, R114) -/

/-- What the lock instant does to one domain's commit. -/
def Dev.lockOne (d : Dev) (dom : Nat) : Dev :=
  let c := d.commitOf dom
  if c.target ≠ d.sq.num + 1 then d
  else match c.st with
    | .checked => (d.setCommit dom { c with st := .locked }).house pgHCOM 0x3109 (commitArg 0 dom c.id)
    | .agreeing => d.endCommit dom 2
    | .checking => d.endCommit dom 3
    | _ => d

/-- The lock instant: the house first, then the rooms in ascending order; a held PREPARED for the target is dropped (R426). -/
def Dev.lockAll (d : Dev) : Dev :=
  let doms := houseDom :: (d.sq.commits.map (·.1)).filter (· != houseDom)
  let d := doms.foldl (fun d x => d.lockOne x) d
  let drop (c : Commit) : Commit := { c with prepared := c.prepared.filter (fun l => laterMod 32 (d.sq.num + 1) (l.headD 0)) }
  { d with sq := { d.sq with locked := true, commits := d.sq.commits.map (fun e => (e.1, drop e.2)) } }

/-- LOCK_INSTANT -/
def lockInstant (d : Dev) : Dev :=
  if d.sq.armed = false ∨ d.sq.locked then d else (d.advanceTo d.lockAt).lockAll

/-! ## The power-fail warning (R114, R124) -/

/-- What PFW_N does to one domain's commit. -/
def Dev.pfwOne (d : Dev) (t dom : Nat) : Dev :=
  match (d.commitOf dom).st with
  | .idle => d
  | .locked => if d.sq.nxt < t + 5 * usTU then d else d.endCommit dom 5
  | _ => d.endCommit dom 5

/-- PFW_ASSERT -/
def pfwAssert (t : Nat) (d : Dev) : Dev :=
  if d.sq.pfwLow then d
  else
    let d := d.advanceTo t
    let d := { d with sq := { d.sq with pfwLow := true, pfwActive := true } }.setIm A.HCOM_PFW F.HCOM_PFW_SEEN 1
    let d := ((d.hdrFlag d.sq.num 10).count recHouse [opAdd 0xA4 1]).house pgHCOM 0x3111 1
    let d := (d.sq.commits.map (·.1)).foldl (fun d x => d.pfwOne t x) d
    let d := if d.sq.saving then
        ({ d with sq := { d.sq with saving := false } }.setIm A.HCOM_SAVE F.HCOM_SAVE_ABANDONED 1).house pgHCOM 0x3112 1
      else d
    if d.joined then d.startHandover 3 t (fun _ => true) else d

/-- PFW_DEASSERT -/
def pfwDeassert (t : Nat) (d : Dev) : Dev :=
  if d.sq.pfwLow = false then d
  else
    let d := d.advanceTo t
    { d with sq := { d.sq with pfwLow := false, pfwEnd := t + 1000 * usTU } }.house pgHCOM 0x3111 0

/-- PFW_WINDOW_END -/
def pfwWindowEnd (d : Dev) : Dev :=
  if d.sq.pfwLow ∨ d.sq.pfwActive = false then d
  else
    let d := d.advanceTo d.sq.pfwEnd
    { d with sq := { d.sq with pfwActive := false } }

/-! ## Saved settings (R125, R126) -/

/-- The body of a slot: address and value of each setting, little-endian (DESIGN CHOICE, log entry 96: the spec gives the body no
layout). -/
def FlashSlot.body (f : FlashSlot) : List Byte := f.words.flatMap (fun e => leBytes 4 e.1 ++ leBytes 4 e.2.toNat)

/-- The bytes of the header that its CRC covers: 0-11 and 16-63. -/
def FlashSlot.head (f : FlashSlot) : List Byte := leBytes 4 f.seq ++ leBytes 4 f.length ++ leBytes 4 f.epoch ++ List.replicate 48 0

/-- The header's 64 bytes. -/
def FlashSlot.header (f : FlashSlot) : List Byte := f.head.take 12 ++ leBytes 4 f.crc ++ f.head.drop 12

/-- The CRC of a slot: CRC-32C over the body, then the header but for the CRC. -/
def FlashSlot.sum (f : FlashSlot) : Nat := crcOf 1 (f.body ++ f.head)

/-- The slot as it is programmed. -/
def FlashSlot.sealed (f : FlashSlot) : FlashSlot :=
  let f := { f with length := f.body.length }
  { f with crc := f.sum }

/-- A slot is valid when its CRC is correct (R126). -/
def FlashSlot.valid (f : FlashSlot) : Bool := f.crc == f.sum

/-- The slot that R126 would load: `false` A, `true` B. -/
def Dev.flashInUse (d : Dev) : Option (Bool × FlashSlot) :=
  match d.sq.flashA.filter (·.valid), d.sq.flashB.filter (·.valid) with
  | some a, some b => if laterMod 32 a.seq b.seq then some (true, b) else some (false, a)
  | some a, none => some (false, a)
  | none, some b => some (true, b)
  | none, none => none

/-- A write of HCOM_SAVE (R124, R125): the target slot is erased at the start. -/
def writeHcomSave (v : Word) (d : Dev) : Dev :=
  let old := d.immW A.HCOM_SAVE
  let d := d.setImmW A.HCOM_SAVE (old &&& ~~~(v &&& 0x1C#32))
  if fget v F.HCOM_SAVE_SAVE_GO = 0 ∨ d.sq.saving ∨ d.sq.pfwActive then d
  else
    let use := d.flashInUse
    let b := match use with | some (x, _) => !x | none => false
    let seq := match use with | some (_, f) => (f.seq + 1) % 2 ^ 32 | none => 1
    let q := { d.sq with saving := true, saveB := b, saveBuf := { seq := seq, epoch := d.sq.num % 2 ^ 32, words := d.regs.live : FlashSlot }.sealed }
    { d with sq := if b then { q with flashB := none } else { q with flashA := none } }

/-- SAVE_COMPLETE -/
def saveComplete (ok : Bool) (d : Dev) : Dev :=
  if d.sq.saving = false then d
  else
    let q := { d.sq with saving := false }
    let d := { d with sq := if ok then (if q.saveB then { q with flashB := some q.saveBuf } else { q with flashA := some q.saveBuf }) else q }
    let d := d.setIm A.HCOM_SAVE F.HCOM_SAVE_SLOT (b2n q.saveB)
    if ok then (d.setIm A.HCOM_SAVE F.HCOM_SAVE_DONE 1).house pgHCOM 0x3112 0
    else (d.setIm A.HCOM_SAVE F.HCOM_SAVE_FAIL 1).house pgHCOM 0x3112 2

/-- A write of HCOM_LFACK (R128). -/
def writeHcomLfack (v : Word) (d : Dev) : Dev := if fget v F.HCOM_LFACK_ACK = 1 then d.setBlocked false else d

/-! ## Slots and pins (R101-R108) -/

def Dev.slotOf (d : Dev) (s : Nat) : Slot := Tab.get d.sq.slots {} s
def Dev.pinOf (d : Dev) (m : Nat) : Pin := Tab.get d.sq.pins {} m
def Dev.setPin (d : Dev) (m : Nat) (p : Pin) : Dev := { d with sq := { d.sq with pins := Tab.set d.sq.pins m p } }

/-- Some master pins a slot. -/
def Dev.slotPinned (d : Dev) (s : Nat) : Bool := d.sq.pins.any (fun e => e.2.held && e.2.slot == s)

/-- The filling slot (R101): an EMPTY one, else the oldest, among those neither CURRENT nor pinned nor FILLING; of several EMPTY ones
that of the lowest number (DESIGN CHOICE, log entry 97). -/
def Dev.chooseSlot (d : Dev) : Option Nat :=
  let ok := (List.range 4).filter (fun s => d.sq.cur != some s && !(d.slotPinned s) && (d.slotOf s).st != .filling)
  match ok.find? (fun s => (d.slotOf s).st == .empty) with
  | some s => some s
  | none => ok.foldl (fun b s => match b with
      | none => some s
      | some x => if (d.slotOf s).epoch < (d.slotOf x).epoch then some s else some x) none

/-- The first publication waiting takes a slot when one qualifies (R101). -/
def Dev.startPub (d : Dev) : Dev :=
  match d.sq.pubs with
  | p :: t =>
    if p.slot.isSome then d
    else match d.chooseSlot with
      | some s => { d with sq := { d.sq with pubs := { p with slot := some s } :: t,
                                             slots := Tab.set d.sq.slots s { d.slotOf s with st := .filling, epoch := p.epoch } } }
      | none => d
  | [] => d

/-- A write of a master's HSNP_PIN (R106). -/
def writeHsnpPin (m : Nat) (v : Word) (d : Dev) : Dev :=
  let pin := fget v F.HSNP_PIN_PIN = 1
  let unpin := fget v F.HSNP_PIN_UNPIN = 1
  if pin ∧ unpin then d.err 0x8000
  else
    let p := d.pinOf m
    let p := { p with refused := p.refused && fget v F.HSNP_PIN_PIN_REFUSED == 0, lapsed := p.lapsed && fget v F.HSNP_PIN_PIN_LAPSED == 0 }
    if pin then
      match d.sq.cur with
      | none => d.setPin m { p with refused := true }
      | some c =>
        let others := (d.sq.pins.filter (fun e => e.1 != m && e.2.held)).map (·.2.slot)
        if 2 < (c :: others).eraseDups.length then d.setPin m { p with refused := true }
        else (d.setPin m { p with held := true, slot := c, epoch := (d.slotOf c).epoch, age := 0 }).startPub
    else if unpin then (d.setPin m { p with held := false, slot := 0, epoch := 0, age := 0 }).startPub
    else d.setPin m p

/-- The records of a slot: base of the record that holds an offset, and 1,024-byte and other strides (R97). -/
def recBase (off : Nat) : Option Nat :=
  if off < 0x1000 then none
  else if off < 0x2000 then some 0x1000
  else if off < 0x4000 then some (off / 0x800 * 0x800)
  else if off < 0x10000 then none
  else if off < 0x51000 then some (off / 0x400 * 0x400)
  else if off < 0x80000 then none
  else if off < 0xC0000 then some (off / 0x400 * 0x400)
  else if off < 0xC8000 then some (off / 0x1000 * 0x1000)
  else if off < 0xD0000 then none
  else if off < 0xE0000 then some (off / 0x100 * 0x100)
  else if off < 0x800000 then none
  else if off < 0x1000000 then some (off / 0x100 * 0x100)
  else none

/-- The tile a record belongs to (R358). -/
def recTileOf (b : Nat) : Option Nat :=
  if 0x10000 ≤ b ∧ b < 0x51000 then some ((b - 0x10000) / 0x400)
  else if 0xD0000 ≤ b ∧ b < 0xE0000 then some (256 + (b - 0xD0000) / 0x100 / 64)
  else if 0x800000 ≤ b then some ((b - 0x800000) / 0x100 / 128)
  else none

/-- The room in a record's header, 0 for the house (R98). -/
def recRoomOf (w : View) (b : Nat) : Nat :=
  let h :=
    if 0x800000 ≤ b then fcHolder w ((b - 0x800000) / 0x100)
    else if 0xD0000 ≤ b then pcHolder w ((b - 0xD0000) / 0x100)
    else if 0xC0000 ≤ b then auHolder w ((b - 0xC0000) / 0x1000)
    else if 0x80000 ≤ b then (b - 0x80000) / 0x400
    else if 0x10000 ≤ b then wholeHolder w ((b - 0x10000) / 0x400)
    else houseDom
  if h < 256 then h else 0

/-- Whether a resource was in use in the epoch (R98): a channel or unit its settings turn on, a room with a share, with an owner
at its end or with anything counted, a tile that was online or worked; the house and the quadrants always. -/
def recActive (w : View) (s : Slot) (b : Nat) : Bool :=
  if 0x800000 ≤ b then w.f (A.FCH_MODE ((b - 0x800000) / 0x100)) F.FCH_MODE_DIR != 0
  else if 0xD0000 ≤ b then w.f (A.PCH_MODE ((b - 0xD0000) / 0x100)) F.PCH_MODE_MODE != 0
  else if 0xC0000 ≤ b then w.b (A.AU_CFG ((b - 0xC0000) / 0x1000)) F.AU_CFG_EN
  else if 0x80000 ≤ b then
    s.words.any (fun e => decide (b ≤ e.1) && decide (e.1 < b + 0x400) && e.2 != 0) || s.bank.any (fun e => match pageOf e.1 with
      | .hras _ => fget e.2 F.HRAS_SHA_EN == 1 && fget e.2 F.HRAS_SHA_ROOM == (b - 0x80000) / 0x400
      | _ => false)
  else if 0x10000 ≤ b then s.words.any (fun e => e.1 == recOnline ((b - 0x10000) / 0x400) || (decide (b + 0x10 ≤ e.1) && decide (e.1 < b + 0x400) && e.2 != 0))
  else true

/-- Word `off` of a published slot (R98, R99): what was published, and the common header of every record. -/
def slotWord (n : Nat) (s : Slot) (off : Nat) : Nat :=
  let raw := if 0x200000 ≤ off ∧ off < 0x800000 then 0 else Tab.get s.words 0 off
  match recBase off with
  | none => if off = 0 then s.epoch % 2 ^ 32 else if off = 4 then 2 + 4 * n else raw
  | some b =>
    let w : View := fun a => (Tab.get? s.bank a).getD (resetWord false a)
    if off = b then s.epoch % 2 ^ 32
    else if off = b + 4 then
      let offl := match recTileOf b with
        | some T => if Tab.get s.words 0 (recOnline T) = 1 then 0 else 16
        | none => 0
      (raw ||| b2n (recActive w s b) ||| offl) + recRoomOf w b * 65536
    else if off = b + 8 then raw ||| (recTileOf b).getD 0x1FF
    else raw

/-- A word of slot `n` as a read meets it now (R103). -/
def Dev.readSlot (d : Dev) (n off : Nat) : Nat :=
  let s := d.slotOf n
  match s.st with
  | .empty => 0
  | .filling => if off = 4 then 1 + 4 * n else 0xFFFFFFFF
  | .published => slotWord n s off

/-- Counts `k` reads of a FILLING slot for a master (R103); an engine's read is no master's. -/
def Dev.straddle (d : Dev) (m n k : Nat) : Dev :=
  if (d.slotOf n).st = .filling ∧ m < 8 then
    d.setPer A.HSNP_STRADDLE m F.HSNP_STRADDLE_COUNT (sat 32 (d.per A.HSNP_STRADDLE m F.HSNP_STRADDLE_COUNT + k))
  else d

/-- SNAPSHOT_READ: `len` bytes of a slot's window, in parts of 512 bytes, each a read of its own (R103, R133; DESIGN
CHOICE, log entry 98: nothing falls between the parts of one command, so a request whose parts meet two slots is a
command for each part). -/
def snapshotRead (m slot off len : Nat) (d : Dev) : Dev :=
  (d.straddle m slot ((len + 511) / 512)).answer m ((List.range (len / 4)).map (fun i => d.readSlot slot (off + 4 * i)))

/-- A master's read of its HSNP_STRADDLE (R103, R113, R146). -/
def readStraddle (m : Nat) (d : Dev) : Dev × Nat := (d.setPerW A.HSNP_STRADDLE m 0, (d.perW A.HSNP_STRADDLE m).toNat)

/-! ## Publication (R88, R91, R99, R101) -/

/-- The words of an epoch's accumulators, by slot offset. -/
def Dev.accWords (d : Dev) (e : Nat) : Tab Nat :=
  (d.sq.acc.filter (fun x => x.1 / 2 ^ 24 == e)).map (fun x => (x.1 % 2 ^ 24, x.2))

/-- The placement words of the channels that migrations moved (R358). -/
def Dev.placeWords (d : Dev) (e : Nat) (ws : Tab Nat) : Tab Nat :=
  d.mig.foldl (fun ws x =>
    let moved := if x.2.2.2 % 2 = 0 then (if x.2.2.1 = e + 1 then 2 ^ 25 else 0) else if x.2.2.1 = e then 2 ^ 26 else 0
    Tab.set ws (recFc x.1 + 8) (x.2.1 * 512 + 2 ^ 24 + moved)) ws

/-- PUBLICATION_COMPLETE -/
def publicationComplete (d : Dev) : Dev :=
  match d.sq.pubs with
  | p :: rest =>
    match p.slot, p.closed with
    | some s, true =>
      let e := p.epoch
      let seq := (d.sq.pubSeq + 1) % 2 ^ 32
      let ws := d.placeWords e (d.accWords e)
      let ws := Tab.set (Tab.set (Tab.set ws 0x1C seq) 0x40 (d.now % 2 ^ 32)) 0x44 (d.now / 2 ^ 32 % 2 ^ 32)
      let ovr := bitOf (Tab.get ws 0 8) 7
      let spill := Tab.get ws 0 0xC
      let d := { d with sq := { d.sq with pubSeq := seq, pubs := rest, cur := some s,
                                          slots := Tab.set d.sq.slots s ⟨.published, e, ws, p.bank⟩,
                                          acc := d.sq.acc.filter (fun x => x.1 / 2 ^ 24 != e) } }
      let d := d.house pgHSNP 0x3102 e
      let d := if 0 < spill then d.house pgHSNP 0x3103 spill else d
      let d := if ovr then d.house pgHSNP 0x3104 e else d
      d.startPub
    | _, _ => d
  | [] => d

/-! ## The commands -/

/-- LOCK_INSTANT -/
def execLockInstant (s : State) : Res := onDev lockInstant s
/-- PUBLICATION_COMPLETE -/
def execPublicationComplete (s : State) : Res := onDev publicationComplete s
/-- SNAPSHOT_READ -/
def execSnapshotRead (m slot off len : Nat) (s : State) : Res := onDev (snapshotRead m slot off len) s
/-- SNAPSHOT_PIN -/
def execSnapshotPin (m : Nat) (s : State) : Res := onDev (fun d => d.hostWrite m A.HSNP_PIN (writeHsnpPin m 1#32)) s
/-- SNAPSHOT_UNPIN -/
def execSnapshotUnpin (m : Nat) (s : State) : Res := onDev (fun d => d.hostWrite m A.HSNP_PIN (writeHsnpPin m 2#32)) s
/-- STRADDLE_READ -/
def execStraddleRead (m : Nat) (s : State) : Res := onDev (fun d => d.hostReadBy m (readStraddle m)) s
/-- COMMIT -/
def execCommit (m dom : Nat) (twin : Bool) (s : State) : Res :=
  onMem (fun d mem => (d.hostWrite m A.HCOM_CMD (writeHcomCmd m (hcomWord dom twin 10) mem), [])) s
/-- WITHDRAW -/
def execWithdraw (m dom : Nat) (s : State) : Res :=
  onMem (fun d mem => (d.hostWrite m A.HCOM_CMD (writeHcomCmd m (hcomWord dom false 11) mem), [])) s
/-- PFW_ASSERT -/
def execPfwAssert (t : Nat) (s : State) : Res := onLevel (pfwAssert t) (fun d => { d with sq := { d.sq with pfwLow := true, pfwActive := true } }) s
/-- PFW_DEASSERT -/
def execPfwDeassert (t : Nat) (s : State) : Res :=
  onLevel (pfwDeassert t) (fun d => { d with sq := { d.sq with pfwLow := false, pfwEnd := t + 1000 * usTU } }) s
/-- PFW_WINDOW_END -/
def execPfwWindowEnd (s : State) : Res :=
  onLevel pfwWindowEnd (fun d => { d with sq := { d.sq with pfwActive := d.sq.pfwLow } }) s
/-- SAVE_GO -/
def execSaveGo (m : Nat) (s : State) : Res := onDev (fun d => d.hostWrite m A.HCOM_SAVE (writeHcomSave 1#32)) s
/-- SAVE_COMPLETE -/
def execSaveComplete (ok : Bool) (s : State) : Res := onDev (saveComplete ok) s
/-- LFACK -/
def execLfack (m : Nat) (s : State) : Res := onDev (fun d => d.hostWrite m A.HCOM_LFACK (writeHcomLfack 1#32)) s

end Sys2Proof.Machine
end

