-- ==== Sys2Proof/Machine/Ownership.lean ====
section
/-! DEFINITION. Election, handover and liveness of owners (chapter Control Ports, Ownership and Register Pages,
R147-R153, R159). -/
namespace Sys2Proof.Machine

def Dev.ownEnt (d : Dev) (dom : Nat) : Own := Tab.get d.own {} dom
def Dev.setOwn (d : Dev) (dom : Nat) (o : Own) : Dev := { d with own := Tab.set d.own dom o }

/-- Sets a master's HOWN_MYSTAT: 0 DONE, 1 PENDING, 2 OWNED_ALREADY, 3 LOST, 4 NOT_OWNER, 5 EXPIRED, 6 BAD_REQUEST. -/
def Dev.ownStat (d : Dev) (m result dom : Nat) : Dev := d.setPerW A.HOWN_MYSTAT m (BitVec.ofNat 32 (result + dom % 512 * 256))

/-- The pulse 0x3400 (R159). -/
def Dev.ownPulse (d : Dev) (dom owner : Nat) (owned : Bool) (cause : Nat) : Dev :=
  d.house pgHOWN 0x3400 (dom + owner * 512 + b2n owned * 4096 + cause * 8192)

/-- A domain gets an owner: baseline, stale count 0, its unlocked commit ends (R149, R153). -/
def Dev.giveTo (d : Dev) (dom m prio cause : Nat) : Dev :=
  let base := (d.immW (A.HOWN_ALIVE dom)).toNat
  ((d.setOwn dom { st := .owned, owner := m, prio := prio, base := base }).ownerChanged dom).ownPulse dom m true cause

/-- A domain loses its owner. -/
def Dev.unown (d : Dev) (dom cause : Nat) : Dev :=
  let o := d.ownEnt dom
  ((d.setOwn dom {}).ownerChanged dom).ownPulse dom o.owner false cause

/-- The leader among the claimants (R147): the highest priority, then the lower master. -/
def leaderOf (claims : Tab Nat) : Option (Nat × Nat) :=
  claims.foldl (fun b e => match b with
    | none => some e
    | some x => if x.2 < e.2 then some e else some x) none

/-- ELECTION_END: the window's end. -/
def electionEnd (dom : Nat) (d : Dev) : Dev :=
  let o := d.ownEnt dom
  if o.st ≠ .electing then d
  else
    let d := d.advanceCycle o.winEnd
    match leaderOf o.claims with
    | none => d
    | some (m, prio) =>
      let d := (o.claims.filter (fun e => e.1 != m)).foldl (fun d e => d.ownStat e.1 3 dom) d
      (d.ownStat m 0 dom).giveTo dom m prio 0

/-- HANDOVER_DEADLINE: the offer expires. -/
def handoverDeadline (dom : Nat) (d : Dev) : Dev :=
  let o := d.ownEnt dom
  if o.st ≠ .offered then d
  else
    let d := d.advanceCycle o.deadline
    ((d.setOwn dom { o with st := .owned, target := 0, deadline := 0 }).ownStat o.owner 5 dom).house pgHOWN 0x3403 dom

/-- A window or a deadline that has passed takes effect before a later request of the domain is judged. -/
def Dev.ownDue (d : Dev) (dom : Nat) : Dev :=
  let o := d.ownEnt dom
  match o.st with
  | .electing => if o.winEnd < d.h.cycle then electionEnd dom d else d
  | .offered => if o.deadline ≤ d.h.cycle then handoverDeadline dom d else d
  | _ => d

/-- CLAIM (R147, R152). -/
def Dev.doClaim (d : Dev) (m dom prio : Nat) : Dev :=
  let o := d.ownEnt dom
  match o.st with
  | .unowned =>
    ((d.setOwn dom { st := .electing, claims := [(m, prio)], winEnd := d.h.cycle + 100000 }).ownStat m 1 dom).house pgHOWN 0x3401 dom
  | .electing => (d.setOwn dom { o with claims := Tab.set o.claims m prio }).ownStat m 1 dom
  | _ => d.ownStat m 2 dom

/-- HANDOVER (R150, R152). -/
def Dev.doHandover (d : Dev) (m dom target : Nat) : Dev :=
  let o := d.ownEnt dom
  if d.owns m dom = false then d.ownStat m 4 dom
  else if target = m then d.ownStat m 6 dom
  else
    ((d.setOwn dom { o with st := .offered, target := target, deadline := d.h.cycle + 1000000 }).ownStat m 1 dom).house pgHOWN 0x3402
      (dom + target * 512)

/-- ACCEPT (R150, R152). -/
def Dev.doAccept (d : Dev) (m dom prio : Nat) : Dev :=
  let o := d.ownEnt dom
  if o.st = .offered ∧ o.target = m then ((d.ownStat o.owner 0 dom).ownStat m 0 dom).giveTo dom m prio 1
  else d.ownStat m 6 dom

/-- RELEASE (R151, R152). -/
def Dev.doRelease (d : Dev) (m dom : Nat) : Dev :=
  if d.owns m dom then (d.ownStat m 0 dom).unown dom 2 else d.ownStat m 4 dom

/-- FORCE_LAPSE (R151, R152). -/
def Dev.doForce (d : Dev) (m dom : Nat) : Dev :=
  let o := d.ownEnt dom
  if d.owns m houseDom = false then d.ownStat m 4 dom
  else if dom = houseDom then d.ownStat m 6 dom
  else match o.st with
    | .unowned => d.ownStat m 0 dom
    | .electing =>
      let d := o.claims.foldl (fun d e => d.ownStat e.1 3 dom) d
      ((d.setOwn dom {}).ownStat m 0 dom).ownPulse dom 0 false 4
    | _ => (d.ownStat m 0 dom).unown dom 4

/-- A write of HOWN_REQ (R152). -/
def writeHownReq (m : Nat) (v : Word) (d : Dev) : Dev :=
  let dom := fget v F.HOWN_REQ_DOMAIN
  let prio := fget v F.HOWN_REQ_PRIO
  let c := fget v F.HOWN_REQ_CLAIM
  let h := fget v F.HOWN_REQ_HANDOVER
  let a := fget v F.HOWN_REQ_ACCEPT
  let r := fget v F.HOWN_REQ_RELEASE
  let f := fget v F.HOWN_REQ_FORCE_LAPSE
  if houseDom < dom ∨ c + h + a + r + f ≠ 1 then d.ownStat m 6 dom
  else
    let d := d.ownDue dom
    if c = 1 then d.doClaim m dom prio
    else if h = 1 then d.doHandover m dom (fget v F.HOWN_REQ_TARGET)
    else if a = 1 then d.doAccept m dom prio
    else if r = 1 then d.doRelease m dom
    else d.doForce m dom

/-- The word of a request. -/
def hownWord (dom prio target bit : Nat) : Word :=
  BitVec.ofNat 32 (dom % 512 + prio % 16 * 2 ^ 12 + target % 8 * 2 ^ 16 + 2 ^ bit)

/-- A request by a write of HOWN_REQ. -/
def ownReq (m : Nat) (v : Word) (d : Dev) : Dev := d.hostWrite m A.HOWN_REQ (writeHownReq m v)

/-- The alive counters at a boundary, after the switch (R149): each owned domain in ascending order. -/
def Dev.aliveCheck (d : Dev) : Dev :=
  d.own.foldl (fun d e =>
    let o := d.ownEnt e.1
    match o.st with
    | .owned | .offered =>
      let now := (d.immW (A.HOWN_ALIVE e.1)).toNat
      if laterMod 32 o.base now then d.setOwn e.1 { o with base := now, stale := 0 }
      else
        let st := o.stale + 1
        let d := (d.setOwn e.1 { o with base := now, stale := st }).house pgHOWN 0x3404 (e.1 + st % 256 * 65536)
        if d.lv A.HOWN_CFG F.HOWN_CFG_LAPSE_N ≤ st then d.unown e.1 3 else d
    | _ => d) d

/-! ## The commands -/

/-- CLAIM -/
def execClaim (m dom prio : Nat) (s : State) : Res := onDev (ownReq m (hownWord dom prio 0 24)) s
/-- HANDOVER -/
def execHandover (m dom target : Nat) (s : State) : Res := onDev (ownReq m (hownWord dom 0 target 25)) s
/-- ACCEPT -/
def execAccept (m dom prio : Nat) (s : State) : Res := onDev (ownReq m (hownWord dom prio 0 26)) s
/-- RELEASE -/
def execRelease (m dom : Nat) (s : State) : Res := onDev (ownReq m (hownWord dom 0 0 27)) s
/-- FORCE_LAPSE -/
def execForceLapse (m dom : Nat) (s : State) : Res := onDev (ownReq m (hownWord dom 0 0 28)) s
/-- ELECTION_END -/
def execElectionEnd (dom : Nat) (s : State) : Res := onDev (electionEnd dom) s
/-- HANDOVER_DEADLINE -/
def execHandoverDeadline (dom : Nat) (s : State) : Res := onDev (handoverDeadline dom) s

end Sys2Proof.Machine
end

