-- ==== Sys2Proof/Machine/Access.lean ====
section
/-! DEFINITION. The media-store window, refused TLPs, function resets, the event bits of a page (chapter Control Ports,
Ownership and Register Pages, R130-R135, R141, R154), the reads that clear counts. -/
namespace Sys2Proof.Machine

/-! ## The media-store window (R134) -/

/-- The banks of the enabled bytes of an access. -/
def touched (addr : Nat) (data : List (Option Byte)) : List Nat :=
  ((List.range data.length).filterMap (fun i => if (data.getD i none).isSome then some (bankOfByte (addr + i)) else none)).eraseDups

/-- The writes of the enabled bytes. -/
def byteOps (addr : Nat) : List (Option Byte) → List MemOp
  | [] => []
  | some b :: t => .store addr [b] :: byteOps (addr + 1) t
  | none :: t => byteOps (addr + 1) t

/-- The AER status after an error (R135): its bit of the uncorrectable status; an advisory one also bit 13 of the
correctable status, and neither error class (PRESUMED, log entry 99). -/
def PcieFn.logged (x : PcieFn) (bit : Nat) (sev : AerSev) : PcieFn :=
  let x := { x with unc := (bit :: x.unc).eraseDups }
  match sev with
  | .advisory => { x with cor := (13 :: x.cor).eraseDups }
  | .nonFatal => { x with nonFatal := true }
  | .fatal => { x with fatal := true }

/-- An AER error is logged (R135, R159). -/
def Dev.aerLog (d : Dev) (f bit : Nat) (sev : AerSev) : Dev :=
  let d := { d with pcie := Tab.set d.pcie f ((Tab.get d.pcie {} f).logged bit sev) }
  (d.emit (.aer f bit sev)).house pgHPCI 0x3409 (bit % 256 + f * 256)

/-- An Unsupported Request of function `f` (R135): AER status bit 20. -/
def Dev.unsup (d : Dev) (f : Nat) (sev : AerSev) : Dev :=
  ((d.incIm (A.HPCI_FUNC f) F.HPCI_FUNC_UR 1).emit (.unsupported f)).aerLog f 20 sev

/-- MEDIA_STORE_WRITE: accepted whole or discarded whole. -/
def mediaStoreWrite (m addr : Nat) (data : List (Option Byte)) (d : Dev) : Dev × List MemOp :=
  if 2 ^ 29 < addr + data.length then (d, [])
  else
    let d := d.post m
    if (touched addr data).all (d.qualifies m) then (d.postAccepted m, byteOps addr data) else (d.refuse m, [])

/-- MEDIA_STORE_READ: the bytes, or Unsupported Request. -/
def mediaStoreRead (m addr len : Nat) (d : Dev) (mem : Mem) : Dev × List MemOp :=
  let banks := ((List.range len).map (fun i => bankOfByte (addr + i))).eraseDups
  if addr + len ≤ 2 ^ 29 ∧ banks.all (d.qualifies m) then (d.answer m ((mem.bytes addr len).map (·.toNat)), [])
  else if m < 6 then (d.unsup m .advisory, [])
  else (d.emit (.unsupported m), [])

/-! ## TLPs and function resets (R132, R135) -/

/-- POISONED_WRITE: a poisoned or partial-byte-enable BAR0 write. -/
def poisonedWrite (f : Nat) (poisoned : Bool) (d : Dev) : Dev :=
  let d := d.incIm (A.HPCI_FUNC f) F.HPCI_FUNC_BAD 1
  if poisoned then d.aerLog f 12 .nonFatal else d

/-- Removes a word's instance of a master. -/
def Dev.clearPer (d : Dev) (m : Nat) (a : Nat) : Dev := { d with regs := { d.regs with per := Tab.del d.regs.per (1024 * a + m) } }

/-- The per-master words a function reset returns to their reset values (R132). -/
def perMasterWords : List Nat :=
  [A.HCOM_TARGET, A.HCOM_MYSTAT, A.HOWN_MYSTAT] ++ (List.range 3).map A.HTIM_NOW ++ (List.range 3).map A.HEPC_BND ++
  (List.range 3).map A.HEPC_NXT ++ (List.range 5).map A.HCAP_E

/-- The identity in a function's configuration space (R130, R472): identifiers, revision and class, subsystem
identifiers. -/
def Dev.cfgIdentity (d : Dev) : List Word :=
  [BitVec.ofNat 32 (Config.vendorId.toNat + 0x6416 * 65536), 0x118000A1#32, Tab.get d.pwr.otp 0 23]

/-- Resets one master's per-master state (R132, R106), its function's enables and its MSI-X table (R130). -/
def functionReset (f : Nat) (d : Dev) : Dev :=
  let d := perMasterWords.foldl (fun d a => d.clearPer f a) d
  let d := { d with sq := { d.sq with pins := Tab.del d.sq.pins f },
                    msixTab := d.msixTab.filter (fun e => e.1 / 8192 != f),
                    msixPend := d.msixPend.filter (fun e => e.1 / 2048 != f),
                    pcie := Tab.set d.pcie f { Tab.get d.pcie {} f with d3hot := false } }
  let d := (d.setIm (A.HPCI_FUNC f) F.HPCI_FUNC_BME 0).setIm (A.HPCI_FUNC f) F.HPCI_FUNC_MSIX_EN 0
  ((d.incIm (A.HPCI_FUNC f) F.HPCI_FUNC_FLR 1).house pgHPCI 0x3408 f).startPub

/-- D3HOT_TO_D0: a function that is in D3hot resets as it leaves (R132); in D0 there is no such transition. -/
def d3hotToD0 (f : Nat) (d : Dev) : Dev := if (Tab.get d.pcie {} f).d3hot then functionReset f d else d

/-- PCIE_CONVENTIONAL_RESET: all six functions in the same way; the link is down. -/
def pcieConventionalReset (d : Dev) : Dev := (List.range 6).foldl (fun d f => functionReset f d) (d.setImmW A.HPCI_LINK 0)

/-- A speed and width the link trains at (R130). -/
def linkTrains (speed width : Nat) : Bool := decide (1 ≤ speed) && decide (speed ≤ 5) && [1, 2, 4, 8].contains width

/-- PCIE_LINK_UP -/
def pcieLinkUp (speed width : Nat) (d : Dev) : Dev :=
  if linkTrains speed width then (d.setIm A.HPCI_LINK F.HPCI_LINK_SPEED speed).setIm A.HPCI_LINK F.HPCI_LINK_WIDTH width else d

/-! ## Event bits of a page (R141, R154) -/

/-- The bits of a page a write of an event register names: those written 1, and for EV_EN those that would change. -/
def namedBits (pk : PageKind) (id : RegId) (old v : Word) : Nat :=
  (match id with
  | .EV_EN => (old ^^^ v).toNat
  | _ => v.toNat) &&& evBits pk

/-- The bits a master's write of an event register may change. -/
def Dev.ownBits (d : Dev) (m a : Nat) (bits : Nat) : List Nat :=
  let pk := pageOf a
  (List.range 32).filter (fun k => bitOf bits k && (if dividedBits pk then d.ownsBit m pk k else true))

/-- The write names a bit of another's domain. -/
def Dev.foreignBits (d : Dev) (m a : Nat) (id : RegId) (v : Word) : Bool :=
  let pk := pageOf a
  dividedBits pk && (List.range 32).any (fun k => bitOf (namedBits (pageOf a) id (d.immW a) v) k && !(d.ownsBit m pk k))

/-- Forces one event bit (R154). -/
def Dev.evForceBit (d : Dev) (page k : Nat) : Dev :=
  let idx := page / 4096
  let key := if idx < 10 then houseKey idx else 1250
  (d.evSet page k).emitFrom key page srcHouse none ⟨0x3F00 + k, d.now, k + idx * 256⟩

/-- A write of EV_STAT, EV_EN or EV_FORCE of a page, bit by bit where its bits are divided (R141). -/
def writeEv (id : RegId) (m a : Nat) (v : Word) (d : Dev) : Dev :=
  let foreign := d.foreignBits m a id v
  let bits := d.ownBits m a (namedBits (pageOf a) id (d.immW a) v)
  let page := pageBase a
  let d1 := match id with
    | .EV_STAT => d.setImmW a (d.immW a &&& ~~~(BitVec.ofNat 32 (bits.foldl setBit 0)))
    | .EV_EN => d.setImmW a (d.immW a ^^^ BitVec.ofNat 32 (bits.foldl setBit 0))
    | _ => bits.foldl (fun d k => d.evForceBit page k) d
  if foreign then d1.refuse m else d1

/-- A write of PG_CTRL (R154, R135). -/
def writePgCtrl (page : Nat) (v : Word) (d : Dev) : Dev :=
  if fget v F.PG_CTRL_ERR_CLR = 0 then d
  else
    let d := d.setImmW (A.ERR_CNT page) 0
    if page = 0xB000 then
      (List.range 6).foldl (fun d f => (d.setIm (A.HPCI_FUNC f) F.HPCI_FUNC_UR 0).setIm (A.HPCI_FUNC f) F.HPCI_FUNC_BAD 0) d
    else d

/-! ## Counters that a read clears -/

/-- A read of HOWN_WREFUSED. -/
def readWrefused (m who : Nat) (d : Dev) : Dev := d.hostReadRC m (A.HOWN_WREFUSED who) 0xFFFFFFFF

/-! ## The late-fault log (R383) -/

/-- A read of HLFL_E0: the head entry into the reader's latch. -/
def readHlflE0 (m : Nat) (d : Dev) : Dev × Nat :=
  let put (d : Dev) (e : List Nat) : Dev :=
    ((d.setPerW A.HLFL_E0 m (BitVec.ofNat 32 (e.getD 0 0))).setPerW A.HLFL_E1 m (BitVec.ofNat 32 (e.getD 1 0))).setPerW A.HLFL_E2 m
      (BitVec.ofNat 32 (e.getD 2 0)) |>.setPerW A.HLFL_E3 m (BitVec.ofNat 32 (e.getD 3 0)) |>.setLatch (A.HLFL_E4 0) m [e.getD 4 0, e.getD 5 0]
  match d.late.log with
  | [] => (put d [], 0)
  | e :: t =>
    let d := put d e
    (if d.ownsReg m A.HLFL_E0 then { d with late := { d.late with log := t } } else d, e.getD 0 0)

/-! ## The commands -/

/-- MEDIA_STORE_WRITE -/
def execMediaStoreWrite (m addr : Nat) (data : List (Option Byte)) (s : State) : Res := onMem (fun d _ => mediaStoreWrite m addr data d) s
/-- MEDIA_STORE_READ -/
def execMediaStoreRead (m addr len : Nat) (s : State) : Res := onMem (mediaStoreRead m addr len) s
/-- UNSUPPORTED_TLP -/
def execUnsupportedTlp (f : Nat) (s : State) : Res := onDev (fun d => d.unsup f .nonFatal) s
/-- POISONED_WRITE -/
def execPoisonedWrite (f : Nat) (poisoned : Bool) (s : State) : Res := onDev (poisonedWrite f poisoned) s
/-- MALFORMED_TLP -/
def execMalformedTlp (f bit : Nat) (s : State) : Res := onDev (fun d => d.aerLog f bit .fatal) s
/-- FUNCTION_LEVEL_RESET -/
def execFunctionLevelReset (f : Nat) (s : State) : Res := onDev (functionReset f) s
/-- D3HOT_TO_D0 -/
def execD3hotToD0 (f : Nat) (s : State) : Res := onDev (d3hotToD0 f) s
/-- PCIE_CONVENTIONAL_RESET -/
def execPcieConventionalReset (s : State) : Res := onDev pcieConventionalReset s
/-- PCIE_LINK_UP -/
def execPcieLinkUp (speed width : Nat) (s : State) : Res := onDev (pcieLinkUp speed width) s
/-- HOWN_WREFUSED_READ -/
def execHownWrefusedRead (m who : Nat) (s : State) : Res := onDev (readWrefused m who) s
/-- HSVC_ERR_READ -/
def execHsvcErrRead (m : Nat) (s : State) : Res := onDev (fun d => d.hostReadRC m A.HSVC_ERR 0xFFFFFFFF) s
/-- ERR_CLR -/
def execErrClr (m page : Nat) (s : State) : Res := onDev (fun d => d.hostWrite m (A.PG_CTRL page) (writePgCtrl page 1#32)) s
/-- EV_FORCE -/
def execEvForce (m page : Nat) (v : Word) (s : State) : Res :=
  onDev (fun d => d.hostWrite m (A.EV_FORCE page) (writeEv .EV_FORCE m (A.EV_FORCE page) v)) s
/-- LATE_FAULT_LOG_POP -/
def execLateFaultLogPop (m : Nat) (s : State) : Res := onDev (fun d => d.hostReadBy m (readHlflE0 m)) s
/-- HLFL_LOST_READ -/
def execHlflLostRead (m : Nat) (s : State) : Res := onDev (fun d => d.hostReadRC m A.HLFL_LOST 0xFFFFFFFF) s
/-- HLFL_ORIG_READ -/
def execHlflOrigRead (m who : Nat) (s : State) : Res := onDev (fun d => d.hostReadRC m (A.HLFL_ORIG who) 0xFFFFFFFF) s
/-- TIRQ_DROP_READ -/
def execTirqDropRead (m T : Nat) (s : State) : Res := onDev (fun d => d.hostReadRC m (A.TIRQ_DROP T) 0xFFFFFFFF) s
/-- HIRQ_COUNT_READ -/
def execHirqCountRead (m : Nat) (notgt : Bool) (s : State) : Res :=
  onDev (fun d => d.hostReadRC m (if notgt then A.HIRQ_NOTGT else A.HIRQ_MSGS) 0xFFFFFFFF) s

end Sys2Proof.Machine
end

