-- ==== Sys2Proof/Machine/Store.lean ====
section
/-! DEFINITION. Banks, pools and buffers of the media store, the host pantry port, the March tests (chapter Media Store,
Pantries and DMA, R363-R372, R384). -/
namespace Sys2Proof.Machine

def Dev.bankOf (d : Dev) (b : Nat) : Bank := Tab.get d.banks {} b
def Dev.setBank (d : Dev) (b : Nat) (x : Bank) : Dev := { d with banks := Tab.set d.banks b x }
def Dev.bufOf (d : Dev) (i : Nat) : Buf := Tab.get d.bufs {} i
def Dev.setBuf (d : Dev) (i : Nat) (x : Buf) : Dev := { d with bufs := Tab.set d.bufs i x }
def Dev.poolOf (d : Dev) (q P : Nat) : Pool := Tab.get d.pools {} (64 * q + P)
def Dev.setPool (d : Dev) (q P : Nat) (x : Pool) : Dev := { d with pools := Tab.set d.pools (64 * q + P) x }

/-- The QPOOL page of a pool. -/
def poolPage (q P : Nat) : Nat := qpoolPage q (P / 32)

/-! ## Buffers and pools (R365-R368) -/

/-- Pool `P` of quadrant `q` is enabled under a view. -/
def poolEn (w : View) (q P : Nat) : Bool := w.b (A.POOL_CFG q P) F.POOL_CFG_EN

/-- The banks of an enabled pool under a view (R365). -/
def poolBanks (w : View) (q P : Nat) : List Nat :=
  if poolEn w q P then
    (List.range (w.f (A.POOL_CFG q P) F.POOL_CFG_COUNT)).map (fun i => 512 * q + (w.f (A.POOL_CFG q P) F.POOL_CFG_FIRST + i) % 512)
  else []

/-- Takes the head of a pool's free FIFO (R367): the handle and the device, or none from an empty or disabled pool, or from one
enabled for another domain. -/
def Dev.allocBuf (d : Dev) (q P dom : Nat) (holder : BufHolder) : Option Nat × Dev :=
  let p := d.poolOf q P
  if poolEn d.live q P && d.lv (A.POOL_CFG q P) F.POOL_CFG_DOM != dom then (none, d)
  else match (if poolEn d.live q P then p.free else []) with
  | [] =>
    if p.emptyEpoch = d.sq.num + 1 then (none, d)
    else (none, (d.setPool q P { p with emptyEpoch := d.sq.num + 1 }).storePulse q 1 (poolPage q P) 1 P)
  | i :: t =>
    let b := d.bufOf i
    let g := if b.gen = 255 then 1 else b.gen + 1
    let d := d.setBuf i ⟨g, true, true, dom, holder, 0⟩
    let low := decide (t.length < d.lv (A.POOL_LOW q P) F.POOL_LOW_LOW)
    let d := d.setPool q P { p with free := t, lowSent := p.lowSent || low }
    (some (i + g * 2 ^ 18), if low && !p.lowSent then d.storePulse q 0 (poolPage q P) 0 P else d)

/-- Some buffer of a bank is allocated. -/
def Dev.bankBusy (d : Dev) (b : Nat) : Bool := d.bufs.any (fun e => e.1 / 128 == b && e.2.alloc)

/-- A bank leaves its pool (R366). -/
def Dev.bankLeaves (d : Dev) (b : Nat) : Dev :=
  let x := d.bankOf b
  (d.setBank b { x with pool := none, retiring := false, lastPool := x.pool }).storePulse (b / 512) 6 (qmemPage (b / 512)) 6 (b % 512)

/-- A bank joins a pool: its buffers enter the free FIFO in ascending order (R367). -/
def Dev.bankJoins (d : Dev) (P b : Nat) : Dev :=
  let q := b / 512
  let d := d.setBank b { d.bankOf b with pool := some P, retiring := false, lastPool := some P }
  let p := d.poolOf q P
  d.setPool q P { p with free := p.free ++ (List.range 128).map (128 * b + ·) }

/-- The last buffer of a retiring bank is free: the bank leaves its pool, and joins the one whose range lists it (R366; the
joining is DEDUCED, log entry 106). -/
def Dev.bankRetired (d : Dev) (b : Nat) : Dev :=
  let d := d.bankLeaves b
  match (List.range 64).find? (fun P => (poolBanks d.live (b / 512) P).contains b) with
  | some P => d.bankJoins P b
  | none => d

/-- Returns a buffer to its pool, or to none when its bank is retiring (R366-R368). -/
def Dev.freeBuf (d : Dev) (i : Nat) : Dev :=
  let d := d.setBuf i { d.bufOf i with alloc := false, readers := 0 }
  let b := i / 128
  let x := d.bankOf b
  match x.pool with
  | none => d
  | some P =>
    if x.retiring then (if d.bankBusy b then d else d.bankRetired b)
    else
      let q := b / 512
      let p := d.poolOf q P
      let free := p.free ++ [i]
      d.setPool q P { p with free := free, lowSent := p.lowSent && decide (free.length < d.lv (A.POOL_LOW q P) F.POOL_LOW_LOW) }

/-- What a free names and how it ends (R368): 0 FREED, 1 BAD_HANDLE, 2 FOREIGN_FREE, 3 STALE, 4 DOUBLE_FREE. -/
def Dev.freeOutcome (d : Dev) (h dom : Nat) (prt : Bool) : Nat :=
  let b := d.bufOf (h % 2 ^ 18)
  let g := h / 2 ^ 18 % 256
  if 2 ^ 26 ≤ h ∨ g = 0 then 1
  else if b.ever = false ∨ b.dom ≠ dom then 2
  else if b.gen ≠ g then 3
  else if b.alloc = false then 4
  else match b.holder with
    | .datapath | .device => 2
    | .hostRx => if prt then 0 else 2
    | .explicit => 0

/-- A refused free counts in the buffer's pool (R368). -/
def Dev.freeFault (d : Dev) (h dom oc : Nat) : Dev :=
  let b := h % 2 ^ 18 / 128
  let q := b / 512
  let x := d.bankOf b
  match (match x.pool with | some P => some P | none => x.lastPool) with
  | none => d.err (qmemPage q)
  | some P =>
    let d := match oc with
      | 1 => d.incIm (A.POOL_F1 q P) F.POOL_F1_BAD_HANDLE 1
      | 2 => d.incIm (A.POOL_F0 q P) F.POOL_F0_FOREIGN_FREE 1
      | 3 => d.incIm (A.POOL_F1 q P) F.POOL_F1_STALE 1
      | _ => d.incIm (A.POOL_F0 q P) F.POOL_F0_DOUBLE_FREE 1
    let p := d.poolOf q P
    if p.faultEpoch.getD (oc - 1) 0 = d.sq.num + 1 then d
    else (d.setPool q P { p with faultEpoch := p.faultEpoch.set (oc - 1) (d.sq.num + 1) }).storePulse q 2 (poolPage q P) 2
      (oc + dom * 16 + P * 2 ^ 13)

/-- A tested free (R368): the outcome and the device. -/
def Dev.tryFree (d : Dev) (h dom : Nat) (prt : Bool) : Nat × Dev :=
  let oc := d.freeOutcome h dom prt
  (oc, if oc = 0 then d.freeBuf (h % 2 ^ 18) else d.freeFault h dom oc)

/-- Sets the reader count of a written buffer (R185): with none it returns at once. -/
def Dev.setReaders (d : Dev) (i n : Nat) : Dev := if n = 0 then d.freeBuf i else d.setBuf i { d.bufOf i with readers := n }

/-- One reader has done with a buffer (R185). -/
def Dev.dropReader (d : Dev) (i : Nat) : Dev :=
  let b := d.bufOf i
  if b.alloc = false ∨ b.holder ≠ .datapath then d
  else if b.readers ≤ 1 then d.freeBuf i else d.setBuf i { b with readers := b.readers - 1 }

/-- Banks leave a pool at a boundary (R366): the free ones at once, the others when their last buffer is free. -/
def Dev.poolLeave (d : Dev) (q P : Nat) (leave : List Nat) : Dev :=
  let p := d.poolOf q P
  let d := d.setPool q P { p with free := p.free.filter (fun i => !(leave.contains (i / 128))) }
  leave.foldl (fun d b =>
    let d := d.setBank b { d.bankOf b with pool := some P, retiring := true }
    if d.bankBusy b then d else d.bankLeaves b) d

/-- Banks join a pool at a boundary (R367); one still retiring joins when it has retired. -/
def Dev.poolJoin (d : Dev) (P : Nat) (join : List Nat) : Dev :=
  join.foldl (fun d b => if (d.bankOf b).retiring then d else d.bankJoins P b) d

/-- POOL_LOW after a change of a pool's banks (R367): a free count that the change brings below LOW pulses it, one at LOW or
above allows the next. -/
def Dev.poolLevel (d : Dev) (q P was : Nat) : Dev :=
  let p := d.poolOf q P
  let low := decide (p.free.length < d.lv (A.POOL_LOW q P) F.POOL_LOW_LOW)
  let fell := low && !p.lowSent && decide (d.lv (A.POOL_LOW q P) F.POOL_LOW_LOW ≤ was) && poolEn d.live q P
  let d := d.setPool q P { p with lowSent := low && (p.lowSent || fell) }
  if fell then d.storePulse q 0 (poolPage q P) 0 P else d

/-- The pools two banks of settings list. -/
def poolKeys (keys : List Nat) : List (Nat × Nat) :=
  (keys.filterMap (fun a => match pageOf a with
    | .qpool q j => let o := a % 0x1000; if 0x40 ≤ o ∧ o < 0x140 then some (q, 32 * j + (o - 0x40) / 8) else none
    | _ => none)).eraseDups

/-- Applies the pool settings of a boundary: leaving banks first, then joining ones. -/
def Dev.poolsApply (d : Dev) (old new : View) (keys : List Nat) : Dev :=
  let ps := poolKeys keys
  let was := ps.map (fun x => (d.poolOf x.1 x.2).free.length)
  let d := ps.foldl (fun d x => d.poolLeave x.1 x.2 ((poolBanks old x.1 x.2).filter (fun b => !((poolBanks new x.1 x.2).contains b)))) d
  let d := ps.foldl (fun d x => d.poolJoin x.2 ((poolBanks new x.1 x.2).filter (fun b => !((poolBanks old x.1 x.2).contains b)))) d
  (ps.zip was).foldl (fun d x => d.poolLevel x.1.1 x.1.2 x.2) d

/-! ## Bank ownership (R363, R364) -/

/-- The house's commit is pending: CHECKING, CHECKED, AGREEING or LOCKED. -/
def Dev.housePending (d : Dev) : Bool := (d.commitOf houseDom).st != .idle

/-- The bank is a member of an enabled pool in a pending house commit. -/
def Dev.pendingPool (d : Dev) (b : Nat) : Bool :=
  d.housePending && (List.range 64).any (fun P => (poolBanks (d.pendView houseDom) (b / 512) P).contains b)

/-- A write of QMEM_BANK(b) (R363, R364). -/
def writeQmemBank (b : Nat) (v : Word) (d : Dev) : Dev :=
  let x := d.bankOf b
  let x := { x with refused := x.refused && fget v F.QMEM_BANK_REFUSED == 0 }
  let d := d.setBank b x
  if fget v F.QMEM_BANK_GIVE = 0 then d
  else
    let tgt := fget v F.QMEM_BANK_TARGET
    if x.pool.isSome ∨ d.pendingPool b ∨ x.st ≠ .held ∨ houseDom < tgt then
      (d.setBank b { x with refused := true }).err (pageBase (A.QMEM_BANK b))
    else d.setBank b { x with holder := 0x1FF, st := .scrubbing, target := tgt, noscrub := fget v F.QMEM_BANK_NOSCRUB == 1 }

/-- SCRUB_COMPLETE (R364). -/
def scrubComplete (b : Nat) (d : Dev) : Dev × List MemOp :=
  let x := d.bankOf b
  if x.st ≠ .scrubbing then (d, [])
  else
    ((d.setBank b { x with holder := x.target, st := .held }).storePulse (b / 512) 3 (qmemPage (b / 512)) 3 (b % 512 + x.target * 512),
      if x.noscrub then [] else [.zeroStore (b * 2 ^ 18) (2 ^ 18)])

/-! ## March tests (R372) -/

/-- A write of QMEM_MTCMD. -/
def writeQmemMtcmd (q : Nat) (v : Word) (d : Dev) : Dev :=
  if fget v F.QMEM_MTCMD_GO = 0 then d
  else
    let b := 512 * q + fget v F.QMEM_MTCMD_BANK
    let pres := fget v F.QMEM_MTCMD_PRESERVE = 1
    let x := d.bankOf b
    if (Tab.get d.btest {} q).running ∨ (pres = false ∧ (x.holder ≠ houseDom ∨ x.pool.isSome ∨ x.st ≠ .held)) then d.err (qmemPage q)
    else
      let d := { d with btest := Tab.set d.btest q ⟨true, b, pres⟩ }
      let d := (d.setImmW (A.QMEM_MTSTAT q) 1#32).setImmW (A.QMEM_MTADDR q) 0
      if pres then d else d.setBank b { x with holder := 0x1FF, st := .testing }

/-- BANK_TEST_END: `fails` lists the failing words by BAR2 offset. -/
def bankTestEnd (q : Nat) (fails : List Nat) (d : Dev) : Dev × List MemOp :=
  let t := Tab.get d.btest {} q
  if t.running = false then (d, [])
  else
    let d := { d with btest := Tab.set d.btest q { t with running := false } }
    let bad := !fails.isEmpty
    let d := (d.setImmW (A.QMEM_MTSTAT q) (BitVec.ofNat 32 (2 + b2n bad + sat 16 fails.length * 65536))).setImmW (A.QMEM_MTADDR q)
      (BitVec.ofNat 32 (fails.headD 0 % 2 ^ 29))
    let d := if t.preserve then d else d.setBank t.bank { d.bankOf t.bank with holder := houseDom, st := .held }
    (d.storePulse q 4 (qmemPage q) 4 (b2n bad + t.bank % 512 * 2), if t.preserve then [] else [.zeroStore (t.bank * 2 ^ 18) (2 ^ 18)])

/-- A write of TPAN_MTCMD. -/
def writeTpanMtcmd (T : Nat) (v : Word) (d : Dev) : Dev :=
  if fget v F.TPAN_MTCMD_GO = 0 then d
  else
    let pres := fget v F.TPAN_MTCMD_PRESERVE = 1
    let down := match (d.engOf T).st with | .offline | .stopped => true | _ => false
    if (Tab.get d.ptest {} T).running ∨ (pres = false ∧ down = false) then d.err (tpanPage T)
    else ({ d with ptest := Tab.set d.ptest T ⟨true, 0, pres⟩ }).setImmW (A.TPAN_MTSTAT T) 1#32

/-- The quadrant of a tile. -/
def tileQuad (T : Nat) : Nat := if T < 256 then T / 64 else T - 256

/-- PANTRY_TEST_END: `fails` lists the failing bytes. -/
def pantryTestEnd (T : Nat) (fails : List Nat) (d : Dev) : Dev × List MemOp :=
  let t := Tab.get d.ptest {} T
  if t.running = false then (d, [])
  else
    let bad := !fails.isEmpty
    let d := { d with ptest := Tab.set d.ptest T { t with running := false } }
    let d := d.setImmW (A.TPAN_MTSTAT T) (BitVec.ofNat 32 (2 + b2n bad + fails.headD 0 % 2 ^ 18 * 4 + sat 12 fails.length * 2 ^ 20))
    (d.storePulse (tileQuad T) 4 (qmemPage (tileQuad T)) 4 (b2n bad + 0x1FF * 2), if t.preserve then [] else [.zeroPantry T 0 (2 ^ 18)])

/-! ## The host pantry port (R370, R371) -/

/-- Where the trap frame begins: the pantry's last 512 bytes, which no window reaches (R370). -/
def trapFrame : Nat := 0x3FE00

/-- The bytes of share `s`'s pantry window. -/
def inWindow (w : View) (T s p : Nat) : Bool :=
  let b := w.f (A.TPAN_WIN T s) F.TPAN_WIN_BASE
  decide (512 * b ≤ p) && decide (p < 512 * (b + w.f (A.TPAN_WIN T s) F.TPAN_WIN_SIZE))

/-- The domain that holds a pantry byte: the room of the window that contains it, else the house. -/
def panHolder (w : View) (T p : Nat) : Nat :=
  match (sharesOf w T).find? (fun s => inWindow w T s.s p) with
  | some s => s.room
  | none => houseDom

/-- A destructive test holds the pantry (R372). -/
def Dev.panTesting (d : Dev) (T : Nat) : Bool := let t := Tab.get d.ptest {} T; t.running && !t.preserve

/-- A pantry byte qualifies for a master. -/
def Dev.panQual (d : Dev) (m T p : Nat) : Bool :=
  !(d.panTesting T) &&
    (if trapFrame ≤ p then d.owns m houseDom && (d.engOf T).st != .trap else d.owns m (panHolder d.live T p))

/-- A master's TPAN_PADDR, as a byte address of a word. -/
def Dev.panAddr (d : Dev) (m T : Nat) : Nat := d.per (A.TPAN_PADDR T) m F.TPAN_PADDR_ADDR * 8

/-- The pantry data registers of a tile are down (R313, R462). -/
def Dev.panDown (d : Dev) (T : Nat) : Bool := d.tileOffline T || (d.engOf T).resetting

/-- A read of TPAN_PDATA0: the word into the master's latch. -/
def readPdata0 (m T : Nat) (mem : Mem) (d : Dev) : Dev × Nat :=
  let p := d.panAddr m T
  let v := if d.panDown T ∨ d.panQual m T p = false then 0 else leNat (mem.pbytes T p 8)
  (d.setPerW (A.TPAN_PDATA1 T) m (BitVec.ofNat 32 (v / 2 ^ 32)), v % 2 ^ 32)

/-- A write of TPAN_PDATA1: PDATA0 and PDATA1 as one word. -/
def writePdata1 (m T : Nat) (v : Word) (d : Dev) : Dev × List MemOp :=
  let p := d.panAddr m T
  if d.panQual m T p = false then ((d.post m).refuse m, [])
  else
    (d.hostWrite m (A.TPAN_PDATA1 T) id,
      if d.panDown T then [] else [.pantry T p (leBytes 4 (d.perW (A.TPAN_PDATA0 T) m).toNat ++ leBytes 4 v.toNat)])

/-! ## The commands -/

/-- BANK_GIVE -/
def execBankGive (m b : Nat) (v : Word) (s : State) : Res :=
  onDev (fun d => d.hostWrite m (A.QMEM_BANK b) (writeQmemBank b (v ||| 0x10000000#32))) s
/-- SCRUB_COMPLETE -/
def execScrubComplete (b : Nat) (s : State) : Res := onMem (fun d _ => scrubComplete b d) s
/-- BANK_TEST_GO -/
def execBankTestGo (m q : Nat) (v : Word) (s : State) : Res :=
  onDev (fun d => d.hostWrite m (A.QMEM_MTCMD q) (writeQmemMtcmd q (v ||| 0x400#32))) s
/-- BANK_TEST_END -/
def execBankTestEnd (q : Nat) (fails : List Nat) (s : State) : Res := onMem (fun d _ => bankTestEnd q fails d) s
/-- PANTRY_TEST_GO -/
def execPantryTestGo (m T : Nat) (v : Word) (s : State) : Res :=
  onDev (fun d => d.hostWrite m (A.TPAN_MTCMD T) (writeTpanMtcmd T (v ||| 1#32))) s
/-- PANTRY_TEST_END -/
def execPantryTestEnd (T : Nat) (fails : List Nat) (s : State) : Res := onMem (fun d _ => pantryTestEnd T fails d) s
/-- PANTRY_READ -/
def execPantryRead (m T : Nat) (s : State) : Res := onMem (fun d mem => (d.hostReadBy m (readPdata0 m T mem), [])) s
/-- PANTRY_WRITE -/
def execPantryWrite (m T : Nat) (v : Word) (s : State) : Res := onMem (fun d _ => writePdata1 m T v d) s
/-- QMEM_CONF_READ -/
def execQmemConfRead (m q c : Nat) (s : State) : Res := onDev (fun d => d.hostReadRC m (A.QMEM_CONF q c) 0xFFFFFFFF) s
/-- POOL_FAULT_READ -/
def execPoolFaultRead (m q P w : Nat) (s : State) : Res :=
  onDev (fun d => d.hostReadRC m (if w = 0 then A.POOL_F0 q P else A.POOL_F1 q P) 0xFFFFFFFF) s
/-- TPAN_CONF_READ -/
def execTpanConfRead (m T : Nat) (s : State) : Res := onDev (fun d => d.hostReadRC m (A.TPAN_CONF T) 0xFFFFFFFF) s

end Sys2Proof.Machine
end

