-- ==== Sys2Proof/Machine/Packet.lean ====
section
/-! DEFINITION. Octets of frames: the header fields the ports and the flow datapath read (R72, R162,
R164, R166), the rewriting of an egress frame (R203, R204). -/
namespace Sys2Proof.Machine

/-! ## Reading a frame -/

def be16 (bs : List Byte) (o : Nat) : Nat := byteAt bs o * 256 + byteAt bs (o + 1)
def be32 (bs : List Byte) (o : Nat) : Nat := be16 bs o * 65536 + be16 bs (o + 2)

/-- A tag type of a VLAN tag (IEEE 802.1Q). -/
def isTag (t : Nat) : Bool := t = 0x8100 || t = 0x88A8

/-- What the headers of a frame say: the outer VLAN ID, the EtherType after the tags, where the layer-3 header starts,
whether it is IPv4 or IPv6, its protocol and extension, the destination words of FCH_KEYIP, where UDP starts. -/
structure Hdr where
  vid : Option Nat
  et : Nat
  l3 : Nat
  ip4 : Bool
  ip6 : Bool
  frag : Bool
  proto : Nat
  dst : List Nat
  l4 : Nat
  ipLen : Nat
deriving DecidableEq, Repr

/-- Reads the headers: zero, one or two tags. -/
def readHdr (bs : List Byte) : Hdr :=
  let t0 := be16 bs 12
  let n := if isTag t0 then (if isTag (be16 bs 16) then 2 else 1) else 0
  let et := be16 bs (12 + 4 * n)
  let l3 := 14 + 4 * n
  let vid := if n = 0 then none else some (be16 bs 14 % 4096)
  if et = 0x0800 ∧ byteAt bs l3 / 16 = 4 then
    let ihl := byteAt bs l3 % 16 * 4
    let fl := be16 bs (l3 + 6)
    { vid := vid, et := et, l3 := l3, ip4 := true, ip6 := false, frag := decide (fl % 0x4000 ≠ 0), proto := byteAt bs (l3 + 9),
      dst := [be32 bs (l3 + 16), 0, 0, 0], l4 := l3 + ihl, ipLen := be16 bs (l3 + 2) - ihl }
  else if et = 0x86DD ∧ byteAt bs l3 / 16 = 6 then
    { vid := vid, et := et, l3 := l3, ip4 := false, ip6 := true, frag := false, proto := byteAt bs (l3 + 6),
      dst := [be32 bs (l3 + 36), be32 bs (l3 + 32), be32 bs (l3 + 28), be32 bs (l3 + 24)], l4 := l3 + 40, ipLen := be16 bs (l3 + 4) }
  else { vid := vid, et := et, l3 := l3, ip4 := false, ip6 := false, frag := false, proto := 0, dst := [], l4 := l3, ipLen := 0 }

/-- A UDP datagram a channel can receive: no fragment, no extension header (R164). -/
def Hdr.udp (h : Hdr) : Bool := (h.ip4 || h.ip6) && h.proto == 17 && !h.frag

def udpPort (bs : List Byte) (h : Hdr) : Nat := be16 bs (h.l4 + 2)
def udpLen (bs : List Byte) (h : Hdr) : Nat := be16 bs (h.l4 + 4)

/-- Where the RTP header starts. -/
def rtpAt (h : Hdr) : Nat := h.l4 + 8
/-- The RTP header's length with CSRCs and extension. -/
def rtpLen (bs : List Byte) (h : Hdr) : Nat :=
  let r := rtpAt h
  let base := 12 + byteAt bs r % 16 * 4
  if bitOf (byteAt bs r) 4 then base + 4 + be16 bs (r + base + 2) * 4 else base
def rtpSeq (bs : List Byte) (h : Hdr) : Nat := be16 bs (rtpAt h + 2)
def rtpTs (bs : List Byte) (h : Hdr) : Nat := be32 bs (rtpAt h + 4)
def rtpSsrc (bs : List Byte) (h : Hdr) : Nat := be32 bs (rtpAt h + 8)
def rtpMarker (bs : List Byte) (h : Hdr) : Bool := bitOf (byteAt bs (rtpAt h + 1)) 7
/-- The Extended Sequence Number of ST 2110-20's payload header (R168). -/
def rtpEsn (bs : List Byte) (h : Hdr) : Nat := be16 bs (rtpAt h + rtpLen bs h)

/-- The ones' complement sum of 16-bit words, folded. -/
def fold16 (n : Nat) : Nat := let a := n / 65536 + n % 65536; a / 65536 + a % 65536

/-- The sum of the 16-bit words of bytes. -/
def sum16 : List Byte → Nat
  | [] => 0
  | [b] => b.toNat * 256
  | a :: b :: t => a.toNat * 256 + b.toNat + sum16 t

/-- The IPv4 header checksum is right. -/
def ip4Ok (bs : List Byte) (h : Hdr) : Bool :=
  decide (20 ≤ h.l4 - h.l3) && fold16 (fold16 (sum16 ((bs.drop h.l3).take (h.l4 - h.l3)))) == 0xFFFF

/-- Step 1 of R166 for a channel of essence `ess`. -/
def pktValid (bs : List Byte) (ess : Nat) : Bool :=
  let h := readHdr bs
  let ul := udpLen bs h
  (!h.ip4 || ip4Ok bs h) && decide (8 ≤ ul) && decide (ul ≤ h.ipLen) && decide (h.l4 + ul ≤ bs.length) &&
    (decide (6 ≤ ess) || (byteAt bs (rtpAt h) / 64 == 2 && decide (20 ≤ ul) && decide (8 + rtpLen bs h ≤ ul)))

/-! ## Rewriting an egress frame (R203, R204) -/

/-- The settings of an egress block: words by block offset. -/
def ew (ws : Tab Word) (off : Nat) : Word := (Tab.get? ws off).getD (resetWord true (0x1004040 + off))
/-- A field of an egress block. -/
def ef (ws : Tab Word) (off : Nat) (f : Fld) : Nat := fget (ew ws off) f

/-- The octets of words, most significant byte first. -/
def wordsBE (l : List Nat) : List Byte := l.flatMap (beBytes 4)

/-- An address of the template: word i holds address bytes 12 − 4i to 15 − 4i (R204, FCH_KEYIP). -/
def tmplAddr (ws : Tab Word) (off : Nat) (v6 : Bool) : List Byte :=
  if v6 then wordsBE ([12, 8, 4, 0].map (fun i => (ew ws (off + i)).toNat)) else beBytes 4 (ew ws off).toNat

/-- A MAC address of the template. -/
def tmplMac (ws : Tab Word) (off : Nat) : List Byte := beBytes 4 (ew ws off).toNat ++ beBytes 2 ((ew ws (off + 4)).toNat / 65536)

/-- Length of a rewritten frame with its FCS (R192). -/
def egLen (ws : Tab Word) (ulen : Nat) : Nat :=
  14 + 4 * ef ws 0x14 F.FCH_EHDR_VLAN_EN + (if ef ws 0x10 F.FCH_ESRC_IPV6 = 1 then 40 else 20) + ulen + 4

/-- An IPv4 header with its checksum. -/
def ip4Header (dscp ttl ulen : Nat) (src dst : List Byte) : List Byte :=
  let h := [0x45, BitVec.ofNat 8 (dscp * 4)] ++ beBytes 2 (20 + ulen) ++ [0, 0, 0x40, 0, BitVec.ofNat 8 ttl, 17]
  let c := 0xFFFF - fold16 (fold16 (sum16 (h ++ src ++ dst)))
  h ++ beBytes 2 c ++ src ++ dst

/-- RTP fields as R203 rewrites them, in the UDP payload `pl`. -/
def rtpRewrite (mode : Word) (pl : List Byte) (rlen seqOut tsOut ssrc : Nat) : List Byte :=
  let ess := fget mode F.FCH_MODE_ESS
  if 6 ≤ ess then pl
  else
    let pl := if fget mode F.FCH_MODE_REW_SEQ = 1 then
        let p := putBytes pl 2 (beBytes 2 (seqOut % 65536))
        if ess = 0 then putBytes p rlen (beBytes 2 (seqOut / 65536 % 65536)) else p
      else pl
    let pl := putBytes pl 4 (beBytes 4 tsOut)
    if fget mode F.FCH_MODE_REW_SSRC = 1 then putBytes pl 8 (beBytes 4 ssrc) else pl

/-- The frame an egress channel sends for a source frame, without its FCS. -/
def egFrame (ws : Tab Word) (bs : List Byte) (seqOut tsOut : Nat) : List Byte :=
  let h := readHdr bs
  let ul := udpLen bs h
  let v6 := ef ws 0x10 F.FCH_ESRC_IPV6 = 1
  let src := tmplAddr ws 0x38 v6
  let dst := tmplAddr ws 0x28 v6
  let tag := if ef ws 0x14 F.FCH_EHDR_VLAN_EN = 1 then
      beBytes 2 0x8100 ++ beBytes 2 (ef ws 0x14 F.FCH_EHDR_PCP * 8192 + ef ws 0x14 F.FCH_EHDR_VID)
    else []
  let dscp := ef ws 0x14 F.FCH_EHDR_DSCP
  let ttl := ef ws 0x14 F.FCH_EHDR_TTL
  let l3 := if v6 then
      beBytes 4 (0x60000000 + dscp * 2 ^ 22) ++ beBytes 2 ul ++ [17, BitVec.ofNat 8 ttl] ++ src ++ dst
    else ip4Header dscp ttl ul src dst
  let old := (bs.drop h.l4).take ul
  let pl0 := old.drop 8
  let pl := rtpRewrite (ew ws 0) pl0 (rtpLen bs h) seqOut tsOut (ew ws 0x4C).toNat
  let ports := beBytes 2 (ef ws 0x48 F.FCH_EUDP_SPORT) ++ beBytes 2 (ef ws 0x48 F.FCH_EUDP_DPORT)
  let ck := be16 old 6
  let oldAddr := if h.ip4 then (bs.drop (h.l3 + 12)).take 8 else (bs.drop (h.l3 + 8)).take 32
  let neg := fold16 (fold16 (sum16 (oldAddr ++ old.take 4 ++ pl0)))
  let s := fold16 (fold16 ((0xFFFF - ck) + (0xFFFF - neg) + fold16 (fold16 (sum16 (src ++ dst ++ ports ++ pl)))))
  let ck' := if ck = 0 ∧ h.ip4 then 0 else if s = 0xFFFF then 0xFFFF else 0xFFFF - s
  tmplMac ws 0x18 ++ tmplMac ws 0x20 ++ tag ++ beBytes 2 (if v6 then 0x86DD else 0x0800) ++ l3 ++ ports ++ beBytes 2 ul ++
    beBytes 2 ck' ++ pl

/-- The FCS of a frame, in the order of the wire. -/
def fcsOf (bs : List Byte) : List Byte := leBytes 4 (crcOf 0 bs)

/-! ## PTP (R72-R74) -/

/-- Where the PTP message of a frame starts, if R72 recognises it as an event message. A UDP header in an IPv4 fragment or behind an
IPv6 extension header is not recognised (DESIGN CHOICE, log entry 95: R72 is silent on both). -/
def ptpAt (w : View) (bs : List Byte) : Option Nat :=
  let h := readHdr bs
  let at_ := if h.et = 0x88F7 then (if w.b A.HPTP_CFG F.HPTP_CFG_L2 then some h.l3 else none)
    else if h.udp ∧ udpPort bs h = 319 then
      (if (h.ip4 && w.b A.HPTP_CFG F.HPTP_CFG_IPV4) || (h.ip6 && w.b A.HPTP_CFG F.HPTP_CFG_IPV6) then some (h.l4 + 8) else none)
    else none
  match at_ with
  | some o => if byteAt bs o % 16 < 4 ∧ byteAt bs (o + 1) % 16 = 2 ∧ byteAt bs (o + 1) / 16 < 2 then some o else none
  | none => none

/-- The UDP checksum of a frame computed anew. -/
def udpRecompute (bs : List Byte) : List Byte :=
  let h := readHdr bs
  if h.udp = false then bs
  else
    let ul := udpLen bs h
    let addr := if h.ip4 then (bs.drop (h.l3 + 12)).take 8 else (bs.drop (h.l3 + 8)).take 32
    let z := putBytes bs (h.l4 + 6) [0, 0]
    let s := fold16 (fold16 (sum16 (addr ++ beBytes 2 17 ++ beBytes 2 ul ++ (z.drop h.l4).take ul)))
    putBytes bs (h.l4 + 6) (beBytes 2 (if s = 0xFFFF then 0xFFFF else 0xFFFF - s))

/-- A Sync stamped one-step at departure instant `t` (R74). -/
def oneStep (bs : List Byte) (o t : Nat) : List Byte :=
  let corr := (beNat ((bs.drop (o + 8)).take 8) + t % 65536) % 2 ^ 64
  let bs := putBytes bs (o + 8) (beBytes 8 corr)
  udpRecompute (putBytes bs (o + 34) (beBytes 6 (t / secTU) ++ beBytes 4 (t % secTU / 65536)))

end Sys2Proof.Machine
end

