-- ==== Sys2Proof/Machine/Ingress.lean ====
section
/-! DEFINITION. Ingress flow channels: classification, the life of a packet, the merge, the measurement, policing
(chapter Flow Channels: Ingress and Measurement, R160-R182; contracts R350-R352; migrated items R357). -/
namespace Sys2Proof.Machine

def fcMode (w : View) (fc : Nat) (f : Fld) : Nat := w.f (A.FCH_MODE fc) f
def fcDir (w : View) (fc : Nat) : Nat := fcMode w fc F.FCH_MODE_DIR
def fcEss (w : View) (fc : Nat) : Nat := fcMode w fc F.FCH_MODE_ESS

/-! ## Classification (R162-R165) -/

/-- The key of path `p` of a channel matches a packet that came on port index `port`; `ss` asks for keys with SSRC_EN. -/
def keyMatch (w : View) (fc p port : Nat) (bs : List Byte) (h : Hdr) (ss : Bool) : Bool :=
  let kp := A.FCH_KEYP fc p
  w.f kp F.FCH_KEYP_PORT == port &&
    h.vid == (if w.b kp F.FCH_KEYP_VLAN_EN then some (w.f kp F.FCH_KEYP_VID) else none) &&
    w.b kp F.FCH_KEYP_IPV6 == h.ip6 && h.dst == (List.range 4).map (fun i => w.f (A.FCH_KEYIP fc p i) F.FCH_KEYIP_IP) &&
    w.f (A.FCH_KEYU fc p) F.FCH_KEYU_UDP == udpPort bs h &&
    w.b kp F.FCH_KEYP_SSRC_EN == ss && (!ss || w.f (A.FCH_KEYS fc p) F.FCH_KEYS_SSRC == rtpSsrc bs h)

/-- The bank in force at a stamp, as the keys it lists (R92). -/
def Dev.keysAt (d : Dev) (stamp : Nat) : List Nat :=
  match d.regs.retiring with
  | some bank => if stamp < d.bndLow then bankKeys bank else bankKeys d.regs.live
  | none => bankKeys d.regs.live

/-- The channel and path a packet belongs to (R162): a key with SSRC_EN = 1 before one without. -/
def classify (w : View) (keys : List Nat) (port : Nat) (bs : List Byte) : Option (Nat × Nat) :=
  let h := readHdr bs
  if h.udp = false then none
  else
    let cand := ((activeFcs w keys).filter (fun fc => fcDir w fc == 1)).flatMap (fun fc =>
      if fcMode w fc F.FCH_MODE_MERGE = 1 then [(fc, 0), (fc, 1)] else [(fc, 0)])
    match cand.find? (fun c => keyMatch w c.1 c.2 port bs h true) with
    | some c => some c
    | none => cand.find? (fun c => keyMatch w c.1 c.2 port bs h false)

/-! ## Channel items -/

/-- The inner words of a channel's epoch: 0 and 1 the sums of the latency samples, each + 2^40; 3 the last stamp + 1;
4 the gaps taken; 5 a VRX level was taken; 6 refused already; 7 a migrated item dropped already; 8 slipped over already. -/
def privFc (fc : Nat) : Nat := 0x200000 + 16 * fc
/-- Changes inner words of a channel in the epoch of a stamp. -/
def Dev.privRun (d : Dev) (fc stamp : Nat) (ops : List RecOp) : Dev := d.accRun (d.epochAt stamp) (privFc fc) ops
def Dev.privAt (d : Dev) (fc stamp k : Nat) : Nat := d.acc (d.epochAt stamp) (privFc fc + k)

/-- The channel is the OLD of its latest migration, OFF since, and its last epoch has had its drain close (R357). -/
def Dev.migClosed (d : Dev) (fc : Nat) : Bool :=
  match Tab.get? d.mig fc with
  | some (_, b, 0) => decide (b ≤ d.sq.closedBelow) && fcDir d.live fc == 0
  | _ => false

/-- An item or a pulse of OLD after that drain close is dropped and counted (R357). -/
def Dev.migDrop (d : Dev) (fc : Nat) : Dev :=
  let r := fcHolder d.live fc
  let d := if r < 256 then d.accRun d.sq.num (recRoom r) [opAdd 0x64 1] else d
  if d.acc d.sq.num (privFc fc + 7) = 1 then d
  else
    let T := fc / 128
    (d.accRun d.sq.num (privFc fc) [opSet 7 1]).happen (engKey T) (tengPage T) 7 (srcEng d T r) ⟨engId T, d.now, 0x67 + fc * 256⟩

/-- Counts an item of a channel (R94, R357). -/
def Dev.fcItem (d : Dev) (fc stamp : Nat) (ops : List RecOp) : Dev :=
  if d.epochAt stamp < d.sq.closedBelow ∧ d.migClosed fc then d.migDrop fc else d.item (srcFc d fc) stamp ops

/-- A pulse of a channel (R182, R357). -/
def Dev.fcPulse' (d : Dev) (fc stamp : Nat) (k : Nat × Nat) : Dev :=
  if d.migClosed fc then d.migDrop fc else d.fcPulse fc k.1 k.2 stamp

/-- Adds to a 64-bit count, low word first. -/
def opAdd64 (rd : Nat → Nat) (off n : Nat) : List RecOp := [opSet off (rd off + n), opAdd (off + 4) ((rd off % 2 ^ 32 + n) / 2 ^ 32)]

/-- The outcome of a packet (R179, R196): counts of a channel's record. -/
def outcomeOps (delays code : Nat) : List RecOp :=
  if code = 0 then [opAdd 0x40 1]
  else if code < 0x10 then
    [opAdd 0x48 1, opAdd (0x50 + 4 * (code - 1)) 1,
      (0x4C, fun x => (x % 65536 + (if x % 256 = 0 then code else 0)) + code * 65536)]
  else [opAdd 0x44 1, opAdd (delays + 4 * (code - 0x10)) 1, (0x4C, fun x => if x / 256 % 256 = 0 then x + code * 256 else x)]

/-- The same outcome in the room's record (R359); `base` is 0x10 for ingress and 0x1C for egress. -/
def roomOps (base code : Nat) : List RecOp :=
  if code = 0 then [opAdd base 1]
  else if code < 0x10 then [opAdd (base + 8) 1, opAdd (0x28 + 4 * (code - 1)) 1]
  else [opAdd (base + 4) 1, opAdd (0x54 + 4 * (code - 0x10)) 1]

/-- Counts an outcome in the room's record. -/
def Dev.roomOutcome (d : Dev) (room fc stamp base code : Nat) : Dev :=
  if room < 256 then d.item (srcRoom room (fcId fc)) stamp (roomOps base code) else d

/-! ## The media clock (R176) -/

/-- The rate F of a channel's media clock. -/
def rtpClk (w : View) (fc : Nat) : Nat := match w.f (A.FCH_RTP fc) F.FCH_RTP_RTP_CLK with | 1 => 48000 | 2 => 96000 | _ => 90000

/-- The full media clock value nearest below the stamp plus 2^31 ticks whose low 32 bits are `ts`. -/
def mediaU (stamp clk ts : Nat) : Int :=
  let top : Int := ((stamp * clk + (secTU - 1)) / secTU : Nat) + 2 ^ 31 - 1
  top - (top - (ts : Int)) % 2 ^ 32

/-- The media instant of an RTP timestamp, in TU. -/
def mediaT (stamp clk ts : Nat) : Int := mediaU stamp clk ts * (secTU : Int) / (clk : Int)

/-- Division rounded toward zero (R181). -/
def tdiv (a : Int) (b : Nat) : Int := if 0 ≤ a then a / (b : Int) else -((-a) / (b : Int))

/-- TU as 1/16 ns, signed 32 bits, saturating at ±(2^31 − 1); a sample is rounded toward zero, as the spec rounds means
(DESIGN CHOICE, log entry 100). -/
def lat16 (t : Int) : Int := max (-(2 ^ 31 - 1)) (min (2 ^ 31 - 1) (tdiv t 4096))

/-! ## The model -/

/-- A model step's results: the model state, the record's changes, the inner words' changes, the pulses as (kind,
argument). -/
structure Meas where
  f : FlowIn
  ops : List RecOp := []
  priv : List RecOp := []
  ev : List (Nat × Nat) := []

def Meas.add (m : Meas) (ops : List RecOp) (ev : List (Nat × Nat)) : Meas := { m with ops := m.ops ++ ops, ev := m.ev ++ ev }

/-- The model restarts (R180): what is no model state stays. -/
def FlowIn.restart (f : FlowIn) : FlowIn :=
  { lastA := f.lastA, lastB := f.lastB, sinceA := f.sinceA, sinceB := f.sinceB, silentA := f.silentA, silentB := f.silentB, ssrc := f.ssrc, held := f.held, tokAt := f.tokAt }

/-- The sequence number of a packet (R168). -/
def seqOf (ess : Nat) (bs : List Byte) (h : Hdr) : Nat := if ess = 0 then rtpEsn bs h * 65536 + rtpSeq bs h else rtpSeq bs h

/-- The signed distance of a sequence number from an extended one (R168). -/
def seqDist (ess q ref : Nat) : Int :=
  let n := if ess = 0 then 32 else 16
  sgn n (unsgn n ((q : Int) - (ref : Int)))

/-- Step 2 of R166: RX, the SSRC, the path's highest number, the latency sample (R169, R176, R180). For ESS 0 and 1 the
first packet after a restart counts as the first of its frame on its path and gives a sample (DESIGN CHOICE, log entry
48). -/
def measRx (w : View) (fc path stamp : Nat) (bs : List Byte) (rd : Nat → Nat) (f : FlowIn) : Meas :=
  let ess := fcEss w fc
  let h := readHdr bs
  let f := if f.resync then { f.restart with resync := false } else f
  let m : Meas := { f := f, ops := [opAdd (0x10 + 4 * path) 1] }
  if ess = 6 then m
  else
    let ss := rtpSsrc bs h
    let chg := !(w.b (A.FCH_KEYP fc path) F.FCH_KEYP_SSRC_EN) && f.ssrc.isSome && f.ssrc != some ss
    let m := if chg then { m with f := f.restart }.add [opAdd 0x3C 1] [(9, 0)] else m
    let m := { m with f := { m.f with ssrc := some ss } }.add [opSet 0x8C ss] []
    let q := seqOf ess bs h
    let hi := if path = 0 then m.f.hiA else m.f.hiB
    let setHi (f : FlowIn) (x : Nat) : FlowIn := if path = 0 then { f with hiA := some x } else { f with hiB := some x }
    let merge := fcMode w fc F.FCH_MODE_MERGE = 1
    let m := match hi with
      | none => { m with f := setHi m.f (2 ^ 40 + q) }
      | some x =>
        let dd := seqDist ess q x
        if dd ≤ 0 then m
        else
          let lost := if dd < (w.f (A.FCH_MERGE fc) F.FCH_MERGE_WIN : Int) then (dd - 1).toNat else 0
          { m with f := setHi m.f (x + dd.toNat) }.add
            (opAdd (0x28 + 4 * path) lost :: (if merge then [] else [opAdd 0x30 lost])) []
    let ts := rtpTs bs h
    let old := if path = 0 then m.f.tsA else m.f.tsB
    if ess < 2 ∧ old = some ts then m
    else
      let l := lat16 ((stamp : Int) - mediaT stamp (rtpClk w fc) ts)
      let b := 0x90 + 16 * path
      let n := rd (b + 12)
      let lo := if n = 0 ∨ l < sgn 32 (rd b) then l else sgn 32 (rd b)
      let hi := if n = 0 ∨ sgn 32 (rd (b + 4)) < l then l else sgn 32 (rd (b + 4))
      let m := m.add [opSet b (unsgn 32 lo), opSet (b + 4) (unsgn 32 hi), opAdd (b + 12) 1] []
      { m with f := if path = 0 then { m.f with tsA := some ts } else { m.f with tsB := some ts },
               priv := m.priv ++ [(path, fun x => x + (l + 2 ^ 40).toNat)] }

/-- The window starts at a number: empty except it (R168). -/
def FlowIn.windowAt (f : FlowIn) (q : Nat) : FlowIn := { f with started := true, h := q, got := [q] }

/-- Step 4 of R166: the merge (R168, R169). Answers whether the packet is accepted. -/
def measMerge (w : View) (fc path : Nat) (bs : List Byte) (m : Meas) : Bool × Meas :=
  let ess := fcEss w fc
  if fcMode w fc F.FCH_MODE_MERGE = 0 ∨ ess = 6 then (true, m)
  else
    let f := m.f
    let q := seqOf ess bs (readHdr bs)
    let setOld (f : FlowIn) (n : Nat) : FlowIn := if path = 0 then { f with oldA := n } else { f with oldB := n }
    let old := if path = 0 then f.oldA else f.oldB
    let fault (k : Nat) : Nat × Nat := (3, k + q % 65536 * 256)
    if f.started = false then (true, { m with f := f.windowAt (2 ^ 40 + q) })
    else
      let dd := seqDist ess q f.h
      let win := w.f (A.FCH_MERGE fc) F.FCH_MERGE_WIN
      let qx := ((f.h : Int) + dd).toNat
      let unset (a b : Nat) : Nat := ((List.range (b - a)).filter (fun i => !(f.got.contains (a + i)))).length
      let lo := f.h + 1 - win
      if 32 ≤ old then (true, { m with f := setOld (f.windowAt qx) 0 }.add [opAdd 0x38 1] [fault 3])
      else if dd ≤ -(win : Int) then (false, { m with f := setOld f (old + 1) }.add [opAdd 0x1C 1] [])
      else
        let f := setOld f 0
        if (win : Int) ≤ dd then
          (true, { m with f := f.windowAt qx }.add [opAdd 0x30 (unset lo (f.h + 1)), opAdd 0x38 1] [fault 2])
        else if 0 < dd then
          let lost := unset lo (qx + 1 - win)
          (true, { m with f := { f with h := qx, got := qx :: f.got.filter (fun x => decide (qx < x + win)) } }.add
            [opAdd 0x30 lost] (List.replicate lost (fault 1)))
        else if f.got.contains qx then (false, { m with f := f }.add [opAdd 0x18 1] [])
        else (true, { m with f := { f with got := qx :: f.got } }.add [opAdd 0x34 1] [])

/-- A frame begins in the measured stream (R175). -/
def measFrame (w : View) (fc stamp ts : Nat) (m : Meas) : Meas :=
  let ess := fcEss w fc
  let audio := ess = 2 ∨ ess = 3
  let f := m.f
  let new := audio ∨ (f.ts.isSome ∧ f.ts ≠ some ts)
  if new then
    let short := f.frameOpen ∧ f.marker = false
    let t0 := mediaT stamp (rtpClk w fc) ts + sgn 32 (w.f (A.FCH_TROFS fc) F.FCH_TROFS_TROFFSET) * 65536
    { m with f := { f with ts := some ts, frameOpen := true, marker := false, frames := f.frames + 1, m := 0, t0 := t0, synced := true } }.add
      (opAdd 0x70 1 :: (if short then [opAdd 0x74 1] else []))
      (if fcMode w fc F.FCH_MODE_FRAME_EV = 1 then [(1, (f.frames + 1) % 2 ^ 24)] else [])
  else { m with f := { f with ts := some ts, synced := f.synced || decide (2 ≤ ess) } }

/-- The bucket of R173. -/
def FlowIn.bucket (f : FlowIn) (t tdrain : Nat) : FlowIn :=
  let f := match f.td with
    | some td =>
      let n := if tdrain = 0 then 0 else (t - td) / tdrain
      { f with c := f.c - n, td := some (td + n * tdrain) }
    | none => f
  let f := if f.c = 0 then { f with td := some t } else f
  { f with c := f.c + 1 }

/-- The gap bin of R177. -/
def gapBin (logm : Bool) (wd g : Nat) : Nat :=
  let k := g / max wd 1
  min 15 (if logm then (if k = 0 then 0 else Nat.log2 k + 1) else k)

/-- The virtual receiver buffer (R174): D, then VRX_UNDER, the level and VRX_OVER. Its pulse carries the level's low 16
bits (R182 gives the argument 16 bits; DESIGN CHOICE, log entry 100). -/
def measVrx (w : View) (fc stamp : Nat) (rd : Nat → Nat) (m : Meas) (taken : Bool) : Meas :=
  let np := w.f (A.FCH_NPKT fc) F.FCH_NPKT_NPACKETS
  let trs := w.f (A.FCH_TRS fc) F.FCH_TRS_NS * 65536 + w.f (A.FCH_FRAC fc) F.FCH_FRAC_TRS_FR
  let dt : Nat := if (stamp : Int) < m.f.t0 then 0 else if trs = 0 then np else min np (((stamp : Int) - m.f.t0).toNat / trs + 1)
  let k := m.f.m
  let level : Int := (k : Int) + 1 - dt
  let top := if taken ∧ level ≤ sgn 32 (rd 0x80) then sgn 32 (rd 0x80) else level
  let m := { m with f := { m.f with m := k + 1 }, priv := m.priv ++ [opSet 5 1] }.add [opSet 0x80 (unsgn 32 top)] []
  let m := if k < dt then m.add [opAdd 0x88 1] [(6, 0)] else m
  if (w.f (A.FCH_CMAX fc) F.FCH_CMAX_VRX_FULL : Int) < level then m.add [opAdd 0x84 1] [(5, level.toNat % 65536)] else m

/-- Steps 3 and 5 of R166: the measured stream (R172-R177, R180). -/
def measFeed (w : View) (fc stamp : Nat) (bs : List Byte) (rd pr : Nat → Nat) (m : Meas) : Meas :=
  let ess := fcEss w fc
  let h := readHdr bs
  let m := if ess = 6 then { m with f := { m.f with synced := true } }
    else
      let m := measFrame w fc stamp (rtpTs bs h) m
      { m with f := { m.f with marker := m.f.marker || rtpMarker bs h } }
  let tdrain := w.f (A.FCH_TDRAIN fc) F.FCH_TDRAIN_NS * 65536 + w.f (A.FCH_FRAC fc) F.FCH_FRAC_TDRAIN_FR
  let last := m.f.lastPkt
  let m := { m with f := { m.f.bucket stamp tdrain with lastPkt := some stamp } }
  if m.f.synced = false then m
  else
    let c := m.f.c
    let m := m.add [opMax 0x78 (sat 16 c)] []
    let m := if w.f (A.FCH_CMAX fc) F.FCH_CMAX_CMAX < c then m.add [opAdd 0x7C 1] [(4, sat 16 c)] else m
    let m : Meas := match last with
      | none => m
      | some t =>
        let g := sat 32 ((stamp - t) / 4096)
        let n := pr 4
        let bin := gapBin (w.b (A.FCH_HIST fc) F.FCH_HIST_HMODE) (w.f (A.FCH_HIST fc) F.FCH_HIST_HW) g
        { m with priv := m.priv ++ [opAdd 4 1] }.add
          [opSet 0xB0 (if n = 0 then g else min g (rd 0xB0)), opMax 0xB4 g, opAdd (0xC0 + 4 * bin) 1] []
    if ess < 2 ∧ 0 < w.f (A.FCH_NPKT fc) F.FCH_NPKT_NPACKETS ∧ m.f.frameOpen then measVrx w fc stamp rd m (pr 5 == 1) else m

/-! ## Policing (R178, R351) -/

/-- A token count at an instant: it rises at `rate` octets per second up to `full`, both counts in octets × TU per second. -/
def refill (tok at_ rate full t : Nat) : Nat := min full (tok + rate * (t - at_))

/-- The channel's policer (R178): whether the packet conforms. -/
def FlowIn.police (f : FlowIn) (cir cbs t len : Nat) : Bool × FlowIn :=
  if cir = 0 then (true, f)
  else
    let full := cbs * secTU
    let tok := if f.tokLive then refill f.tokens f.tokAt (125 * cir) full t else full
    let ok := decide (len * secTU ≤ tok)
    (ok, { f with tokens := if ok then tok - len * secTU else tok, tokAt := if f.tokLive then max f.tokAt t else t, tokLive := true })

/-- The enabled contract of a room on a sub-port (R350). -/
def contractOf (w : View) (room port : Nat) : Option Nat :=
  (List.range 496).find? (fun i =>
    let a := A.HRAS_CON0 i
    w.b a F.HRAS_CON0_EN && w.f a F.HRAS_CON0_PORT == port && w.f a F.HRAS_CON0_ROOM == room)

/-- A packet of a room meets the room's contract on a sub-port (R351, R352): `out` for the egress meter. -/
def Dev.contract (d : Dev) (w : View) (room port len t : Nat) (be out : Bool) : Bool × Dev :=
  if 256 ≤ room then (true, d)
  else match contractOf w room port with
    | none => (!be, d)
    | some i =>
      let rate := 1250000 * w.f (A.HRAS_CON1 i) (if out then F.HRAS_CON1_OUT else F.HRAS_CON1_IN)
      let full := w.f (A.HRAS_CON0 i) F.HRAS_CON0_BURST * 1024 * secTU
      let k := 2 * i + b2n out
      let e := (Tab.get? d.meters k).getD (full, t, 0)
      let tok := refill e.1 e.2.1 rate full t
      let ok := !be || decide (len * secTU ≤ tok)
      (ok, { d with meters := Tab.set d.meters k (if ok then tok - len * secTU else tok, max e.2.1 t, 0) })

/-! ## Step 10: what the source writes reaches its readers (R184, R185, R198) -/

/-- A binding of a paced channel. -/
def Binding.paced (b : Binding) : Bool := ef b.words 0 F.FCH_MODE_CLASS == 0 && ef b.words 0 F.FCH_MODE_CUT == 0

/-- The bindings of an egress channel that take a packet of source `fc` stamped `t`, as 0 the new, 1 the retiring, 2 the
elder: the new one from the boundary at which it applied, a retiring one of a paced channel while it is held, that of
another channel for packets stamped before that boundary. -/
def FlowOut.takers (o : FlowOut) (fc t : Nat) : List Nat :=
  (match o.bind with | some b => if b.src = fc ∧ b.since ≤ t then [0] else [] | none => []) ++
  (match o.retire with
    | some r => if r.src = fc ∧ (r.paced ∨ t < (match o.bind with | some b => b.since | none => t + 1)) then [1] else []
    | none => []) ++
  (match o.elder with | some r => if r.src = fc then [2] else [] | none => [])

/-- The binding a stored packet is for. -/
def FlowOut.bindOf (o : FlowOut) (who : Nat) : Option Binding := match who with | 0 => o.bind | 1 => o.retire | _ => o.elder

/-- The bindings of every egress channel that take a packet, as (channel, binding). -/
def Dev.readersOf (d : Dev) (fc t : Nat) : List (Nat × Nat) := d.fout.flatMap (fun e => (e.2.takers fc t).map (fun r => (e.1, r)))

/-- Hands a stored packet to its readers, which take it in the order of the source's stream. -/
def Dev.deliver (d : Dev) (rs : List (Nat × Nat)) (p : Stored) : Dev :=
  rs.foldl (fun d r =>
    let o := Tab.get d.fout {} r.1
    { d with fout := Tab.set d.fout r.1 { o with inq := o.inq ++ [{ p with who := r.2 }] } }) d

/-! ## Cross-feed (R425) -/

/-- Sends a valid path A packet of a cross-fed channel to the twin, within its meter. -/
def Dev.crossFeed (d : Dev) (w : View) (fc stamp : Nat) (bs : List Byte) : Dev :=
  match (List.range 256).find? (fun i => w.b (A.ZYN_XF i) F.ZYN_XF_EN && w.f (A.ZYN_XF i) F.ZYN_XF_FC == fc) with
  | none => d
  | some i =>
    let full := 65536 * secTU
    let e := (Tab.get? d.zyn.meters i).getD (full, stamp)
    let tok := refill e.1 e.2 (12500000 * w.f (A.ZYN_XF i) F.ZYN_XF_RATE) full stamp
    let len := (bs.length + 4) * secTU
    let ok := len ≤ tok
    let d := { d with zyn := { d.zyn with meters := Tab.set d.zyn.meters i (if ok then tok - len else tok, max e.2 stamp) } }
    if ok then d.sendFlit (.xfeed fc { t := ((stamp : Int) + d.theta).toNat, bytes := bs, fcsOk := true }) else d.incIm A.ZYN_XFDROP F.ZYN_XFDROP_COUNT 1

/-! ## The packet (R166) -/

/-- The model a packet of a stamp meets: that of the settings before the last boundary for a channel restarted there. -/
def Dev.oldModel (d : Dev) (fc stamp : Nat) : Bool :=
  decide (stamp < d.bndLow) && d.regs.retiring.isSome && (Tab.get? d.finOld fc).isSome

def Dev.modelOf (d : Dev) (fc stamp : Nat) : FlowIn := if d.oldModel fc stamp then Tab.get d.finOld {} fc else Tab.get d.fin {} fc

def Dev.setModel (d : Dev) (fc stamp : Nat) (f : FlowIn) : Dev :=
  if d.oldModel fc stamp then { d with finOld := Tab.set d.finOld fc f } else { d with fin := Tab.set d.fin fc f }

/-- A path delivers a valid packet (R170): silence on it ends. -/
def FlowIn.heard (f : FlowIn) (path stamp : Nat) : Bool × FlowIn :=
  if path = 0 then (f.silentA, { f with lastA := some stamp, silentA := false, sinceA := none, sinceB := some (f.sinceB.getD stamp) })
  else (f.silentB, { f with lastB := some stamp, silentB := false, sinceB := none, sinceA := some (f.sinceA.getD stamp) })

/-- The channel takes best-effort packets. -/
def beFc (w : View) (fc : Nat) : Bool := fcMode w fc F.FCH_MODE_CLASS == 1

/-- Steps 6 to 8 of R166 after the model: code 0, or the refusal's. -/
def Dev.letIn (d : Dev) (w : View) (pk : InPkt) (f : FlowIn) : Nat × FlowIn × Dev :=
  let len := pk.bytes.length + 4
  if d.fdpRuns (pk.fc / 128) = false then (4, f, d)
  else
    let pol := f.police (w.f (A.FCH_POL0 pk.fc) F.FCH_POL0_CIR) (w.f (A.FCH_POL1 pk.fc) F.FCH_POL1_CBS) pk.stamp len
    if pol.1 = false then (1, pol.2, d)
    else
      let con := match pk.port with | some p => d.contract w (fcHolder w pk.fc) p len pk.stamp (beFc w pk.fc) false | none => (true, d)
      if con.1 = false then (2, pol.2, con.2)
      else if beFc w pk.fc ∧ 1024 ≤ (Tab.get d.tileBe [] (pk.fc / 128)).length then (5, pol.2, con.2)
      else (0, pol.2, con.2)

/-- Step 9 of R166: the outcome's code and, when a buffer was free, the buffer. A packet whose datapath stopped while it
waited is refused as one that comes then (DESIGN CHOICE, log entry 39). -/
def Dev.takeBuf (d : Dev) (w : View) (pk : InPkt) : Nat × Dev × Option Nat :=
  if d.fdpRuns (pk.fc / 128) = false then (4, d, none)
  else match d.allocBuf (pk.fc / 8192) (w.f (A.FCH_POOL pk.fc) F.FCH_POOL_POOL) (fcHolder w pk.fc) .datapath with
    | (none, d) => (3, d, none)
    | (some hd, d) => (pk.wait, d, some (hd % 2 ^ 18))

/-- The words of a channel's record that show its state at END (R181). With MERGE = 0 H is path A's highest number. -/
def fcEndOps (w : View) (fc : Nat) (f : FlowIn) : List RecOp :=
  let h := if f.started then f.h else f.hiA.getD 0
  let v := fcDir w fc + fcEss w fc * 4 + fcMode w fc F.FCH_MODE_CLASS * 32 + fcMode w fc F.FCH_MODE_MERGE * 64 +
    fcMode w fc F.FCH_MODE_MPATH * 128 + b2n f.silentA * 512 + b2n f.silentB * 1024 + b2n f.synced * 4096
  [(0x0C, fun x => (if x.testBit 11 then 2048 else 0) + v), opSet 0x8C (f.ssrc.getD 0), opSet 0xB8 h]

/-- A packet stamped before the last boundary changes what that epoch's END shows, while its drain is open. -/
def Dev.fcLate (d : Dev) (w : View) (fc stamp : Nat) : Dev :=
  let e := d.epochAt stamp
  if d.sq.closedBelow ≤ e ∧ e < d.sq.num then d.accRun e (recFc fc) (fcEndOps w fc (d.modelOf fc stamp)) else d

/-- Counts what the model found in a packet, with further counts, and emits its pulses. -/
def Dev.modelled (d : Dev) (pk : InPkt) (m : Meas) (ops : List RecOp) : Dev :=
  let d := (d.fcItem pk.fc pk.stamp (m.ops ++ ops)).privRun pk.fc pk.stamp (m.priv ++ [opMax 3 (pk.stamp + 1)])
  m.ev.foldl (fun d k => d.fcPulse' pk.fc pk.stamp k) d

/-- Counts a packet's outcome in its room, and pulses the channel's first refusal of the epoch (R179). -/
def Dev.outcome (d : Dev) (w : View) (pk : InPkt) (code : Nat) : Dev :=
  let first := code ≠ 0 ∧ code < 0x10 ∧ d.privAt pk.fc pk.stamp 6 = 0
  let d := d.roomOutcome (fcHolder w pk.fc) pk.fc pk.stamp 0x10 code
  if first then (d.privRun pk.fc pk.stamp [opSet 6 1]).fcPulse' pk.fc pk.stamp (8, code) else d

/-- Steps 9 and 10 of R166, or a refusal before them: the outcome is counted with what the model found, and a packet
that has a buffer is written and handed on. -/
def Dev.stored (d : Dev) (w : View) (pk : InPkt) (m : Meas) (code : Nat) (buf : Option Nat) : Dev × List MemOp :=
  let rd (o : Nat) := d.recAt pk.stamp (recFc pk.fc) o
  let d := (d.modelled pk m (outcomeOps 0x68 code ++ (if buf.isSome then opAdd64 rd 0x20 (pk.bytes.length + 4) else []))).outcome w pk code
  match buf with
  | none => (d, [])
  | some i =>
    let rs := d.readersOf pk.fc pk.stamp
    let h := readHdr pk.bytes
    let p : Stored := ⟨pk.fc, i, pk.bytes.length, udpLen pk.bytes h, pk.stamp, rtpTs pk.bytes h, rtpClk w pk.fc, pk.ovr, pk.port, 0, [], 0, pk.fst⟩
    ((d.setReaders i rs.length).deliver rs p, [.store (2048 * i) pk.bytes])

/-- The frame an accepted packet belongs to in its source's stream (R175, R188): its timestamp and its first packet's stamp. -/
def Dev.frameOf (d : Dev) (w : View) (pk : InPkt) : Nat × Nat :=
  let ts := rtpTs pk.bytes (readHdr pk.bytes)
  match Tab.get? d.srcFrame pk.fc with
  | some x => if x.1 = ts ∧ fcEss w pk.fc ≠ 2 ∧ fcEss w pk.fc ≠ 3 then x else (ts, pk.stamp)
  | none => (ts, pk.stamp)

/-- A packet the model has accepted is policed, stored and handed on, and its outcome counted; a best-effort packet that
waits enters its tile's queue. -/
def Dev.settle (d : Dev) (w : View) (pk : InPkt) (wait : Nat) (m : Meas) : Dev × List MemOp :=
  let T := pk.fc / 128
  let fr := d.frameOf w pk
  let d : Dev := { d with srcFrame := Tab.set d.srcFrame pk.fc fr }
  let pk := { pk with ovr := decide (w.f (A.FCH_CMAX pk.fc) F.FCH_CMAX_CMAX < m.f.c), fst := fr.2 }
  let r := d.letIn w pk m.f
  if r.1 = 0 ∧ beFc w pk.fc ∧ wait ≠ 0 then
    let d := ((r.2.2.setModel pk.fc pk.stamp r.2.1).fcLate w pk.fc pk.stamp).modelled pk m []
    ({ d with tileBe := Tab.set d.tileBe T (Tab.get d.tileBe [] T ++ [{ pk with wait := wait }]) }, [])
  else
    let x := if r.1 = 0 then r.2.2.takeBuf w pk else (r.1, r.2.2, none)
    ((x.2.1.setModel pk.fc pk.stamp r.2.1).fcLate w pk.fc pk.stamp).stored w pk m x.1 x.2.2

/-- The first packet of a tile's best-effort queue is written, whatever its channel's model has become. -/
def Dev.settleWaiting (d : Dev) (pk : InPkt) : Dev × List MemOp :=
  let w := d.viewAt pk.stamp
  let x := d.takeBuf w pk
  x.2.1.stored w pk { f := {} } x.1 x.2.2

/-- The readers of a channel that may send a packet before its end has arrived: cut-through, scheduled (R206). -/
def Dev.cutReaders (d : Dev) (fc stamp : Nat) : List (Nat × Nat) :=
  (d.readersOf fc stamp).filter (fun r =>
    match (Tab.get d.fout {} r.1).bindOf r.2 with | some b => ef b.words 0 F.FCH_MODE_CUT == 1 && ef b.words 0 F.FCH_MODE_CLASS == 0 | none => false)

/-- The measurement of a valid packet (R166, steps 2 to 5): whether the merge accepts it, and what the model becomes. -/
def Dev.measured (d : Dev) (w : View) (pk : InPkt) : Bool × Meas :=
  let fc := pk.fc
  let priv := fun k => d.privAt fc pk.stamp k
  let rd (o : Nat) := d.recAt pk.stamp (recFc fc) o
  let mp := fcMode w fc F.FCH_MODE_MPATH
  let hd := (d.modelOf fc pk.stamp).heard pk.path pk.stamp
  let m := measRx w fc pk.path pk.stamp pk.bytes rd hd.2
  let m := if hd.1 then { m with ev := (7, pk.path) :: m.ev } else m
  let m := if mp = pk.path then measFeed w fc pk.stamp pk.bytes rd priv m else m
  let a := measMerge w fc pk.path pk.bytes m
  (a.1, if a.1 ∧ mp = 2 then measFeed w fc pk.stamp pk.bytes rd priv a.2 else a.2)

/-- The time of `len` octets on a sub-port's wire, in TU, rounded up: each lane runs at 50 Gbit/s (R192). -/
def octetTU (w : View) (lane len : Nat) : Nat :=
  let r := laneWidth w (lane / 8) * 50000000000
  (len * 8 * secTU + (r - 1)) / r

/-- A packet whose FCS proved bad (R205, R206): the cut-through readers, which start on its headers, take it when the steps
before a departure let it pass; it feeds no model and is stored nowhere (DESIGN CHOICE, log entry 104). -/
def Dev.stomp (d : Dev) (w : View) (pk : InPkt) : Dev :=
  let a := d.measured w pk
  if pktValid pk.bytes (fcEss w pk.fc) && a.1 && (d.letIn w pk a.2.f).1 == 0 then
    let h := readHdr pk.bytes
    d.deliver (d.cutReaders pk.fc pk.stamp) ⟨pk.fc, 0, pk.bytes.length, udpLen pk.bytes h, pk.stamp, rtpTs pk.bytes h, rtpClk w pk.fc,
      decide (w.f (A.FCH_CMAX pk.fc) F.FCH_CMAX_CMAX < a.2.f.c), pk.port, 0, pk.bytes,
      pk.stamp + octetTU d.live (pk.port.getD 0) (pk.bytes.length + 4), pk.stamp⟩
  else d

/-- One classified packet through the datapath. -/
def Dev.ingress (d : Dev) (pk : InPkt) (wait : Nat) : Dev × List MemOp :=
  let w := d.viewAt pk.stamp
  let fc := pk.fc
  if fcDir w fc ≠ 1 then (if d.epochAt pk.stamp < d.sq.closedBelow then d.fcItem fc pk.stamp [] else d, [])
  else if pk.bad then (d.stomp w pk, [])
  else if pktValid pk.bytes (fcEss w fc) = false then
    let first := d.privAt fc pk.stamp 6 = 0
    let d := ((d.fcItem fc pk.stamp (outcomeOps 0x68 6)).roomOutcome (fcHolder w fc) fc pk.stamp 0x10 6).privRun fc pk.stamp
      [opSet 6 1, opMax 3 (pk.stamp + 1)]
    (if first then d.fcPulse' fc pk.stamp (8, 6) else d, [])
  else
    let a := d.measured w pk
    let d := if pk.path = 0 then d.crossFeed w fc pk.stamp pk.bytes else d
    let m := a.2
    if a.1 then d.settle w pk wait m
    else
      let d := (((d.setModel fc pk.stamp m.f).fcLate w fc pk.stamp).fcItem fc pk.stamp m.ops).privRun fc pk.stamp (m.priv ++ [opMax 3 (pk.stamp + 1)])
      (m.ev.foldl (fun d k => d.fcPulse' fc pk.stamp k) d, [])

/-- One packet through the datapath, by `run`; one stamped before a backward step belongs to the epoch it was stamped in
(R58). -/
def Dev.inItsEpoch (d : Dev) (pk : InPkt) (run : Dev → Dev × List MemOp) : Dev × List MemOp :=
  if pk.old then let r := run d.rewound; ({ r.1 with sq := { r.1.sq with marks := d.sq.marks } }, r.2) else run d

/-- The packet was stamped before the last boundary (R58). -/
def Dev.beforeBnd (d : Dev) (pk : InPkt) : Bool := decide (pk.stamp < (if pk.old then d.rewound else d).bndLow)

/-- Takes the first packet of a list that `ok` admits with no earlier one of its channel before it: a channel's packets
keep their order. -/
def takePkt (ok : InPkt → Bool) : List InPkt → List Nat → Option (InPkt × List InPkt)
  | [], _ => none
  | p :: t, seen =>
    if ok p && !(seen.contains p.fc) then some (p, t) else (takePkt ok t (p.fc :: seen)).map (fun r => (r.1, p :: r.2))

/-- The next packet of tile `T` of a class; a packet of a channel that waits for a migration's state stays (R355). -/
def Dev.nextPkt (d : Dev) (T : Nat) (be : Bool) : Option (InPkt × List InPkt) :=
  takePkt (fun p => beFc (d.viewAt p.stamp) p.fc == be && !((Tab.get d.fin {} p.fc).held && !(d.beforeBnd p))) (Tab.get d.tileIn [] T) []

/-- The datapath takes a packet from the tile's arrivals. -/
def Dev.takeNext (d : Dev) (T wait : Nat) : Option (InPkt × List InPkt) → Dev × List MemOp
  | none => (d, [])
  | some (pk, rest) => Dev.inItsEpoch { d with tileIn := Tab.set d.tileIn T rest } pk (fun d => d.ingress pk wait)

/-- INGRESS_PACKET (R166, R179): the datapath of tile `T` takes its next packet: a scheduled one first; else, while
best-effort work waits behind scheduled work or for the spine, the next best-effort one, as far as the tile's queue; else
the queue's first, and with an empty queue the next best-effort one, which is then served at once. A tile whose datapath
does not run takes packets only to refuse them (R46). -/
def ingressPacket (T : Nat) (beWait spineWait : Bool) (d : Dev) : Dev × List MemOp :=
  match d.nextPkt T false with
  | some x => d.takeNext T 0 (some x)
  | none =>
    if beWait then d.takeNext T 0x10 (d.nextPkt T true)
    else if spineWait then d.takeNext T 0x11 (d.nextPkt T true)
    else match Tab.get d.tileBe [] T with
      | pk :: t => Dev.inItsEpoch { d with tileBe := Tab.set d.tileBe T t } pk (fun d => d.settleWaiting pk)
      | [] => d.takeNext T 0 (d.nextPkt T true)

/-- Appends a packet to its tile's arrivals. -/
def Dev.inject (d : Dev) (fc path : Nat) (port : Option Nat) (stamp : Nat) (bytes : List Byte) (bad : Bool) : Dev :=
  let T := fc / 128
  { d with tileIn := Tab.set d.tileIn T (Tab.get d.tileIn [] T ++
      [{ fc := fc, path := path, port := port, stamp := stamp, bytes := bytes, bad := bad }]) }

/-- The instant a path is silent from (R170): 1 ms after its last packet and no earlier than the other path's first since;
for a path that has delivered none, 1 ms after the other's first (DESIGN CHOICE, log entry 101). -/
def FlowIn.silentFrom (f : FlowIn) (path : Nat) : Option Nat :=
  (if path = 0 then f.sinceA else f.sinceB).map (fun o => max (((if path = 0 then f.lastA else f.lastB).getD o) + 1000 * usTU) o)

/-- PATH_SILENT (R170): 1 ms has passed without a valid packet on the path while the other delivered one. -/
def pathSilent (fc path : Nat) (d : Dev) : Dev :=
  let f := Tab.get d.fin {} fc
  let is := if path = 0 then f.silentA else f.silentB
  if fcDir d.live fc ≠ 1 ∨ fcMode d.live fc F.FCH_MODE_MERGE = 0 ∨ is ∨ 1 < path then d
  else match f.silentFrom path with
    | none => d
    | some at_ =>
      let d := d.advanceTo at_
      { d with fin := Tab.set d.fin fc (if path = 0 then { f with silentA := true } else { f with silentB := true }) }.fcPulse'
        fc at_ (7, path + 2)

/-- A write of FCH_CTL (R180): RESYNC restarts the model at the next packet. -/
def writeFchCtl (fc : Nat) (v : Word) (d : Dev) : Dev :=
  if fget v F.FCH_CTL_RESYNC = 1 ∧ fcDir d.live fc = 1 then { d with fin := Tab.set d.fin fc { Tab.get d.fin {} fc with resync := true } } else d

/-- What a read of FCH_CTL returns. -/
def readFchCtl (fc : Nat) (d : Dev) : Nat :=
  let f := Tab.get d.fin {} fc
  if fcDir d.live fc ≠ 1 then 0 else b2n f.synced * 256 + b2n f.silentA * 512 + b2n f.silentB * 1024 + sat 16 f.c * 65536

/-- INGRESS_PACKET -/
def execIngressPacket (T : Nat) (beWait spineWait : Bool) (s : State) : Res := onMem (fun d _ => ingressPacket T beWait spineWait d) s
/-- PATH_SILENT -/
def execPathSilent (fc path : Nat) (s : State) : Res := onDev (pathSilent fc path) s
/-- FLOW_RESYNC -/
def execFlowResync (m fc : Nat) (s : State) : Res := onDev (fun d => d.hostWrite m (A.FCH_CTL fc) (writeFchCtl fc 1#32)) s

end Sys2Proof.Machine
end

