-- ==== Sys2Proof/Machine/Egress.lean ====
section
/-! DEFINITION. Egress flow channels: slots, acceptance, switching, departure requests, outcomes (chapter Flow Channels:
Egress, Delay and Clean Switching, R183-R207, R217; egress migrations R356). -/
namespace Sys2Proof.Machine

def Dev.foutOf (d : Dev) (fc : Nat) : FlowOut := Tab.get d.fout {} fc
def Dev.setFout (d : Dev) (fc : Nat) (o : FlowOut) : Dev := { d with fout := Tab.set d.fout fc o }

/-- The settings of a channel block in a bank, by block offset. -/
def blockWords (bank : Tab Word) (fc : Nat) : Tab Word :=
  (List.range 44).filterMap (fun i => (Tab.get? bank (A.FCH_MODE fc + 4 * i)).map (fun w => (4 * i, w)))

/-! ## The slot grid (R187-R190) -/

/-- TPER in seconds as a fraction; the reserved codes, which rule 0x01 refuses, stand for 1 s. -/
def tper (ws : Tab Word) : Nat × Nat :=
  let c := ef ws 0x58 F.FCH_EPER_PER
  if 1 ≤ c ∧ c ≤ 13 then
    let r := fmtRate c
    (r.2, if c ∈ [1, 2, 5, 6, 7] then 2 * r.1 else r.1)
  else match c with
    | 0x10 => (1, 8000) | 0x11 => (1, 4000) | 0x12 => (1, 3000) | 0x13 => (1, 1000) | 0x14 => (1, 250) | _ => (1, 1)

def egPhase (ws : Tab Word) : Int := sgn 32 (ef ws 0x5C F.FCH_EPHASE_NS) * 65536
def egDelay (ws : Tab Word) : Nat := ef ws 0x60 F.FCH_EDLY_NS * 65536
def egTrof (ws : Tab Word) : Nat := ef ws 0x64 F.FCH_ETROFS_NS * 65536
def egTrs (ws : Tab Word) : Nat := ef ws 0x68 F.FCH_ETRS_NS * 65536 + ef ws 0x6C F.FCH_ETRSFR_TRS_FR
def egG (ws : Tab Word) : Nat := ef ws 0 F.FCH_MODE_GRP + 1

/-- Γ(n) (R187). -/
def slotPoint (ws : Tab Word) (n : Int) : Int := n * ((tper ws).1 * secTU : Nat) / ((tper ws).2 : Int) + egPhase ws

/-- The first slot point at or after an instant. -/
def slotFrom (ws : Tab Word) (t : Int) : Int :=
  let n := (t - egPhase ws) * ((tper ws).2 : Int) / ((tper ws).1 * secTU : Nat)
  if t ≤ slotPoint ws n then slotPoint ws n else if t ≤ slotPoint ws (n + 1) then slotPoint ws (n + 1) else slotPoint ws (n + 2)

/-- δ(Σ) (R190). -/
def slotDelta (ws : Tab Word) (sl : Int) : Int := sl + egTrof ws - 10 * usTU

/-- The offset of packet `idx` from its slot's first request (R189). -/
def packetOfs (ws : Tab Word) (idx : Nat) : Nat := idx / egG ws * egG ws * egTrs ws

/-! ## Outcomes -/

/-- A reader is done with a packet (R185). -/
def Dev.release (d : Dev) (p : Stored) : Dev := if p.raw = [] then d.dropReader p.buf else d

/-- A packet of an egress channel is refused (R186, R196), with further counts; the first of the epoch pulses EG_REFUSED. -/
def Dev.egRefuse (d : Dev) (fc : Nat) (p : Stored) (code stamp : Nat) (more : List RecOp := []) : Dev :=
  let first := d.privAt fc stamp 6 = 0
  let d := ((d.fcItem fc stamp (outcomeOps 0x7C code ++ more)).roomOutcome (fcHolder d.live fc) fc stamp 0x1C code).privRun fc stamp [opSet 6 1]
  (if first then d.fcPulse' fc stamp (0x15, code) else d).release p

/-! ## Sub-ports -/

def Dev.portOf (d : Dev) (lane : Nat) : SubPort := Tab.get d.ports {} lane
def Dev.setPort (d : Dev) (lane : Nat) (p : SubPort) : Dev := { d with ports := Tab.set d.ports lane p }

/-- w(L) in TU, rounded up to a whole TU (R192). -/
def wireTU (w : View) (lane len : Nat) : Nat := octetTU w lane (len + 20)

/-- Places a request on the way to its sub-port's calendar. -/
def Dev.toCal (d : Dev) (lane : Nat) (e : CalEnt) : Dev :=
  let p := d.portOf lane
  d.setPort lane { p with cal := p.cal ++ [e] }

/-- The port of a binding. -/
def egPort (ws : Tab Word) : Nat := ef ws 0x10 F.FCH_ESRC_PORT

/-- The RTP timestamp a packet leaves with (R203); `sl` is its slot, if it has one. -/
def egTs (ws : Tab Word) (p : Stored) (sl : Option Int) : Nat :=
  match (if ef ws 0 F.FCH_MODE_REW_TS = 1 then sl else none) with
  | some s => (s * (p.clk : Int) / (secTU : Int) % 2 ^ 32).toNat
  | none => (p.ts + (ew ws 0x54).toNat) % 2 ^ 32

/-- Takes Q and advances it (R203). -/
def Dev.takeQ (d : Dev) (fc : Nat) : Nat × Dev :=
  let o := d.foutOf fc
  (o.q, d.setFout fc { o with q := (o.q + 1) % 2 ^ 32 })

/-- An accepted packet of a decided slot is numbered and its departure requested (R189, R203). -/
def Dev.request (d : Dev) (fc : Nat) (ws : Tab Word) (e : EgPkt) : Dev :=
  let q := d.takeQ fc
  q.2.toCal (egPort ws) ⟨(e.slot + egTrof ws).toNat + packetOfs ws e.pos, fc, e.pos, e.p, ws, q.1, egTs ws e.p (some e.slot), false, none, false⟩

/-- The same, or it waits for the number a migration hands over (R356). -/
def Dev.requestOrWait (d : Dev) (fc : Nat) (ws : Tab Word) (e : EgPkt) : Dev :=
  let o := d.foutOf fc
  if o.seqFrom.isSome then d.setFout fc { o with ready := o.ready ++ [e] } else d.request fc ws e

/-! ## EGRESS_PACKET -/

/-- A binding's frame states: 0 accepted and not decided, 0xFE decided and served, 0xFF released without being counted;
any other value is the code its packets are refused with. -/
def whyServed : Nat := 0xFE
def whyDropped : Nat := 0xFF

def FlowOut.setBind (o : FlowOut) (who : Nat) (b : Option Binding) : FlowOut :=
  match who with | 0 => { o with bind := b } | 1 => { o with retire := b } | _ => { o with elder := b }

/-- What becomes of a new frame for slot `sl` of binding `who` (R190, R198-R200). A frame stamped in time that reaches the
channel only after its slot was decided empty is LATE_FRAME (DESIGN CHOICE, log entry 103). -/
def FlowOut.judge (o : FlowOut) (who : Nat) (ws : Tab Word) (sl : Int) (stamp : Nat) : Nat :=
  let past (n : Option Int) : Bool := match n with | some n => decide (sl < n) | none => true
  let late := decide (slotDelta ws sl < (stamp : Int))
  let taken := o.filled.contains sl || o.held.any (fun e => e.p.who == who && e.slot == sl)
  let missed (n : Option Int) : Nat := if late then 0x0B else if taken then 0x0A else if past n then 0x0B else 0
  match who with
  | 0 => if sl < o.swS then whyDropped else missed o.nextSlot
  | 1 =>
    if sl < o.oldEnd then missed o.oldNext
    else if o.swPend = false || missed o.nextSlot != 0 then whyDropped else 0
  | _ => if sl < o.elderEnd then missed o.elderNext else whyDropped

/-- The frame a packet belongs to under its binding (R188), and whether it is a new one. The rest of a frame that began
before the binding is released without being counted: each frame leaves whole (DESIGN CHOICE, log entry 103). -/
def FlowOut.frame (o : FlowOut) (who : Nat) (b : Binding) (p : Stored) : Binding × Bool :=
  if b.cur ≠ some (p.ts, p.fst) then
    let tS := mediaT p.stamp p.clk p.ts
    let sl := slotFrom b.words (tS + egDelay b.words - usTU)
    ({ b with cur := some (p.ts, p.fst), tS := tS, slot := sl, pos := 0,
              why := if p.fst < b.since then whyDropped else o.judge who b.words sl p.stamp }, true)
  else (b, false)

/-- A packet of a paced channel. -/
def Dev.pacedPacket (d : Dev) (fc : Nat) (b : Binding) (p : Stored) : Dev :=
  let o := d.foutOf fc
  let fr := o.frame p.who b p
  let b := fr.1
  let pos := b.pos
  let o := o.setBind p.who (some { b with pos := pos + 1 })
  let o := if fr.2 ∧ !(o.seen.any (fun x => x.src == b.src && x.tS == b.tS)) then { o with seen := o.seen ++ [⟨b.src, b.tS, false, false⟩] } else o
  let d := d.setFout fc o
  if b.why = whyDropped then d.release p
  else if b.why ≠ 0 ∧ b.why ≠ whyServed then d.egRefuse fc p b.why p.stamp
  else if (tper b.words).1 * secTU ≤ packetOfs b.words pos * (tper b.words).2 then d.egRefuse fc p 0x09 p.stamp
  else if b.why = whyServed then d.requestOrWait fc b.words ⟨p, b.slot, pos, b.tS⟩
  else d.setFout fc { o with held := o.held ++ [⟨p, b.slot, pos, b.tS⟩] }

/-- The sub-port index of a first lane. -/
def subIdx (w : View) (lane : Nat) : Nat := lane % 8 / laneWidth w (lane / 8)

/-- The words kept of a sub-port's epoch: octets received and sent; of an octet (by its first lane), that it has had an
uncorrectable codeword and a late request. -/
def privSub (lane k : Nat) : Nat := 0x310000 + 4 * lane + k

/-- A pulse of octet `n` (R214): no event bit gates it. -/
def Dev.octPulse (d : Dev) (n j arg : Nat) : Dev := d.emitFrom (1400 + n) (portBase n) srcHouse none ⟨portId n j, d.now, arg⟩

/-- Counts in a sub-port's words of its quadrant record (R215, R406). -/
def Dev.subCount (d : Dev) (lane : Nat) (ops : List RecOp) : Dev :=
  let n := lane / 8
  d.count (recQuad (n / 4) + 0x40 + 56 * (8 * (n % 4) + subIdx d.live lane)) ops

/-- An inner word of octet `n`'s epoch is set: its first time pulses the octet's happening `j` (R214). -/
def Dev.octFirst (d : Dev) (lane k j : Nat) : Dev :=
  let key := privSub (lane / 8 * 8) k
  if d.acc d.sq.num key = 1 then d else (d.count key [opSet 0 1]).octPulse (lane / 8) j (subIdx d.live lane)

/-- A request that reaches its calendar after t_req − 256 ns is counted at its sub-port (R194, R214, R215). -/
def Dev.lateAtPort (d : Dev) (lane : Nat) : Dev := (d.subCount lane [opAdd 0x28 1]).octFirst lane 3 13

/-- A packet of a cut-through channel (R193, R205, R206): its request joins the calendar at once. One whose FCS proved bad
goes no further where it is stored first. -/
def Dev.cutPacket (d : Dev) (fc : Nat) (b : Binding) (p : Stored) : Dev :=
  let lane := egPort b.words
  let slow : Bool := match p.inPort with
    | some i => decide (laneWidth d.live (lane / 8) < laneWidth d.live (i / 8))
    | none => false
  if slow ∧ p.raw ≠ [] then d
  else if p.ovr then d.egRefuse fc p 0x01 p.stamp
  else if (d.portOf lane).up = false then d.egRefuse fc p 0x07 d.now
  else
    let d := if slow then d.fcItem fc d.now [opAdd 0x98 1] else d
    let q := d.takeQ fc
    (q.2.toCal lane ⟨d.now, fc, 0, p, b.words, q.1, egTs b.words p none, false, some d.now, false⟩).lateAtPort lane

/-- A packet of a best-effort channel (R207, R352); it may have waited for the spine. -/
def Dev.bePacket (d : Dev) (fc : Nat) (b : Binding) (p : Stored) (spine : Bool) : Dev :=
  let lane := egPort b.words
  let sp := d.portOf lane
  if 4096 ≤ sp.be.length then d.egRefuse fc p 0x05 d.now
  else
    let len := egLen b.words p.ulen
    let c := d.contract d.live (fcHolder d.live fc) lane len d.now true true
    if c.1 = false then c.2.egRefuse fc p 0x02 d.now
    else
      let q := c.2.takeQ fc
      q.2.setPort lane { q.2.portOf lane with be := (q.2.portOf lane).be ++ [⟨d.now, fc, 0, p, b.words, q.1, egTs b.words p none, true, some d.now, spine⟩] }

/-- EGRESS_PACKET: the channel takes the next packet its source has stored (R184, R188, R196, R205, R207); a best-effort
one may have waited for the spine. -/
def egressPacket (fc : Nat) (spineWait : Bool) (d : Dev) : Dev :=
  let o := d.foutOf fc
  match o.inq with
  | [] => d
  | p :: rest =>
    let d := d.setFout fc { o with inq := rest }
    match o.bindOf p.who with
    | none => d.release p
    | some b =>
      let twice : Bool := p.who != 0 && (match o.bind with | some n => decide (n.src = p.src ∧ n.since ≤ p.stamp) | none => false)
      if d.fdpRuns (fc / 128) = false then (if twice ∨ p.raw ≠ [] then d.release p else d.egRefuse fc p 0x04 p.stamp)
      else if ef b.words 0 F.FCH_MODE_CLASS = 1 then d.bePacket fc b p spineWait
      else if ef b.words 0 F.FCH_MODE_CUT = 1 then d.cutPacket fc b p
      else d.pacedPacket fc b p

/-! ## Decisions (R190, R200-R202) -/

/-- The earlier of two decisions; the second when they fall together. -/
def earlierDecision : Option (Nat × Tab Word × Int) → Option (Nat × Tab Word × Int) → Option (Nat × Tab Word × Int)
  | some x, some y => if slotDelta x.2.1 x.2.2 < slotDelta y.2.1 y.2.2 then some x else some y
  | some x, none => some x
  | none, y => y

/-- The next decision of the channel, with its slot: under the new binding, or under an older one for the slots before its
end. -/
def FlowOut.nextDecision (o : FlowOut) : Option (Nat × Tab Word × Int) :=
  let at_ (who : Nat) (b : Option Binding) (n : Option Int) (e : Option Int) : Option (Nat × Tab Word × Int) :=
    match b, n with
    | some b, some s => if (match e with | some e => decide (s < e) | none => true) then some (who, b.words, s) else none
    | _, _ => none
  earlierDecision (at_ 0 o.bind o.nextSlot none)
    (earlierDecision (at_ 1 o.retire o.oldNext (some o.oldEnd)) (at_ 2 o.elder o.elderNext (some o.elderEnd)))

/-- Marks a binding's current frame when its slot is decided. -/
def Binding.decided (b : Binding) (sl : Int) (served : Bool) : Binding :=
  if b.slot = sl ∧ b.why = 0 then { b with why := if served then whyServed else whyDropped } else b

/-- A slot is filled from binding `who`: its packets are requested; frames of the other binding for it are released. -/
def Dev.fillSlot (d : Dev) (fc who : Nat) (ws : Tab Word) (sl : Int) (at_ : Nat) : Dev :=
  let o := d.foutOf fc
  let mine := o.held.filter (fun e => e.p.who == who && e.slot == sl)
  let other := o.held.filter (fun e => e.p.who != who && e.slot == sl)
  let tS := (mine.head?.map (·.tS)).getD 0
  let src := ((o.bindOf who).map (·.src)).getD 0
  let same : Bool := match o.bind, o.retire with | some b, some r => b.src == r.src | _, _ => false
  let rep : Bool := who == 0 && same && o.seen.any (fun x => x.src == src && x.tS == tS && x.old)
  let skip := if who = 0 ∧ same ∧ o.firstNew then
      (match o.lastOld with | some l => (o.seen.filter (fun x => x.src == src && decide (l < x.tS) && decide (x.tS < tS))).length | none => 0) else 0
  let seen := o.seen.map (fun x => if x.src = src ∧ x.tS = tS then { x with old := x.old || who != 0, new := x.new || who == 0 } else x)
  let o := { o with
    held := o.held.filter (fun e => e.slot != sl), gapRun := 0, lostSaid := false, filled := sl :: o.filled
    bind := o.bind.map (fun b => b.decided sl (who == 0)), retire := o.retire.map (fun b => b.decided sl (who == 1))
    elder := o.elder.map (fun b => b.decided sl (who == 2))
    lastOld := if who = 0 then o.lastOld else some tS, lastNew := if who = 0 then some tS else o.lastNew, firstNew := o.firstNew && who != 0
    seen := if who = 0 ∧ o.retire.isNone then seen.filter (fun x => decide (tS ≤ x.tS)) else seen }
  let d := (d.setFout fc o).fcItem fc at_ ([opAdd 0x14 1] ++ (if rep then [opAdd 0x2C 1] else []) ++ (if 0 < skip then [opAdd 0x30 skip] else []))
  let d := other.foldl (fun d e => d.release e.p) d
  mine.foldl (fun d e => d.requestOrWait fc ws e) d

/-- A slot stays empty (R190). -/
def Dev.emptySlot (d : Dev) (fc : Nat) (ws : Tab Word) (at_ : Nat) : Dev :=
  let o := d.foutOf fc
  let run := o.gapRun + 1
  let lim := ef ws 0x58 F.FCH_EPER_GAP_LIM
  let lost := decide (0 < lim) && decide (lim ≤ run) && !o.lostSaid
  let d := (d.setFout fc { o with gapRun := run, lostSaid := o.lostSaid || lost }).fcItem fc at_ [opAdd 0x18 1]
  let d := if run = 1 then d.fcPulse' fc at_ (0x12, 0) else d
  if lost then d.fcPulse' fc at_ (0x13, lim) else d

/-- Fills a slot or leaves it empty, by what binding `who` has for it. -/
def Dev.decideSlot (d : Dev) (fc who : Nat) (ws : Tab Word) (sl : Int) (at_ : Nat) : Dev :=
  if (d.foutOf fc).held.any (fun e => e.p.who == who && e.slot == sl) then d.fillSlot fc who ws sl at_ else d.emptySlot fc ws at_

/-- The switch completes at its point (R198, R202): what the retiring binding holds for it and later slots is released. -/
def Dev.switchDone (d : Dev) (fc : Nat) (sl : Int) (at_ : Nat) : Dev :=
  let o := d.foutOf fc
  let gone (e : EgPkt) : Bool := e.p.who == 1 && decide (sl ≤ e.slot)
  let drop (b : Binding) : Binding := if sl ≤ b.slot ∧ b.why = 0 then { b with why := whyDropped } else b
  let rel := match o.retire with | some r => sl + egTrof r.words | none => sl
  let src := match o.bind with | some b => b.src | none => 0
  let d := d.setFout fc { o with swPend := false, firstNew := true, held := o.held.filter (fun e => !(gone e)), retire := o.retire.map drop, relAt := rel }
  let d := (o.held.filter gone).foldl (fun d e => d.release e.p) d
  (d.fcItem fc at_ [opAdd 0x28 1]).fcPulse' fc at_ (0x10, src)

/-- SLOT_DECISION (R190, R200, R202): the channel's earliest decision is taken at its instant. -/
def slotDecision (fc : Nat) (d : Dev) : Dev :=
  match (d.foutOf fc).nextDecision with
  | none => d
  | some (who, ws, sl) =>
    let at_ := (slotDelta ws sl).toNat
    let d := d.advanceTo at_
    let o := d.foutOf fc
    let next := some (slotFrom ws (sl + 1))
    if who = 2 then (d.setFout fc { o with elderNext := next }).decideSlot fc 2 ws sl at_
    else if who = 1 then (d.setFout fc { o with oldNext := next }).decideSlot fc 1 ws sl at_
    else
      let has (w : Nat) : Bool := o.held.any (fun e => e.p.who == w && e.slot == sl)
      if o.swPend ∧ has 0 = false ∧ has 1 ∧ o.swFree ∧ o.swDefer < ef ws 0x58 F.FCH_EPER_SW_WAIT then
        let rw := match o.retire with | some r => r.words | none => ws
        let d := d.setFout fc { o with nextSlot := next, swS := slotFrom ws (sl + 1), oldEnd := slotFrom ws (sl + 1), oldNext := next, swDefer := o.swDefer + 1 }
        ((d.fillSlot fc 1 rw sl at_).fcItem fc at_ [opAdd 0x1C 1]).fcPulse' fc at_ (0x11, o.swDefer + 1)
      else
        let d := d.setFout fc { o with nextSlot := next }
        let d := if o.swPend then d.switchDone fc sl at_ else d
        d.decideSlot fc 0 ws sl at_

/-- SLOT_START (R217): the channel's next slot point comes. -/
def slotStart (fc : Nat) (d : Dev) : Dev :=
  let o := d.foutOf fc
  match o.nextPoint with
  | none => d
  | some sl =>
    let at_ := sl.toNat
    let d := d.advanceTo at_
    let first := o.bind.isSome ∧ sl = o.swS
    let n := if first then 0 else o.sinceBind
    let new := match o.bind with | some b => some (slotFrom b.words (sl + 1)) | none => none
    let nxt := if o.swS ≤ sl then new
      else match o.retire with
        | some r => let p := slotFrom r.words (sl + 1); if p < o.oldEnd then some p else o.bind.map (fun _ => o.swS)
        | none => o.bind.map (fun _ => o.swS)
    (d.setFout fc { o with nextPoint := nxt, sinceBind := n + 1 }).fcPulse' fc at_ (0x17, n % 2 ^ 24)

/-- Drops the packets of a binding that the channel still holds. -/
def Dev.dropWho (d : Dev) (fc : Nat) (gone : Nat → Bool) : Dev :=
  let o := d.foutOf fc
  let d := d.setFout fc { o with held := o.held.filter (fun e => !(gone e.p.who)), inq := o.inq.filter (fun p => !(gone p.who)) }
  ((o.held.filter (fun e => gone e.p.who)).map (·.p) ++ o.inq.filter (fun p => gone p.who)).foldl (fun d p => d.release p) d

/-- BINDING_RELEASE (R198): a retiring binding whose switch has completed is released at its instant. -/
def bindingRelease (fc : Nat) (d : Dev) : Dev :=
  let o := d.foutOf fc
  match o.elder with
  | some _ => ((d.advanceTo o.elderAt.toNat).setFout fc { o with elder := none, elderNext := none }).dropWho fc (· == 2)
  | none => match o.retire with
    | some r =>
      if o.swPend ∨ r.paced = false then d
      else
        let d := d.advanceTo o.relAt.toNat
        (d.setFout fc { o with retire := none, oldNext := none }).dropWho fc (· == 1)
    | none => d

/-- The retiring binding of a channel without slots ends at drain close (R198, R205, R207). -/
def Dev.egressDrain (d : Dev) (fc : Nat) : Dev :=
  let o := d.foutOf fc
  match o.retire with
  | some r => if r.paced then d else (d.setFout fc { o with retire := none }).dropWho fc (· == 1)
  | none => d

/-! ## Switching at a boundary (R198-R203, R356) -/

/-- The live settings of a channel ask for an egress binding. -/
def egWants (ws : Tab Word) : Bool := ef ws 0 F.FCH_MODE_DIR == 2 && ef ws 0x10 F.FCH_ESRC_SRC_EN == 1

def egSrc (ws : Tab Word) : Nat := ef ws 0x10 F.FCH_ESRC_SRC

/-- The words whose change is a switching change: the egress block and FCH_MODE. -/
def egChanged (ow nw : Tab Word) : Bool := (List.range 44).any (fun i => i != 1 && i != 2 && ew ow (4 * i) != ew nw (4 * i))

/-- What a channel holds of its newest binding becomes what it holds of the retiring one. -/
def FlowOut.age (o : FlowOut) : FlowOut :=
  let up (w : Nat) : Nat := if w = 0 then 1 else 2
  { o with
    inq := o.inq.map (fun p => { p with who := up p.who })
    held := o.held.map (fun e => { e with p := { e.p with who := up e.p.who } }) }

/-- The settings of an egress channel change at boundary `B` from `ow` to `nw`; `newS` is the switch point a migration
gives OLD, and `fromOld` the OLD a migration's NEW takes Q from. -/
def Dev.egressApply (d : Dev) (fc B : Nat) (ow nw : Tab Word) (newS : Option Int) (fromOld : Option Nat) : Dev :=
  if egChanged ow nw = false then d
  else
    let o := d.foutOf fc
    let wasEg := ef ow 0 F.FCH_MODE_DIR = 2
    let rew := ef ow 0 F.FCH_MODE_REW_SEQ
    let q := if ef nw 0 F.FCH_MODE_DIR = 2 ∧ (¬ wasEg ∨ (rew = 0 ∧ ef nw 0 F.FCH_MODE_REW_SEQ = 1)) then (ew nw 0x50).toNat else o.q
    let again := o.swPend && (match o.retire with | some r => r.paced | none => false)
    -- the settings replaced at `B` serve as the retiring binding; otherwise one that is still held keeps its end
    let from_ := again || o.bind.isSome
    let d := if again then d.dropWho fc (· == 0) else if o.bind.isSome && o.elder.isSome then d.dropWho fc (· == 2) else d
    let o := d.foutOf fc
    let o := if again then o
      else match o.bind with
        | some b => { o.age with
            retire := some b, oldNext := o.nextSlot, elder := o.retire.filter Binding.paced, elderAt := o.relAt, elderNext := o.oldNext
            elderEnd := o.oldEnd, lastOld := o.lastNew, lastNew := none, seen := o.seen.map (fun x => { x with old := x.new, new := false }) }
        | none => o
    let nb : Option Binding := if egWants nw then some { src := egSrc nw, words := nw, since := B } else none
    let retPaced := match o.retire with | some r => r.paced | none => false
    let relOld : Int := max B (if from_ then (if o.elder.isSome then o.elderAt else B) else if retPaced then o.relAt else B)
    let served : Int := match o.retire with | some r => if r.paced then slotFrom r.words ((B + egDelay r.words : Nat) : Int) else B | none => B
    let s : Int := match newS, nb with
      | some x, _ => x
      | none, some b => if b.paced then slotFrom nw (max ((B + egDelay nw : Nat) : Int) relOld) else served
      | none, none => served
    let newPaced := match nb with | some b => b.paced | none => false
    let pend := newPaced && ((from_ && retPaced) || fromOld.isSome)
    let end_ := if from_ then s else o.oldEnd
    let rel := if from_ then (match o.retire with | some r => s + egTrof r.words | none => s) else o.relAt
    let free := (match o.retire with | some r => ew r.words 0x5C == ew nw 0x5C && ef r.words 0x58 F.FCH_EPER_PER == ef nw 0x58 F.FCH_EPER_PER | none => false) && fromOld.isNone
    d.setFout fc { o with
      q := q, bind := nb, swS := s, swPend := pend, swDefer := 0, swFree := free, relAt := rel, oldEnd := end_
      nextSlot := if newPaced then some s else none
      nextPoint := if retPaced then (match o.nextPoint with | some p => if p < end_ then some p else if newPaced then some s else none | none => if newPaced then some s else none)
        else if newPaced then some s else none
      firstNew := false, seqFrom := fromOld }

/-- MIG_SEQ_HANDOFF (R356): OLD has taken every packet before the first that NEW accepts; NEW numbers from OLD's Q. -/
def migSeqHandoff (old : Nat) (d : Dev) : Dev :=
  let o := d.foutOf old
  match d.fout.find? (fun e => e.2.seqFrom == some old) with
  | none => d
  | some (new, n) =>
    let waits := n.ready ++ n.held.filter (fun e => e.p.who == 0)
    if o.inq ≠ [] ∨ waits = [] then d
    else
      let q := (o.q + (o.held.filter (fun e => decide (e.slot < o.oldEnd))).length) % 2 ^ 32
      let d := d.setFout new { n with q := q, seqFrom := none, ready := [] }
      match n.bind with
      | some b => n.ready.foldl (fun d e => d.request new b.words e) d
      | none => n.ready.foldl (fun d e => d.release e.p) d

/-- EGRESS_PACKET -/
def execEgressPacket (x : EgressTake) (s : State) : Res := onDev (egressPacket x.fc x.spineWait) s
/-- SLOT_DECISION -/
def execSlotDecision (fc : Nat) (s : State) : Res := onDev (slotDecision fc) s
/-- SLOT_START -/
def execSlotStart (fc : Nat) (s : State) : Res := onDev (slotStart fc) s
/-- BINDING_RELEASE -/
def execBindingRelease (fc : Nat) (s : State) : Res := onDev (bindingRelease fc) s
/-- MIG_SEQ_HANDOFF -/
def execMigSeqHandoff (old : Nat) (s : State) : Res := onDev (migSeqHandoff old) s

end Sys2Proof.Machine
end

