-- ==== Sys2Proof/Machine/Ports.lean ====
section
/-! DEFINITION. The ports: reception, the calendars and departures, the host queues, links (R69-R74, R192-R194, R207,
R209-R215). -/
namespace Sys2Proof.Machine

/-! ## Sub-ports -/

/-- The first lane of sub-port `k` of octet `n`. -/
def laneOf (w : View) (n k : Nat) : Nat := 8 * n + k * laneWidth w n

/-- Counts a frame and its octets in the words at `off` and `off + 4` (octets ÷ 256, R406). -/
def Dev.subFrame (d : Dev) (lane k off len : Nat) : Dev :=
  let o := d.acc d.sq.num (privSub lane k) + len
  (d.count (privSub lane k) [(0, fun _ => o)]).subCount lane [opAdd off 1, opSet (off + 4) (min (o / 256) (2 ^ 32 - 1))]

/-- A sub-port receives and sends: it is enabled, its lanes run, its quadrant is out of reset and its link is up. -/
def Dev.subUp (d : Dev) (lane : Nat) : Bool := subEn d.live lane && d.laneRuns lane && (d.portOf lane).up

/-! ## Host receive queue (R210, R211) -/

def Dev.hostqOf (d : Dev) (n : Nat) : HostQ := Tab.get d.hostq {} n
def Dev.setHostq (d : Dev) (n : Nat) (q : HostQ) : Dev := { d with hostq := Tab.set d.hostq n q }

/-- A PTP message of any kind for the host (R210): an event message of R72, or UDP port 320. -/
def ptpForHost (w : View) (bs : List Byte) : Bool := let h := readHdr bs; (ptpAt w bs).isSome || (h.udp && udpPort bs h == 320)

/-- IGMPv3 and MLDv2 messages: queries and reports. -/
def groupMsg (bs : List Byte) : Bool :=
  let h := readHdr bs
  if h.ip4 then h.proto == 2 && (byteAt bs h.l4 == 0x11 || byteAt bs h.l4 == 0x22)
  else if h.ip6 && h.proto == 0 then
    let o := h.l4 + 8 * (byteAt bs (h.l4 + 1) + 1)
    byteAt bs h.l4 == 58 && (byteAt bs o == 130 || byteAt bs o == 143)
  else false

/-- ARP, IPv6 neighbour discovery, LLDP. -/
def mgmtMsg (bs : List Byte) : Bool :=
  let h := readHdr bs
  h.et == 0x0806 || h.et == 0x88CC || (h.ip6 && h.proto == 58 && decide (133 ≤ byteAt bs h.l4) && decide (byteAt bs h.l4 ≤ 137))

/-- The cause of a frame no key matches (R210). -/
def hostCause (w : View) (bs : List Byte) : Nat := if ptpForHost w bs then 1 else if groupMsg bs then 2 else if mgmtMsg bs then 3 else 4

/-- A frame for the host (R211): a buffer of RXPOOL, a descriptor; discarded when either is full. -/
def Dev.toHost (d : Dev) (lane stamp cause : Nat) (bs : List Byte) : Dev × List MemOp :=
  let n := lane / 8
  let q := d.hostqOf n
  let k := subIdx d.live lane
  let lose (d : Dev) : Dev := ((d.setIm (A.PRT_HQSTAT n) F.PRT_HQSTAT_HRX_LOST 1).subCount lane [opAddF 0x14 16 16 1]).octPulse n 9 k
  if 256 ≤ q.rx.length then (lose d, [])
  else match d.allocBuf (n / 4) (d.lv (A.PRT_HCFG n) F.PRT_HCFG_RXPOOL) houseDom .hostRx with
    | (none, d) => (lose d, [])
    | (some h, d) =>
      let ent := (bs.length + k * 2 ^ 12 + cause * 2 ^ 15 + 2 ^ 31) :: h :: fullTime stamp
      let d := (d.setHostq n { d.hostqOf n with rx := q.rx ++ [ent] }).subCount lane [opAdd 0x10 1]
      (if q.rx.length + 1 = d.lv (A.PRT_HCFG n) F.PRT_HCFG_THRESH then d.octPulse n 8 (q.rx.length + 1) else d,
        [.store (2048 * (h % 2 ^ 18)) bs])

/-- The codewords of a sub-port's FEC (R214, R215). -/
def Dev.codewords (d : Dev) (lane corr bad : Nat) : Dev :=
  if corr = 0 ∧ bad = 0 then d
  else
    let d := d.subCount lane [opAdd 0x18 corr, opAdd 0x1C bad]
    if 0 < bad then d.octFirst lane 2 12 else d

/-- PORT_FRAME_RECEIVE (R69, R70, R210): a frame at the sub-port with first lane `lane`. -/
def portFrameReceive (lane : Nat) (f : Frame) (d : Dev) : Dev × List MemOp :=
  let d := d.advanceTo f.t
  if d.subUp lane = false then (d, [])
  else
    let stamp := ((f.t : Int) - sgn 32 (d.lv (A.HPTP_LAT_IN lane) F.HPTP_LAT_IN_LAT)).toNat
    let len := f.bytes.length + 4
    let d := d.codewords lane f.fecCorr f.fecBad
    let d := d.subFrame lane 0 0 len
    let hit := classify (d.viewAt stamp) (d.keysAt stamp) lane f.bytes
    if f.fcsOk = false then
      let d := d.subCount lane [opAdd 8 1]
      (match hit with
        | some c => if (d.cutReaders c.1 stamp).isEmpty then d else d.inject c.1 c.2 (some lane) stamp f.bytes true
        | none => d, [])
    else if len < 64 ∨ d.lv (subCfg d.live lane) F.PRT_SUB_MAXLEN < len then (d.subCount lane [opAddF 0xC 0 16 1], [])
    else if be16 f.bytes 12 = 0x8808 then (d.subCount lane [opAddF 0xC 16 16 1], [])
    else match hit with
      | some c => (d.inject c.1 c.2 (some lane) stamp f.bytes false, [])
      | none =>
        let cause := hostCause d.live f.bytes
        if bitOf (d.lv (subCfg d.live lane) F.PRT_SUB_HOSTF) (cause - 1) then d.toHost lane stamp cause f.bytes
        else (d.subCount lane [opAddF 0x14 0 16 1], [])

/-- A read of PRT_HRX0 (R211): the head descriptor into the master's latch; the house owner takes it. -/
def readHrx0 (m n : Nat) (d : Dev) : Dev × Nat :=
  let q := d.hostqOf n
  let e := q.rx.headD [0, 0, 0, 0, 0]
  let d := if d.owns m houseDom then d.setHostq n { q with rx := q.rx.tail } else d
  (d.setLatch (A.PRT_HRX0 n) m e, e.headD 0)

/-- A write of PRT_HFREE (R211, R368). -/
def writeHfree (v : Word) (d : Dev) : Dev := (d.tryFree v.toNat houseDom true).2

/-- A read of PRT_HALLOC (R212). -/
def readHalloc (m n : Nat) (d : Dev) : Dev × Nat :=
  if d.owns m houseDom then
    match d.allocBuf (n / 4) (d.lv (A.PRT_HCFG n) F.PRT_HCFG_TXPOOL) houseDom .explicit with
    | (some h, d) => (d, h + 2 ^ 31)
    | (none, d) => (d, 0)
  else (d, 0)

/-- A write of PRT_HTX1 (R212): the frame joins the octet's host transmit queue. -/
def writeHtx1 (n : Nat) (v : Word) (d : Dev) : Dev :=
  let q := d.hostqOf n
  if 64 ≤ q.tx.length then (d.setIm (A.PRT_HQSTAT n) F.PRT_HQSTAT_HTX_FULL 1).octPulse n 10 0
  else
    let h := d.im (A.PRT_HTX0 n) F.PRT_HTX0_HANDLE
    let i := h % 2 ^ 18
    let b := d.bufOf i
    let d := if b.alloc ∧ b.dom = houseDom ∧ b.holder = .explicit then d.setBuf i { b with holder := .device } else d
    d.setHostq n { q with tx := q.tx ++ [⟨i, h, fget v F.PRT_HTX1_LEN, fget v F.PRT_HTX1_SUB⟩] }

/-! ## The calendar (R193, R194) -/

/-- The request reached the calendar after t_req − 256 ns. -/
def CalEnt.late (e : CalEnt) : Bool := decide (e.t < e.arr.getD 0 + 256 * nsTU)

/-- A request that reached the calendar is refused; a late one counts in LATE_REQ (R194, R196). -/
def Dev.calRefuse (d : Dev) (e : CalEnt) (code : Nat) : Dev :=
  d.egRefuse e.fc e.p code e.t (if e.late then [opAdd 0x94 1] else [])

/-- CALENDAR_REQUEST: the first request on its way reaches its sub-port's calendar. -/
def calendarRequest (lane : Nat) (d : Dev) : Dev :=
  let p := d.portOf lane
  match p.cal.findIdx? (fun e => e.arr.isNone) with
  | none => d
  | some i => match p.cal[i]? with
    | none => d
    | some e =>
      let e := { e with arr := some d.now }
      let d := if e.late then d.lateAtPort lane else d
      if d.subUp lane = false then (d.setPort lane { p with cal := p.cal.eraseIdx i }).calRefuse e 0x07
      else d.setPort lane { p with cal := p.cal.set i e }

/-- The order of the calendar: t_req, then channel, then index (R193). -/
def calBefore (a b : CalEnt) : Bool :=
  decide (a.t < b.t) || (a.t == b.t && (decide (a.fc < b.fc) || (a.fc == b.fc && decide (a.idx < b.idx))))

/-- The head of the requests that have reached the calendar. -/
def calHead : List CalEnt → Option CalEnt
  | [] => none
  | e :: t => match calHead t with
    | none => if e.arr.isSome then some e else none
    | some h => if e.arr.isSome && calBefore e h then some e else some h

/-- When the head request can start. -/
def CalEnt.start (e : CalEnt) (freeAt : Nat) : Nat := max (max e.t freeAt) (if e.late then e.arr.getD 0 + 256 * nsTU else 0)

/-- PTP at the wire (R73, R74): the frame as sent and its capture entry. -/
def Dev.ptpOut (d : Dev) (lane t : Nat) (bs : List Byte) : Dev × List Byte :=
  match ptpAt d.live bs with
  | none => (d, bs)
  | some o =>
    let mt := byteAt bs o % 16
    let one := mt = 0 ∧ d.lvb A.HPTP_CFG F.HPTP_CFG_ONE_STEP ∧ bitOf (byteAt bs (o + 6)) 1 = false
    let info := lane * 2 ^ 8 + mt * 2 ^ 15 + byteAt bs (o + 4) * 2 ^ 19 + (if one then 2 ^ 27 else 0)
    (if d.lvb A.HCAP_CFG F.HCAP_CFG_EN_PTP then d.capInsert 8 info (be16 bs (o + 30)) t else d, if one then oneStep bs o t else bs)

/-- A frame departs with the stamp `t` (R69): the sub-port is busy for w(L), its octets go out with their FCS. The stamp includes
HPTP_LAT_OUT, so the frame passes the ball that much earlier (R70, R191). -/
def Dev.onWire (d : Dev) (lane t : Nat) (bs : List Byte) (stomp : Bool) : Dev :=
  let len := bs.length + 4
  let p := d.portOf lane
  let d := d.setPort lane { p with freeAt := t + wireTU d.live lane len }
  let f := d.ptpOut lane t bs
  let fcs := fcsOf f.2
  let fcs := if stomp then fcs.map (fun b => ~~~b) else fcs
  (f.1.subFrame lane 1 0x20 len).emit (.frame lane ((t : Int) - sgn 32 (d.lv (A.HPTP_LAT_OUT lane) F.HPTP_LAT_OUT_LAT)).toNat (f.2 ++ fcs))

/-- The slip histogram's bin of a slip in TU (R216). -/
def slipBin (slip : Nat) : Nat := let ns := slip / nsTU; if ns = 0 then 0 else min 15 (Nat.log2 ns + 1)

/-- A packet of an egress channel departs at an instant (R194, R216). -/
def Dev.depart (d : Dev) (mem : Mem) (lane t : Nat) (e : CalEnt) : Dev :=
  let fc := e.fc
  let stomp := e.p.raw ≠ []
  let src := if stomp then e.p.raw else mem.bytes (2048 * e.p.buf) e.p.len
  let bs := egFrame e.words src e.seqOut e.tsOut
  let len := bs.length + 4
  let d := d.onWire lane t bs stomp
  let slip := t - e.t
  let lim := ef e.words 0x78 F.FCH_ESLIP_SLIP_LIM * nsTU
  let code := if e.be then (if e.spine then 0x11 else if e.t < t then 0x10 else 0) else if lim < slip then 0x12 else 0
  let rd (o : Nat) := d.recAt t (recFc fc) o
  let ops := [opAdd 0x10 1] ++ opAdd64 rd 0x20 len ++ outcomeOps 0x7C code ++
    (if e.be then [] else
      (if 0 < slip then [opAdd 0x88 1] else []) ++ [opMax 0x8C (sat 32 (slip / 4096)), opAdd (0xC0 + 4 * slipBin slip) 1] ++
      (if code = 0x12 then [opAdd 0x90 1] else []) ++ (if e.late then [opAdd 0x94 1] else []))
  let room := fcHolder d.live fc
  let first := code = 0x12 ∧ d.privAt fc t 8 = 0
  let d := ((d.fcItem fc t ops).roomOutcome room fc t 0x1C code).privRun fc t ([opMax 3 (t + 1)] ++ (if first then [opSet 8 1] else []))
  let d := if first then d.fcPulse' fc t (0x14, min (slip / nsTU) (2 ^ 24 - 1)) else d
  let d := if e.be then d.subCount lane [opAdd 0x30 1] else
    let d := if 0 < slip then d.subCount lane [opAdd 0x2C 1] else d
    (d.contract d.live room lane len t false true).2
  let d := if stomp then d.subCount lane [opAdd 0x34 1] else d
  (d.setFout fc { d.foutOf fc with lastTs := e.tsOut }).release e.p

/-- The host frame that is next for a sub-port: the octet's first for it. -/
def HostQ.nextTx (q : HostQ) (k : Nat) : Option (Nat × HTx) :=
  match q.tx.findIdx? (fun x => x.sub == k) with
  | some i => q.tx[i]?.map (fun x => (i, x))
  | none => none

/-- A host frame departs (R212). -/
def Dev.departHost (d : Dev) (mem : Mem) (lane t i : Nat) (x : HTx) : Dev :=
  let n := lane / 8
  let q := d.hostqOf n
  let d := (d.setHostq n { q with tx := q.tx.eraseIdx i }).onWire lane t (mem.bytes (2048 * x.buf) x.len) false
  let d := d.subCount lane [opAdd 0x30 1]
  if (d.bufOf x.buf).alloc ∧ (d.bufOf x.buf).holder = .device then d.freeBuf x.buf else d

/-- PACKET_DEPARTURE (R193, R194, R207): the sub-port's next frame takes the wire, or a request that can no longer meet
its limit is refused; a packet whose FCS proved bad before its departure began is discarded (R206). -/
def packetDeparture (lane : Nat) (mem : Mem) (d : Dev) : Dev :=
  if d.subUp lane = false then d
  else
    let p := d.portOf lane
    let k := subIdx d.live lane
    let free := max d.now p.freeAt
    let head := calHead p.cal
    let host := (d.hostqOf (lane / 8)).nextTx k
    let hostNow := host.isSome && (p.hostTurn || p.be.isEmpty)
    let beLen : Option Nat := if hostNow then host.map (fun x => x.2.len + 4) else (p.be.head?.map (fun e => egLen e.words e.p.ulen))
    let beFits := match beLen, head with
      | some l, some h => decide (free < h.start p.freeAt) && decide (free + wireTU d.live lane l ≤ h.t)
      | some _, none => true
      | none, _ => false
    if beFits then
      let d := d.advanceTo free
      match hostNow, host, p.be with
      | true, some x, _ => (d.setPort lane { p with hostTurn := false }).departHost mem lane free x.1 x.2
      | _, _, e :: t => (d.setPort lane { p with be := t, hostTurn := true }).depart mem lane free e
      | _, _, [] => d
    else match head with
      | none => d
      | some e =>
        let at_ := e.start p.freeAt
        let d := d.setPort lane { p with cal := p.cal.erase e }
        if e.p.raw ≠ [] ∧ e.p.endAt ≤ at_ then d
        else if ef e.words 0 F.FCH_MODE_DROP_LATE = 1 ∧ e.t + ef e.words 0x78 F.FCH_ESLIP_SLIP_LIM * nsTU < at_ then d.calRefuse e 0x08
        else (d.advanceTo at_).depart mem lane at_ e

/-! ## Links (R213, R214) -/

/-- A sub-port's link goes down: every scheduled request for it is refused. -/
def Dev.portDown (d : Dev) (lane : Nat) : Dev :=
  let p := d.portOf lane
  let gone := p.cal.filter (fun e => e.arr.isSome)
  let d := d.setPort lane { p with up := false, cal := p.cal.filter (fun e => e.arr.isNone) }
  gone.foldl (fun d e => d.calRefuse e 0x07) d

/-- The status bits of PRT_LINK that a link change sets. -/
def linkMask : Word := 0x6F#32

/-- A sub-port's link comes up or goes down, with the status its PRT_LINK shows. -/
def Dev.setLink (d : Dev) (lane : Nat) (v : Word) : Dev :=
  let n := lane / 8
  let k := subIdx d.live lane
  let a := A.PRT_LINK n k
  let up := fget v F.PRT_LINK_UP = 1
  let was := (d.portOf lane).up
  let d := d.setImmW a ((d.immW a &&& ~~~linkMask) ||| (v &&& linkMask))
  let d := if up then d.setPort lane { d.portOf lane with up := true } else d.portDown lane
  if was = decide up then d else d.octPulse n k (b2n up)

/-- PORT_LINK_CHANGE: only a sub-port that is enabled and whose lanes run has a link. -/
def portLinkChange (lane : Nat) (v : Word) (d : Dev) : Dev :=
  if subEn d.live lane && d.laneRuns lane then d.setLink lane v else d

/-- Sub-ports that the settings, the gates or a reset have stopped lose their link. -/
def Dev.linksRecheck (d : Dev) : Dev :=
  d.ports.foldl (fun d e => if (d.portOf e.1).up && !(subEn d.live e.1 && d.laneRuns e.1) then d.setLink e.1 0 else d) d

/-- LINK_TRAINING_FAIL (R214). -/
def linkTrainingFail (lane : Nat) (d : Dev) : Dev :=
  if subEn d.live lane && d.laneRuns lane then
    (d.setIm (A.PRT_LINK (lane / 8) (subIdx d.live lane)) F.PRT_LINK_LT_FAIL 1).octPulse (lane / 8) 11 (subIdx d.live lane)
  else d

/-- PORT_FRAME_RECEIVE -/
def execPortFrameReceive (lane : Nat) (f : Frame) (s : State) : Res := onMem (fun d _ => portFrameReceive lane f d) s
/-- CALENDAR_REQUEST -/
def execCalendarRequest (lane : Nat) (s : State) : Res := onDev (calendarRequest lane) s
/-- PACKET_DEPARTURE -/
def execPacketDeparture (lane : Nat) (s : State) : Res := onMem (fun d mem => (packetDeparture lane mem d, [])) s
/-- HOST_RX_POP -/
def execHostRxPop (m n : Nat) (s : State) : Res := onDev (fun d => d.hostReadBy m (readHrx0 m n)) s
/-- HOST_FREE -/
def execHostFree (m n : Nat) (v : Word) (s : State) : Res := onDev (fun d => d.hostWrite m (A.PRT_HFREE n) (writeHfree v)) s
/-- HOST_ALLOC -/
def execHostAlloc (m n : Nat) (s : State) : Res := onDev (fun d => d.hostReadBy m (readHalloc m n)) s
/-- HOST_TRANSMIT -/
def execHostTransmit (m n : Nat) (v : Word) (s : State) : Res := onDev (fun d => d.hostWrite m (A.PRT_HTX1 n) (writeHtx1 n v)) s
/-- PORT_LINK_CHANGE -/
def execPortLinkChange (lane : Nat) (v : Word) (s : State) : Res := onDev (portLinkChange lane v) s
/-- LINK_TRAINING_FAIL -/
def execLinkTrainingFail (lane : Nat) (s : State) : Res := onDev (linkTrainingFail lane) s

end Sys2Proof.Machine
end

