-- ==== Sys2Proof/Machine/Pins.lean ====
section
/-! DEFINITION. Pin channels: the interpolator, the edge queue, periodic waveforms, capture and count (chapter Pin
Channels: Pulse Trains, PWM, Capture and Timers, R219-R246). -/
namespace Sys2Proof.Machine

def Dev.pcOf (d : Dev) (pc : Nat) : PinCh := Tab.get d.pins {} pc
def Dev.setPc (d : Dev) (pc : Nat) (c : PinCh) : Dev := { d with pins := Tab.set d.pins pc c }

/-- A word of a channel block's settings. -/
def pw (ws : Tab Word) (off : Nat) : Word := (Tab.get? ws off).getD (resetWord false (A.PCH_MODE 0 + off))
/-- A field of a channel block's settings. -/
def pf (ws : Tab Word) (off : Nat) (f : Fld) : Nat := fget (pw ws off) f

/-- The settings of a channel block in a bank, by block offset. -/
def pinWords (bank : Tab Word) (pc : Nat) : Tab Word :=
  ((List.range 20).map (4 * ·) ++ [0x100, 0x104, 0x108, 0x10C]).filterMap (fun o => (Tab.get? bank (A.PCH_MODE pc + o)).map (fun w => (o, w)))

/-- The mode whose waveform runs. -/
def PinCh.mode (c : PinCh) : Nat := pf c.words 0 F.PCH_MODE_MODE
def PinCh.inv (c : PinCh) : Bool := pf c.words 0 F.PCH_MODE_INV == 1
def PinCh.idle (c : PinCh) : Bool := pf c.words 0 F.PCH_MODE_IDLE == 1
/-- The live mode of a channel. -/
def Dev.pcMode (d : Dev) (pc : Nat) : Nat := d.lv (A.PCH_MODE pc) F.PCH_MODE_MODE

def periodic (mode : Nat) : Bool := mode == 2 || mode == 4

/-- The minimum spacing of R226: 4 ns on a single-ended pin, 1 ns on an LVDS pair. -/
def pinSpacing (pc : Nat) : Nat := if 60 ≤ pc % 64 then nsTU else 4 * nsTU

/-- The lead of the interpolator (R34). -/
def pinLead : Nat := 24 * nsTU
/-- Λ (R258). -/
def lambdaTU : Nat := 20 * nsTU

/-- Counts in a channel's record. -/
def Dev.pcItem (d : Dev) (pc stamp : Nat) (ops : List RecOp) : Dev := d.item (srcPin d pc) stamp ops

/-- The inner words of a channel's epoch: 0 the sum and 1 the number of the capture intervals, 3 the last capture + 1,
4 late already, 5 a capture lost already, 6 a push refused already, 7 the time in safe state in TU. -/
def privPin (pc : Nat) : Nat := 0x300000 + 16 * pc

/-- The first time in the epoch of a stamp that the inner flag `k` of a channel is raised. -/
def Dev.pcFirst (d : Dev) (pc stamp k : Nat) : Bool × Dev :=
  let e := d.epochAt stamp
  (d.acc e (privPin pc + k) == 0, d.accRun e (privPin pc) [opSet k 1])

/-! ## The pin (R222, R223, R228, R258) -/

/-- A pin bank is supplied and its governed activation has started; the LVDS pairs need neither (R219, R457, R484, R487). -/
def Dev.bankOn (d : Dev) (pc : Nat) : Bool :=
  match pinBank pc with
  | some b => !(d.pwr.banksOff.contains b) && d.activated 4 b
  | none => true

/-- Some cause other than the twin's is set (R257, R418). -/
def PinCh.causes (c : PinCh) : Nat := c.cause % 256

/-- The complement of a PWM channel waits while its leader is active: the two outputs are never active together, before INV
(R239). -/
def Dev.pairBlocks (d : Dev) (pc : Nat) : Bool :=
  let l := d.pcOf (pc - 1)
  (d.pcOf pc).mode == 5 && l.mode == 4 && !l.inSafe && l.wlevel

/-- What the driver of a channel is asked for: nothing (high impedance), or a pin level. -/
def Dev.wantPin (d : Dev) (pc : Nat) : Option Bool :=
  let c := d.pcOf pc
  if drivenMode (d.pcMode pc) = false ∨ d.bankOn pc = false ∨ bitOf c.cause 8 ∨ d.pwr.st = .deep ∨ d.pwr.hallwayOpen = false then none
  else if c.inSafe then
    match d.lv (A.PCH_SAFE pc) F.PCH_SAFE_SAFE with
    | 0 => some c.inv
    | 1 => some (!c.inv)
    | 2 => none
    | _ => some c.pin
  else some ((c.wlevel && !d.pairBlocks pc) != c.inv)

/-- Adds a window to those of a trip input: windows that overlap merge (R263). -/
def mergeWindow : List (Nat × Nat) → Nat → Nat → List (Nat × Nat)
  | [], a, b => [(a, b)]
  | (x, y) :: r, a, b =>
    if b < x then (a, b) :: (x, y) :: r
    else if y < a then (x, y) :: mergeWindow r a b
    else mergeWindow r (min x a) (max y b)

/-- Trip inputs of the channel's tile whose blanking source it is open a window at an edge (R263). -/
def Dev.openBlanks (d : Dev) (pc t : Nat) (active : Bool) : Dev :=
  (List.range 4).foldl (fun d i =>
    let n := 4 * (pc / 64) + i
    let w := d.lv (A.TRIP_BLK n) F.TRIP_BLK_BLANK_W
    let sel := d.lv (A.TRIP_CFG n) F.TRIP_CFG_BLANK_EDGE
    if d.lvb (A.TRIP_CFG n) F.TRIP_CFG_EN ∧ 0 < w ∧ d.lv (A.TRIP_CFG n) F.TRIP_CFG_BLANK_SRC = pc % 64 ∧
        bitOf sel (if active then 0 else 1) then
      let x := Tab.get d.trips {} n
      { d with trips := Tab.set d.trips n { x with blank := mergeWindow x.blank t (t + w * nsTU) } }
    else d) d

/-- LAT_OUT in force (R223). -/
def Dev.latOut (d : Dev) (pc : Nat) : Int := sgn 32 (d.lv (A.PCH_LATO pc) ⟨0, 32⟩)

/-- The earliest instant at or after `t` that keeps the minimum spacing from the last edge placed (R226). -/
def PinCh.spaced (c : PinCh) (pc t : Nat) : Nat := match c.lastEdge with | some e => max t (e + pinSpacing pc) | none => t

/-- Brings the pin to what is asked for at an instant: the driver is switched, an edge is placed where the level changes, no sooner
than the minimum spacing after the edge before (R226). An edge leaves at the instant less `lat`, LAT_OUT at its request (R223). -/
def Dev.driveLat (d : Dev) (pc t : Nat) (lat : Int) : Dev :=
  let c := d.pcOf pc
  match d.wantPin pc with
  | none => if c.oe then (d.setPc pc { c with oe := false }).emit (.driver pc t false) else d
  | some l =>
    let d := if c.oe then d else (d.setPc pc { c with oe := true }).emit (.driver pc t true)
    if l = c.pin then d
    else
      let t := c.spaced pc t
      let d := (d.setPc pc { d.pcOf pc with pin := l, lastEdge := some t }).emit (.edge pc ((t : Int) - lat).toNat l)
      (d.pcItem pc t [opAdd 0x10 1]).openBlanks pc t (l != c.inv)

/-- The pin at an instant, with the LAT_OUT in force. -/
def Dev.drivePin (d : Dev) (pc t : Nat) : Dev := d.driveLat pc t (d.latOut pc)

/-- The waveform takes a level at an instant; the complement of a PWM channel follows its leader (R239). -/
def Dev.setLevelLat (d : Dev) (pc t : Nat) (l : Bool) (lat : Int) : Dev :=
  let d := d.setPc pc { d.pcOf pc with wlevel := l }
  if (d.pcOf pc).mode = 4 ∧ pc % 2 = 0 ∧ (d.pcOf (pc + 1)).mode = 5 then
    if l then (d.drivePin (pc + 1) t).driveLat pc t lat else (d.driveLat pc t lat).drivePin (pc + 1) t
  else d.driveLat pc t lat

/-- The waveform takes a level at an instant, with the LAT_OUT in force. -/
def Dev.setLevel (d : Dev) (pc t : Nat) (l : Bool) : Dev := d.setLevelLat pc t l (d.latOut pc)

/-- Inserts a request by its instant, after those of the same instant. -/
def reqInsert : List EdgeReq → EdgeReq → List EdgeReq
  | [], r => [r]
  | x :: t, r => if r.t < x.t then r :: x :: t else x :: reqInsert t r

/-- Makes requests to the channel's interpolator, with the LAT_OUT in force (R230); in safe state, or at or after the instant it
begins to act, none is placed (R259). -/
def Dev.requests (d : Dev) (pc : Nat) (rs : List EdgeReq) : Dev :=
  let c := d.pcOf pc
  let ok (r : EdgeReq) : Bool := !c.inSafe && (match c.safePend with | some x => decide (r.t < x) | none => true)
  d.setPc pc { c with reqs := ((rs.filter ok).map (fun r => { r with lat := d.latOut pc })).foldl reqInsert c.reqs }

/-! ## The grid (R229) -/

def pinPnum (ws : Tab Word) : Nat := pf ws 0x10 F.PCH_PNUM0_PNUM + pf ws 0x14 F.PCH_PNUM1_PNUM * 2 ^ 32
def pinPden (ws : Tab Word) : Nat := max 1 (pf ws 0x14 F.PCH_PNUM1_PDEN)
def pinPhase (ws : Tab Word) : Nat := pf ws 0x18 F.PCH_PHASE_NS * nsTU + pf ws 0x1C F.PCH_PHFR_PHASE_FR

/-- Γ(n). -/
def pinGamma (ws : Tab Word) (anchor : Nat) (n : Int) : Int := n * (pinPnum ws : Int) / (pinPden ws : Int) + pinPhase ws + anchor

/-- The index of the first grid point at or after an instant. -/
def pinIndex (ws : Tab Word) (anchor : Nat) (t : Int) : Int :=
  let n := (t - pinPhase ws - anchor) * (pinPden ws : Int) / (max 1 (pinPnum ws) : Nat)
  if t ≤ pinGamma ws anchor n then n else if t ≤ pinGamma ws anchor (n + 1) then n + 1 else n + 2

/-- A fraction of P in 2^-24 (R236, R241). -/
def pinPart (ws : Tab Word) (x : Nat) : Nat := x * pinPnum ws / (pinPden ws * 2 ^ 24)

/-- 1/16 ns as TU. -/
def sixteenth (n : Nat) : Nat := n * 4096

/-! ## PWM (R236-R240) -/

/-- The active interval of a period [`g0`, `g1`) at a duty after R237, and whether the period was clipped. -/
def pwmInterval (ws : Tab Word) (duty : Nat) (g0 g1 : Int) : Option (Int × Int) × Bool :=
  let p := (g1 - g0).toNat
  let on := pinPart ws duty
  let minpw := sixteenth (pf ws 0x34 F.PCH_PWMW_MINPW)
  if on < minpw then (none, true)
  else if p - on < minpw then (some (g0, g1), true)
  else if pf ws 0x30 F.PCH_PWM_CENTRE = 1 then (let a := g0 + ((p - on) / 2 : Nat); (some (a, a + on), false))
  else (some (g0, g0 + on), false)

/-- The changes of the interval's level in a period that begins after level `raw`: `first` states the level at `g0` even
when it does not change. -/
def pwmChanges (raw first : Bool) (g0 g1 : Int) (iv : Option (Int × Int)) : List (Int × Bool) :=
  match iv with
  | none => if raw || first then [(g0, false)] else []
  | some (a, b) =>
    (if g0 < a then (if raw || first then [(g0, false)] else []) ++ [(a, true)] else if raw && !first then [] else [(g0, true)]) ++
    (if b < g1 then [(b, false)] else [])

/-- The level after changes. -/
def lastLevel (raw : Bool) (l : List (Int × Bool)) : Bool := match l.getLast? with | some x => x.2 | none => raw

/-- The instant of the first later change to a level. -/
def nextChange (l : List (Int × Bool)) (t : Int) (v : Bool) : Option Int := (l.find? (fun x => decide (t < x.1) && x.2 == v)).map (·.1)

/-- A delayed active edge: none when the interval it opens is shorter than MINPW. -/
def delayed (all : List (Int × Bool)) (t : Int) (closes : Bool) (dt minpw : Nat) : List EdgeReq :=
  let keep := match nextChange all t closes with | some e => decide (t + dt + minpw ≤ e) | none => true
  if keep then [{ t := (t + dt).toNat, level := true, why := 4 }] else []

/-- The requests of a period's changes: an inactive edge at `rfr` opens a refresh window (R240). -/
def leadRequests (now : List (Int × Bool)) (rfr : Option Int) (up : Int × Bool → List EdgeReq) : List EdgeReq :=
  now.flatMap (fun x => if x.2 then up x else [{ t := x.1.toNat, level := false, why := if rfr = some x.1 then 5 else 0 }])

/-- The requests of the complement for the changes of its leader's period (R239). -/
def compRequests (now : List (Int × Bool)) (dt minpw : Nat) : List EdgeReq :=
  now.flatMap (fun x => if x.2 then [{ t := x.1.toNat, level := false }] else delayed now x.1 true dt minpw)

/-- Drops the delayed active edges that the inactive edges of a new period make shorter than MINPW (R239). -/
def cancelShort (minpw : Nat) (new old : List EdgeReq) : List EdgeReq :=
  old.filter (fun r => !(r.why == 4 && new.any (fun y => !y.level && decide (y.t < r.t + minpw))))

/-- The duty a period that begins at an instant takes (R238), and whether a load set gave it. -/
def PinCh.dutyAt (c : PinCh) (g0 : Int) : Nat × Bool :=
  let own := match (c.sched.filter (fun x => decide ((x.2 : Int) ≤ g0))).getLast? with | some x => x.1 | none => c.duty
  match c.pend with
  | some (v, t) => if (t : Int) ≤ g0 then (v, true) else (own, false)
  | none => (own, false)

/-- A period of a PWM channel: its duty and whether a load set gave it, its active interval after R237 and R240 with whether R237
clipped it, the count of periods active throughout, the start of its refresh window if it has one. -/
structure PwmPlan where
  duty : Nat
  load : Bool
  on : Option (Int × Int)
  clip : Bool
  cnt : Nat
  rfr : Option Int
deriving DecidableEq, Repr

/-- What period n will be, by the duties taken so far (R236-R238, R240). -/
def PinCh.plan (c : PinCh) (n : Int) : PwmPlan :=
  let ws := c.words
  let g0 := pinGamma ws c.anchor n
  let g1 := pinGamma ws c.anchor (n + 1)
  let du := c.dutyAt g0
  let iv := pwmInterval ws du.1 g0 g1
  let cnt := if iv.1 = some (g0, g1) then c.rfrCnt + 1 else 0
  let win := g1 - sixteenth (pf ws 0x34 F.PCH_PWMW_RFR_W)
  if 0 < cnt ∧ pf ws 0x30 F.PCH_PWM_RFR_EN = 1 ∧ cnt = pf ws 0x30 F.PCH_PWM_RFR_N then ⟨du.1, du.2, some (g0, win), iv.2, 0, some win⟩
  else ⟨du.1, du.2, iv.1, iv.2, cnt, none⟩

/-- Period n of a PWM channel. -/
def Dev.pwmPeriod (d : Dev) (pc : Nat) (n : Int) (first : Bool) : Dev :=
  let c := d.pcOf pc
  let ws := c.words
  let g0 := pinGamma ws c.anchor n
  let g1 := pinGamma ws c.anchor (n + 1)
  let st := g0.toNat
  let p := c.plan n
  let now := pwmChanges c.raw first g0 g1 p.on
  let comp := pc + 1
  let paired := pc % 2 = 0 ∧ (d.pcOf comp).mode = 5
  let dt := sixteenth (pf ws 0x30 F.PCH_PWM_DT)
  let minpw := sixteenth (pf ws 0x34 F.PCH_PWMW_MINPW)
  let main := leadRequests now p.rfr (fun x => if paired then delayed now x.1 false dt minpw else [{ t := x.1.toNat, level := true }])
  let trigs := (List.range 2).filterMap (fun i =>
    let w := pw ws (0x3C + 4 * i)
    if fget w F.PCH_TRIG_EN = 1 then some (i, st + pinPart ws (fget w F.PCH_TRIG_POS)) else none)
  let d := d.setPc pc { c with
    duty := p.duty, pend := if p.load then none else c.pend, sched := c.sched.filter (fun x => decide (g0 < (x.2 : Int)))
    rfrCnt := p.cnt, raw := lastLevel c.raw now, trigs := c.trigs ++ trigs, reqs := cancelShort minpw main c.reqs }
  let d := d.requests pc main
  let d := if paired then
      let l := compRequests now dt minpw
      (d.setPc comp { d.pcOf comp with reqs := cancelShort minpw l (d.pcOf comp).reqs }).requests comp l
    else d
  let d := d.pcItem pc st ((if p.clip then [opAdd 0x24 1] else []) ++ (if p.load then [opAdd 0x2C 1] else []))
  if p.load then d.pcPulse pc 9 (pf ws 0 F.PCH_MODE_LOADGRP) st else d

/-- A train of COUNT pulses has begun its last one (R234). -/
def PinCh.trainOver (c : PinCh) : Bool :=
  c.mode == 2 && decide (0 < pf c.words 0x2C F.PCH_COUNT_COUNT) && decide (pf c.words 0x2C F.PCH_COUNT_COUNT ≤ c.trainCnt)

/-- Period n of a pulse train (R234): `first` states the level at the start of the first period. -/
def Dev.trainPeriod (d : Dev) (pc : Nat) (n : Int) (first : Bool) : Dev :=
  let c := d.pcOf pc
  let ws := c.words
  let g0 := pinGamma ws c.anchor n
  let a := g0 + (pf ws 0x20 F.PCH_CMPA_NS * nsTU + pf ws 0x28 F.PCH_CMPFR_A_FR : Nat)
  let b := g0 + (pf ws 0x24 F.PCH_CMPB_NS * nsTU + pf ws 0x28 F.PCH_CMPFR_B_FR : Nat)
  let c' := { c with trainCnt := c.trainCnt + 1 }
  let d := d.setPc pc c'
  let d := if first ∧ g0 < a then d.requests pc [{ t := g0.toNat, level := false }] else d
  d.requests pc [{ t := a.toNat, level := true },
    if c'.trainOver then { t := b.toNat, level := c.idle, why := 2 } else { t := b.toNat, level := false }]

/-- The waveform goes on from period to period. -/
def PinCh.goes (c : PinCh) : Bool := c.running && !c.stopped && !c.trainOver

/-- The next period to begin, and whether RESTART begins it (R235). -/
def PinCh.nextPeriod (c : PinCh) : Option (Int × Bool) :=
  match c.restartN with
  | some n => if c.goes && decide (c.nextN < n) then some (c.nextN, false) else some (max n c.nextN, true)
  | none => if c.goes then some (c.nextN, false) else none

/-- The channel as period `n` begins; one that RESTART begins counts its pulses anew. -/
def PinCh.begin (c : PinCh) (n : Int) (restart : Bool) : PinCh :=
  let c' := { c with nextN := n + 1, sinceC := c.sinceC + 1, fresh := false }
  if restart then { c' with running := true, stopped := false, trainCnt := 0, restartN := none, raw := c.raw && c.goes } else c'

/-- PERIOD_START (R229): the channel's next period begins, when its waveform runs. -/
def periodStart (pc : Nat) (d : Dev) : Dev :=
  let c := d.pcOf pc
  match c.nextPeriod with
  | none => d
  | some (n, restart) =>
    let g0 := pinGamma c.words c.anchor n
    let at_ (o : Option Nat) : Bool := match o with | some x => decide ((x : Int) ≤ g0) | none => false
    if c.inSafe ∨ periodic c.mode = false ∨ at_ c.cPoint ∨ at_ c.safePend then d
    else
      let st := g0.toNat
      let d := (d.advanceTo st).setPc pc (c.begin n restart)
      let first := c.fresh || (restart && !c.goes)
      let d := if c.mode = 2 then d.trainPeriod pc n first else d.pwmPeriod pc n first
      (d.pcItem pc st [opAdd 0x20 1]).pcPulse pc 5 (c.sinceC % 2 ^ 24) st

/-! ## Switching settings (R222, R230, R232, R261) -/

/-- The words whose change is a waveform change (R230): MODE, INV, IDLE, ALIGN, LOADGRP and offsets +0x010 to +0x04C. -/
def waveChanged (ow nw : Tab Word) : Bool :=
  (pw ow 0 &&& 0xF6F#32) != (pw nw 0 &&& 0xF6F#32) || (List.range 16).any (fun i => pw ow (0x10 + 4 * i) != pw nw (0x10 + 4 * i))

/-- The grid's anchor: the epoch with ALIGN = 1, the boundary of the commit otherwise (R229). -/
def pinAnchor (ws : Tab Word) (B : Nat) : Nat := if pf ws 0 F.PCH_MODE_ALIGN = 1 then 0 else B

/-- The complement's level at instant `t` and its edges in the leader's current period (R239). -/
def PinCh.compNow (l : PinCh) (t : Nat) : Bool × List EdgeReq :=
  let n := l.nextN - 1
  let dt := sixteenth (pf l.words 0x30 F.PCH_PWM_DT)
  match (pwmInterval l.words l.duty (pinGamma l.words l.anchor n) (pinGamma l.words l.anchor (n + 1))).1 with
  | none => (true, [])
  | some (a, b) =>
    let up := b + (dt : Nat)
    (decide ((t : Int) < a) || decide (up ≤ (t : Int)),
     (if (t : Int) < a then [{ t := a.toNat, level := false }] else []) ++
     (if (t : Int) < up ∧ b < pinGamma l.words l.anchor (n + 1) then [{ t := up.toNat, level := true, why := 4 }] else []))

/-- The direction of an axis that names a channel as its DIR pin (R260). -/
def Dev.dirLevelOf (d : Dev) (pc : Nat) : Bool :=
  (List.range 8).any (fun i =>
    let a := 8 * (pc / 64) + i
    d.lvb (A.AX_OPT a) F.AX_OPT_EN && d.lvb (A.AX_PINS a) F.AX_PINS_DIR_EN && d.lv (A.AX_PINS a) F.AX_PINS_DIR == pc % 64 &&
      (Tab.get d.axes {} a).dirLevel)

/-- The level of a mode's waveform where it begins, and the requests it begins with: IDLE before the first period, entry
or leader's period (R228, R239), on a DIR pin the axis's last direction (R260; DESIGN CHOICE where a commit begins it, log
entry 88). -/
def Dev.startLevel (d : Dev) (pc t : Nat) (ws : Tab Word) : Bool × List EdgeReq :=
  let idle := pf ws 0 F.PCH_MODE_IDLE == 1
  match pf ws 0 F.PCH_MODE_MODE with
  | 1 => (pf ws 0 F.PCH_MODE_LEVEL == 1, [])
  | 2 | 3 | 4 => (idle, [])
  | 5 => let l := d.pcOf (pc - 1); if l.mode = 4 ∧ l.running ∧ l.fresh = false then l.compNow t else (idle, [])
  | 10 => (d.dirLevelOf pc, [])
  | _ => (false, [])

/-- The new waveform begins at instant `t` with settings `ws` and the grid's boundary `B` (R230). -/
def Dev.newWave (d : Dev) (pc t B : Nat) (ws : Tab Word) : Dev :=
  let c := d.pcOf pc
  let mode := pf ws 0 F.PCH_MODE_MODE
  let anchor := pinAnchor ws B
  let idx := if periodic mode then pinIndex ws anchor t else 0
  let cut (l : List EdgeReq) : List EdgeReq := l.filter (fun r => decide (r.t < t))
  let c' := { c with
    words := ws, anchor := anchor, nextN := idx, restartN := none, sinceC := 0, running := periodic mode && !c.inSafe, stopped := false
    cPoint := none, fresh := true, trainCnt := 0, rfrCnt := 0, raw := false, pend := none, trigs := []
    sched := c.sched.filter (fun x => decide (t < x.2))
    wlevel := if c.oe then c.pin != (pf ws 0 F.PCH_MODE_INV == 1) else c.wlevel
    duty := if mode = 4 then pf ws 0x38 F.PCH_DUTY0_DUTY else c.duty, reqs := cut c.reqs
    q := if mode = 3 ∨ mode = 12 then c.q else [], lastPush := if mode = 3 ∨ mode = 12 then c.lastPush else none }
  let d := d.setPc pc c'
  let d := if c.mode = 4 ∧ (d.pcOf (pc + 1)).mode = 5 then d.setPc (pc + 1) { d.pcOf (pc + 1) with reqs := cut (d.pcOf (pc + 1)).reqs } else d
  let sl := d.startLevel pc t ws
  let d := d.requests pc sl.2
  if periodic mode ∧ c.inSafe = false then d else d.setLevel pc t sl.1

/-- WAVEFORM_SWITCH (R230): at C the new waveform begins. -/
def waveformSwitch (pc : Nat) (d : Dev) : Dev :=
  let c := d.pcOf pc
  match c.cPoint with
  | none => d
  | some t => (d.advanceTo t).newWave pc t c.nextAnchor (pinWords d.regs.live pc)

/-- What a boundary at `B` does to one channel whose settings were `ow` and are `nw` (R222, R230, R232, R261). -/
def Dev.pinApply (d : Dev) (pc B : Nat) (ow nw : Tab Word) : Dev :=
  if ow = nw then d
  else
    let c := d.pcOf pc
    let newMode := pf nw 0 F.PCH_MODE_MODE
    let changed := waveChanged ow nw
    let d := d.setPc pc { c with nextAnchor := if changed then B else c.nextAnchor }
    let d := if changed then
        if c.inSafe then d.setPc pc { d.pcOf pc with words := nw, anchor := pinAnchor nw B, cPoint := none, pend := none,
                                                     duty := pf nw 0x38 F.PCH_DUTY0_DUTY }
        else if periodic newMode then
          let ws := if drivenMode (pf ow 0 F.PCH_MODE_MODE) then c.words else nw
          let C := (pinGamma nw (pinAnchor nw B) (pinIndex nw (pinAnchor nw B) B)).toNat
          d.setPc pc { d.pcOf pc with words := ws, cPoint := some C, running := c.running && drivenMode (pf ow 0 F.PCH_MODE_MODE),
                                      wlevel := if drivenMode (pf ow 0 F.PCH_MODE_MODE) then c.wlevel else pf nw 0 F.PCH_MODE_IDLE == 1 }
        else d.newWave pc B B nw
      else
        let d := d.setPc pc { d.pcOf pc with words := if c.cPoint.isSome then c.words else nw }
        if newMode = 1 ∧ c.inSafe = false then d.setLevel pc B (pf nw 0 F.PCH_MODE_LEVEL == 1) else d
    d.drivePin pc B

/-! ## The edge queue (R227, R233) -/

/-- The queue has just become empty: QUEUE_EMPTY at the last entry's instant. -/
def Dev.queueEmptied (d : Dev) (pc : Nat) (last : Option EdgeEnt) : Dev :=
  match last with
  | some e => if (d.pcOf pc).q.isEmpty then d.pcPulse pc 8 0 e.t else d
  | none => d

/-- Discards every entry not yet placed (QFLUSH). -/
def Dev.flushQueue (d : Dev) (pc : Nat) : Dev :=
  let c := d.pcOf pc
  (d.setPc pc { c with q := [] }).queueEmptied pc c.q.getLast?

/-- A push is refused (R233): `why` 0 full, 1 order. -/
def Dev.pushRefused (d : Dev) (pc t why : Nat) : Dev :=
  let d := (d.pcItem pc d.now [opAdd 0x70 1]).setIm (A.PCH_STAT pc) F.PCH_STAT_Q_REFUSED 1
  let f := d.pcFirst pc d.now 6
  if f.1 then f.2.pcPulse pc 0xC why t else f.2

/-- The channel is the high side of an enabled group (R279). -/
def Dev.isHS (d : Dev) (pc : Nat) : Bool :=
  (List.range 16).any (fun j =>
    let g := 16 * (pc / 64) + j
    d.lvb (A.GRP_CFG g) F.GRP_CFG_EN && d.lv (A.GRP_CFG g) F.GRP_CFG_HS == pc % 64)

/-- Pushes an entry; answers whether it was accepted. -/
def Dev.pushEdge (d : Dev) (pc t : Nat) (level : Bool) : Dev × Bool :=
  let c := d.pcOf pc
  if c.mode ≠ 3 ∧ c.mode ≠ 12 then (d, false)
  else if 32 ≤ c.q.length then (d.pushRefused pc t 0, false)
  else if (d.isHS pc || (match c.lastPush with | some p => decide (t < p) | none => false)) then (d.pushRefused pc t 1, false)
  else
    let eq := match c.q.getLast? with | some e => e.t == t | none => false
    let q := (if eq then c.q.dropLast else c.q) ++ [{ t := t, level := level }]
    let d := d.setPc pc { c with q := q, lastPush := some t }
    (d.pcItem pc d.now ((if eq then [opAdd 0x1C 1] else []) ++ [opMax 0x6C q.length]), true)

/-- A write of PCH_EQ2 (R233, R418). -/
def writeEq2 (pc : Nat) (level : Bool) (d : Dev) : Dev :=
  if d.shadowed pc then d
  else
    let t := unshort d.now ((d.immW (A.PCH_EQ0 pc)).toNat + (d.immW (A.PCH_EQ1 pc)).toNat * 2 ^ 32)
    let r := d.pushEdge pc t level
    if r.2 then r.1.mirrorOut pc d.now (.push pc (shortOf t) level) else r.1

/-- EDGE_REQUEST_ARRIVAL (R227): the first entry still on its way reaches the interpolator. -/
def edgeRequestArrival (pc : Nat) (d : Dev) : Dev :=
  let c := d.pcOf pc
  match c.q.find? (fun e => !e.arr) with
  | none => d
  | some e =>
    let before := c.q.takeWhile (·.arr)
    let after := (c.q.dropWhile (·.arr)).tail
    if d.now + pinLead ≤ e.t then d.setPc pc { c with q := before ++ { e with arr := true, lat := d.latOut pc } :: after }
    else
      let skip := d.lv (A.PCH_MODE pc) F.PCH_MODE_LATE_POL = 1
      let d := d.pcItem pc e.t (opAdd 0x14 1 :: (if skip then [opAdd 0x18 1] else []))
      let f := d.pcFirst pc e.t 4
      let d := if f.1 then f.2.pcPulse pc 1 (b2n skip) e.t else f.2
      if skip then (d.setPc pc { c with q := before ++ after }).queueEmptied pc (some e)
      else d.setPc pc { d.pcOf pc with q := before ++ { e with moved := some (d.now + pinLead), arr := true, lat := d.latOut pc } :: after }

/-- The instant an entry is placed at: its own, or the one its late arrival gave it (R227). -/
def EdgeEnt.due (e : EdgeEnt) : Nat := e.moved.getD e.t

/-- Places a level on the pin's waveform. Answers whether the minimum spacing moved its edge (R226). -/
def Dev.placeLat (d : Dev) (pc t : Nat) (l : Bool) (lat : Int) : Dev × Bool :=
  let c := d.pcOf pc
  if l = c.wlevel then (d, false)
  else
    let e := d.setLevelLat pc t l lat
    (e, (e.pcOf pc).pin != c.pin && decide (t < c.spaced pc t))

/-- Places a level with the LAT_OUT in force. -/
def Dev.placeLevel (d : Dev) (pc t : Nat) (l : Bool) : Dev × Bool := d.placeLat pc t l (d.latOut pc)

/-- A delayed active edge whose interval the next period, by the duty taken so far, ends before MINPW (R239). A duty written after
the edge has been placed does not take it back (DESIGN CHOICE, log entry 89). -/
def Dev.tooShort (d : Dev) (pc : Nat) (r : EdgeReq) : Bool :=
  let comp := decide ((d.pcOf pc).mode = 5)
  let l := d.pcOf (if comp then pc - 1 else pc)
  let g0 := pinGamma l.words l.anchor l.nextN
  let now := pwmChanges l.raw false g0 (pinGamma l.words l.anchor (l.nextN + 1)) (l.plan l.nextN).on
  r.why == 4 && !((d.pcOf pc).reqs.any (fun x => !x.level && decide (r.t ≤ x.t))) && l.goes && l.cPoint.isNone &&
    (match now.find? (fun x => x.2 == comp) with
     | some x => decide (x.1 < (r.t + sixteenth (pf l.words 0x34 F.PCH_PWMW_MINPW) : Nat))
     | none => false)

/-- EDGE_PLACEMENT (R223): the earliest request is placed: the interpolator's, or in EDGES mode the head of the queue. -/
def edgePlacement (pc : Nat) (d : Dev) : Dev :=
  let c := d.pcOf pc
  let head := if c.mode = 3 then (match c.q with | e :: _ => if e.arr then some e else none | [] => none) else none
  let useQ := match head, c.reqs with | some e, r :: _ => decide (e.due < r.t) | some _, [] => true | none, _ => false
  if useQ then
    match c.q with
    | e :: q =>
      let d := (d.advanceTo e.due).setPc pc { c with q := q, running := true }
      let r := if c.inSafe then (d, false) else d.placeLat pc e.due e.level e.lat
      let d := if r.2 then r.1.pcItem pc e.due [opAdd 0x1C 1] else r.1
      d.queueEmptied pc (some e)
    | [] => d
  else
    match c.reqs with
    | r :: rs =>
      let d := (d.advanceTo r.t).setPc pc { c with reqs := rs, running := c.running && !(r.why == 2 && c.trainOver) }
      if d.tooShort pc r then d
      else
        let d := (d.placeLat pc r.t r.level r.lat).1
        if r.why = 2 then d.pcPulse pc 7 0 r.t
        else if r.why = 5 then (d.pcItem pc r.t [opAdd 0x28 1]).pcPulse pc 0xA 0 r.t
        else d
    | [] => d

/-! ## Channel control (R235, R238, R245) -/

/-- The waveform starts again from the first grid point at or after an instant (R235); until then it goes on as it stands. -/
def Dev.restartAt (d : Dev) (pc t : Nat) : Dev :=
  let c := d.pcOf pc
  if periodic c.mode = false ∨ c.inSafe then d
  else d.setPc pc { c with restartN := some (pinIndex c.words c.anchor t) }

/-- No further active edge is placed on one channel whose grid's next point is `g` (R235). A pulse in progress has its inactive
edge, and the level is IDLE from the end of its period; without one it is IDLE 24 ns later (R228; DESIGN CHOICE, log entry 90). -/
def Dev.stopOne (d : Dev) (pc : Nat) (g : Int) : Dev :=
  let c := d.pcOf pc
  let idle := c.idle
  let rs := if c.wlevel then
      match c.reqs.find? (fun r => !r.level || r.why == 2) with
      | some r => [r, { t := g.toNat, level := idle, lat := d.latOut pc }]
      | none => [{ t := g.toNat, level := idle, lat := d.latOut pc }]
    else [{ t := d.now + pinLead, level := idle, lat := d.latOut pc }]
  d.setPc pc { c with stopped := true, running := false, restartN := none, reqs := rs }

/-- PCH_CTL.STOP (R235): on a PWM channel its complementary output stops with it. -/
def Dev.stopPin (d : Dev) (pc : Nat) : Dev :=
  let c := d.pcOf pc
  if periodic c.mode = false ∨ c.inSafe then d
  else
    let g := pinGamma c.words c.anchor c.nextN
    let d := d.stopOne pc g
    if c.mode = 4 ∧ pc % 2 = 0 ∧ (d.pcOf (pc + 1)).mode = 5 then d.stopOne (pc + 1) g else d

/-- PCH_CTL.CNT_CLR (R245): a transition stamped at or before its arrival counts before the clear, whenever it is delivered. -/
def Dev.cntClear (d : Dev) (pc : Nat) : Dev := d.setPc pc { d.pcOf pc with cnt := 0, clrAt := some d.now }

/-- The members of a channel's load group (R238): channels of its tile and room in PWM mode with its LOADGRP. -/
def Dev.loadGroup (d : Dev) (pc : Nat) : List Nat :=
  let g := d.lv (A.PCH_MODE pc) F.PCH_MODE_LOADGRP
  if g = 0 then []
  else ((List.range 64).map (64 * (pc / 64) + ·)).filter (fun k =>
    d.pcMode k == 4 && d.lv (A.PCH_MODE k) F.PCH_MODE_LOADGRP == g && pcHolder d.live k == pcHolder d.live pc)

/-- Freezes the shadow duties of a load group; they apply at the first period start at or after `t`. -/
def Dev.loadAt (d : Dev) (pc t : Nat) : Dev :=
  (d.loadGroup pc).foldl (fun d k =>
    let c := d.pcOf k
    if c.causes ≠ 0 then d.pcItem k d.now [opAdd 0xF4 1]
    else
      let d := if c.pend.isSome then d.pcItem k d.now [opAdd 0x30 1] else d
      d.setPc k { d.pcOf k with pend := some (c.shadow, t) }) d

/-- The first period start of a channel at or after an instant, the instant itself when no waveform runs. -/
def Dev.periodFrom (d : Dev) (pc t : Nat) : Nat :=
  let c := d.pcOf pc
  if periodic c.mode then (pinGamma c.words c.anchor (pinIndex c.words c.anchor t)).toNat else t

/-- A write of PCH_CTL: its bits act from STOP and QFLUSH to LOAD and RESTART (R233, R235, R238, R245, R418). -/
def writePchCtl (pc : Nat) (v : Word) (d : Dev) : Dev :=
  if d.shadowed pc then d
  else
    let t := d.now + pinLead
    let d := if fget v F.PCH_CTL_STOP = 1 then (d.stopPin pc).mirrorOut pc d.now (.stop pc) else d
    let d := if fget v F.PCH_CTL_QFLUSH = 1 then (d.flushQueue pc).mirrorOut pc d.now (.qflush pc) else d
    let d := if fget v F.PCH_CTL_CNT_CLR = 1 then (d.cntClear pc).mirrorOut pc d.now (.cntClr pc) else d
    let d := if fget v F.PCH_CTL_LOAD = 1 then (d.loadAt pc t).mirrorOut pc (d.periodFrom pc t) (.load pc) else d
    if fget v F.PCH_CTL_RESTART = 1 then (d.restartAt pc t).mirrorOut pc (d.periodFrom pc t) (.restart pc) else d

/-- A duty is taken: the shadow duty of a load group's member, or a change at the first period start at or after `t`
(R238). -/
def Dev.dutyAt (d : Dev) (pc v t : Nat) : Dev :=
  let c := d.pcOf pc
  if d.lv (A.PCH_MODE pc) F.PCH_MODE_LOADGRP = 0 then d.setPc pc { c with sched := c.sched ++ [(v, t)] }
  else d.setPc pc { c with shadow := v }

/-- A write of PCH_DUTY (R238, R418). -/
def writeDuty (pc : Nat) (v : Word) (d : Dev) : Dev :=
  if d.shadowed pc then d
  else
    let x := fget v F.PCH_DUTY_DUTY
    let t := d.now + pinLead
    ((d.setIm (A.PCH_DUTY pc) F.PCH_DUTY_DUTY x).dutyAt pc x t).mirrorOut pc (d.periodFrom pc t) (.duty pc x)

/-! ## Triggers (R241) -/

/-- A TRIGOUT channel places its pulse at a trigger instant: a pulse that would overlap it is cut there, one that ends there
runs on into it (R241). -/
def Dev.trigPulse (d : Dev) (pc t : Nat) : Dev :=
  let c := d.pcOf pc
  let w := pf c.words 0x44 F.PCH_TOUT_WIDTH * nsTU
  let cut := c.reqs.any (fun r => !r.level && decide (t < r.t))
  let d := d.setPc pc { c with reqs := c.reqs.filter (fun r => decide (r.t < t)) }
  let d := d.requests pc [{ t := t, level := true }, { t := t + w, level := false }]
  d.pcItem pc t ((if cut then [opAdd 0x1C 1] else []) ++ [opAdd 0x78 1])

/-- TRIGGER_INSTANT (R241). -/
def triggerInstant (pc i : Nat) (d : Dev) : Dev :=
  let c := d.pcOf pc
  match c.trigs.find? (fun x => x.1 == i) with
  | none => d
  | some x =>
    let t := x.2
    let d := (d.advanceTo t).setPc pc { c with trigs := c.trigs.erase x }
    let d := (d.pcItem pc t [opAdd 0x74 1]).pcPulse pc 6 i t
    ((List.range 64).map (64 * (pc / 64) + ·)).foldl (fun d k =>
      let o := d.pcOf k
      if o.mode = 9 ∧ pf o.words 0x44 F.PCH_TOUT_LEADER = pc % 64 ∧ bitOf (pf o.words 0x44 F.PCH_TOUT_SEL) i ∧
          pcHolder d.live k = pcHolder d.live pc ∧ o.inSafe = false then d.trigPulse k t else d) d

/-! ## The commands -/

/-- EDGE_PLACEMENT -/
def execEdgePlacement (pc : Nat) (s : State) : Res := onDev (edgePlacement pc) s
/-- EDGE_REQUEST_ARRIVAL -/
def execEdgeRequestArrival (pc : Nat) (s : State) : Res := onDev (edgeRequestArrival pc) s
/-- PERIOD_START -/
def execPeriodStart (pc : Nat) (s : State) : Res := onDev (periodStart pc) s
/-- WAVEFORM_SWITCH -/
def execWaveformSwitch (pc : Nat) (s : State) : Res := onDev (waveformSwitch pc) s
/-- EDGE_QUEUE_PUSH -/
def execEdgeQueuePush (m pc : Nat) (level : Bool) (s : State) : Res :=
  onDev (fun d => d.hostWrite m (A.PCH_EQ2 pc) (writeEq2 pc level)) s
/-- CHANNEL_RESTART -/
def execChannelRestart (m pc : Nat) (s : State) : Res := onDev (fun d => d.hostWrite m (A.PCH_CTL pc) (writePchCtl pc 1#32)) s
/-- CHANNEL_STOP -/
def execChannelStop (m pc : Nat) (s : State) : Res := onDev (fun d => d.hostWrite m (A.PCH_CTL pc) (writePchCtl pc 2#32)) s
/-- QFLUSH -/
def execQflush (m pc : Nat) (s : State) : Res := onDev (fun d => d.hostWrite m (A.PCH_CTL pc) (writePchCtl pc 4#32)) s
/-- CNT_CLR -/
def execCntClr (m pc : Nat) (s : State) : Res := onDev (fun d => d.hostWrite m (A.PCH_CTL pc) (writePchCtl pc 8#32)) s
/-- PWM_LOAD -/
def execPwmLoad (m pc : Nat) (s : State) : Res := onDev (fun d => d.hostWrite m (A.PCH_CTL pc) (writePchCtl pc 16#32)) s
/-- DUTY_WRITE -/
def execDutyWrite (m pc : Nat) (v : Word) (s : State) : Res := onDev (fun d => d.hostWrite m (A.PCH_DUTY pc) (writeDuty pc v)) s
/-- TRIGGER_INSTANT -/
def execTriggerInstant (pc i : Nat) (s : State) : Res := onDev (triggerInstant pc i) s

end Sys2Proof.Machine
end

