-- ==== Sys2Proof/Machine/Protect.lean ====
section
/-! DEFINITION. Safe state, trip inputs, axes and high-side groups (chapter Pin Channels: Trips, Limits, Homing and Shared
Switches, R256-R287). -/
namespace Sys2Proof.Machine

/-- The pin channels of a pin tile. -/
def tilePcs (q : Nat) : List Nat := (List.range 64).map (64 * q + ·)

/-- The channels of a 64-bit mask of a pin tile. -/
def maskPcs (q lo hi : Nat) : List Nat := (tilePcs q).filter (fun pc => (lo + hi * 2 ^ 32).testBit (pc % 64))

/-! ## Axes: what they are made of (R268) -/

def Dev.axOf (d : Dev) (a : Nat) : Axis := Tab.get d.axes {} a
def Dev.setAx (d : Dev) (a : Nat) (x : Axis) : Dev := { d with axes := Tab.set d.axes a x }

/-- A pin an axis names, when its enable is set. -/
def axPin (w : View) (reg a : Nat) (k en : Fld) : Option Nat := if w.b reg en then some (64 * (a / 8) + w.f reg k) else none

def stepPin (w : View) (a : Nat) : Option Nat := axPin w (A.AX_PINS a) a F.AX_PINS_STEP F.AX_PINS_STEP_EN
def dirPin (w : View) (a : Nat) : Option Nat := axPin w (A.AX_PINS a) a F.AX_PINS_DIR F.AX_PINS_DIR_EN
def lposPin (w : View) (a : Nat) : Option Nat := axPin w (A.AX_PINS a) a F.AX_PINS_LPOS F.AX_PINS_LPOS_EN
def lnegPin (w : View) (a : Nat) : Option Nat := axPin w (A.AX_PINS a) a F.AX_PINS_LNEG F.AX_PINS_LNEG_EN
def homePin (w : View) (a : Nat) : Option Nat := axPin w (A.AX_OPT a) a F.AX_OPT_HOME F.AX_OPT_HOME_EN

/-- The enabled axes of a tile. -/
def tileAxes (w : View) (q : Nat) : List Nat := ((List.range 8).map (8 * q + ·)).filter (fun a => w.b (A.AX_OPT a) F.AX_OPT_EN)

/-- The channels of an axis's DRIVE mask. -/
def drivePcs (w : View) (a : Nat) : List Nat := maskPcs (a / 8) (w (A.AX_DRV a 0)).toNat (w (A.AX_DRV a 1)).toNat

/-- A limit or home pin is active (R273). -/
def Dev.limActive (d : Dev) (p : Option Nat) : Bool :=
  match p with
  | some pc => (d.pcOf pc).inLevel == d.lvb (A.PCH_LIM pc) F.PCH_LIM_ACT
  | none => false

/-- SWIDTH in TU. -/
def Dev.swidth (d : Dev) (a : Nat) : Nat := d.lv (A.AX_TIME a) F.AX_TIME_SWIDTH * nsTU

/-- The pulse of an axis event (R287). -/
def Dev.axPulse (d : Dev) (a result stamp : Nat) : Dev :=
  d.protPulse (a / 8) (4 + a % 8) (8 + a % 8) (result + unsgn 24 (d.axOf a).pos * 256) stamp

/-- Sets RESULT and pulses the axis event (R276). -/
def Dev.axResult (d : Dev) (a result stamp : Nat) : Dev := (d.setAx a { d.axOf a with result := result }).axPulse a result stamp

/-- Keeps a position in 32 bits. -/
def wrapPos (p : Int) : Int := sgn 32 (unsgn 32 p)

/-- Gap g_i in ns of a move of `n` steps (R270). -/
def axGap (n nr pcru psta i : Nat) : Nat :=
  let e := min i (n - 2 - i)
  if nr ≤ e then pcru else psta - (psta - pcru) * e / nr

/-- The next step of a move is the one after, its gap later (R270). -/
def Dev.stepNext (d : Dev) (a : Nat) : Dev :=
  let x := d.axOf a
  let gap := (if x.st = .homeSeek then d.lv (A.AX_PHOME a) F.AX_PHOME_PHOME else axGap x.n x.nr x.pcru x.psta x.j) * nsTU
  d.setAx a { x with j := x.j + 1, tNext := x.tNext + gap }

/-- Places a step at `t`: its pulse and its count (R269). The last steps' instants are kept for HOME (R275). -/
def Dev.stepAt (d : Dev) (a t : Nat) : Dev :=
  let x := d.axOf a
  let d := d.setAx a { x with pos := wrapPos (if x.neg then x.pos - 1 else x.pos + 1), placed := (t :: x.placed).take 16 }
  match stepPin d.live a with
  | none => d
  | some pc => (d.requests pc [{ t := t, level := true }, { t := t + d.swidth a, level := false }]).pcItem pc t [opAdd 0xD8 1]

/-- Places step j of a move at its instant. -/
def Dev.oneStep (d : Dev) (a : Nat) : Dev := (d.stepNext a).stepAt a (d.axOf a).tNext

/-- Places the steps that lie before a limit, at most `fuel`. -/
def Dev.stepsBefore (d : Dev) (a lim : Nat) : Nat → Dev
  | 0 => d
  | fuel + 1 =>
    let x := d.axOf a
    if x.j < x.n ∧ x.tNext < lim then (d.oneStep a).stepsBefore a lim fuel else d

/-- More steps than can lie within the 24 ns of a lead: two of an LVDS pin are 2 ns apart (R226, R271). -/
def stepFuel : Nat := 32

/-- The axis moves. -/
def Axis.moving (x : Axis) : Bool := x.st == .move || x.st == .homeSeek

/-- Ends a move with no step at or after `lim` (R272, R273). -/
def Dev.endMove (d : Dev) (a lim result stamp : Nat) (st : AxSt) (unhome : Bool) : Dev :=
  let d := if (d.axOf a).moving then d.stepsBefore a lim stepFuel else d
  let x := d.axOf a
  (d.setAx a { x with st := st, homed := x.homed && !unhome }).axResult a result stamp

/-! ## Groups: what they are made of (R278) -/

def Dev.grpOf (d : Dev) (g : Nat) : Grp := Tab.get d.grps {} g
def Dev.setGrp (d : Dev) (g : Nat) (x : Grp) : Dev := { d with grps := Tab.set d.grps g x }

def hsPin (w : View) (g : Nat) : Nat := 64 * (g / 16) + w.f (A.GRP_CFG g) F.GRP_CFG_HS

/-- The members of a group, by index. -/
def grpMembers (w : View) (g : Nat) : List (Nat × Nat) :=
  (List.range 4).filterMap (fun i =>
    if w.f (A.GRP_MEM g) ⟨8 * i + 7, 1⟩ = 1 then some (i, 64 * (g / 16) + w.f (A.GRP_MEM g) ⟨8 * i, 6⟩) else none)

/-- The enabled groups of a tile. -/
def tileGrps (w : View) (q : Nat) : List Nat := ((List.range 16).map (16 * q + ·)).filter (fun g => w.b (A.GRP_CFG g) F.GRP_CFG_EN)

/-- The channels of a group. -/
def grpPcs (w : View) (g : Nat) : List Nat := hsPin w g :: (grpMembers w g).map (·.2)

/-- The pulse of a group (R287). -/
def Dev.grpPulse (d : Dev) (g kind k stamp : Nat) : Dev := d.protPulse (g / 16) (16 + g % 16) (16 + g % 16) (kind + k % 64 * 256) stamp

/-! ## Safe state (R257-R261) -/

/-- Adds the time in safe state up to an instant to the record of the epoch in progress (R285). -/
def Dev.safeTime (d : Dev) (pc t : Nat) : Dev :=
  let c := d.pcOf pc
  if c.cause = 0 then d
  else
    let e := d.sq.num
    let sum := d.acc e (privPin pc + 7) + (t - c.causeAt)
    ((d.accRun e (privPin pc) [(7, fun _ => sum)]).accRun e (recPin pc) [opSet 0xC4 (sat 32 (sum / usTU))]).setPc pc { c with causeAt := t }

/-- The channel's pin bank is not supplied, which R46 counts as safe state without a cause (DEDUCED, log entry 91). -/
def Dev.bankLost (d : Dev) (pc : Nat) : Bool := match pinBank pc with | some b => d.pwr.banksOff.contains b | none => false

/-- The channel is in safe state (R46, R257). -/
def Dev.safeHeld (d : Dev) (pc : Nat) : Bool := (d.pcOf pc).causes != 0 || d.bankLost pc

/-- A channel enters safe state at t_c, for the causes `bits`; no edge lies at or after `lim` (R259). -/
def Dev.enterSafe (d : Dev) (pc bits tc lim : Nat) : Dev :=
  let c := d.pcOf pc
  let d := d.setPc pc { c with safePend := some lim, resume := none, restartN := none, reqs := c.reqs.filter (fun r => decide (r.t < lim)), pend := none }
  let d := d.flushQueue pc
  let d := d.pcItem pc tc (opAdd 0xC0 1 :: (if c.pend.isSome then [opAdd 0xF4 1] else []))
  let d := (tileAxes d.live (pc / 64)).foldl (fun d a =>
    if (stepPin d.live a = some pc ∨ dirPin d.live a = some pc) ∧ (d.axOf a).moving then d.endMove a lim 8 tc .idle false else d) d
  d.pcPulse pc 0x20 (bits % 512) tc

/-- Sets cause bits of one channel at t_c; the first of the causes 0 to 7 makes it enter safe state (R257-R259). Cause 8
alone takes none of the actions (R418). -/
def Dev.causeOne (d : Dev) (bits tc pc : Nat) : Dev :=
  let c := d.pcOf pc
  let held := d.safeHeld pc
  let d := d.setPc pc { c with cause := c.cause ||| bits, causeAt := if c.cause = 0 then tc else c.causeAt }
  let d := d.pcItem pc tc [opOr 0xC8 (bits * 2 ^ 16)]
  if held = false ∧ bits % 256 ≠ 0 then d.enterSafe pc bits tc (tc + lambdaTU) else d

/-- The groups a channel of `pcs` brings into safe state with it (R283). -/
def Dev.groupsHit (d : Dev) (pcs : List Nat) (bits : Nat) : List Nat :=
  ((pcs.map (· / 64)).eraseDups.flatMap (tileGrps d.live)).filter (fun g =>
    (grpPcs d.live g).any (fun pc => pcs.contains pc && (d.pcOf pc).causes == 0 && bits % 256 != 0))

/-- The channels that take a cause set on `pcs`: those of the groups hit too (R283). -/
def Dev.causeSet (d : Dev) (pcs : List Nat) (bits : Nat) : List Nat := (pcs ++ (d.groupsHit pcs bits).flatMap (grpPcs d.live)).eraseDups

/-- Sets cause bits on channels at t_c; when a channel of a group enters safe state, every channel of the group takes the
same bits and its demands are discarded (R283). -/
def Dev.setCauses (d : Dev) (pcs : List Nat) (bits tc : Nat) : Dev :=
  let hit := d.groupsHit pcs bits
  let d := (d.causeSet pcs bits).foldl (fun d pc => d.causeOne bits tc pc) d
  hit.foldl (fun d g =>
    let k := ((grpPcs d.live g).find? (fun pc => pcs.contains pc)).getD 0
    (d.setGrp g { d.grpOf g with demands := [] }).grpPulse g 1 k tc) d

/-- Clears cause bits of channels now; one whose last cause of 0 to 7 goes leaves safe state and resumes 24 ns later
(R260). -/
def Dev.clearCauses (d : Dev) (pcs : List Nat) (bits : Nat) : Dev :=
  pcs.foldl (fun d pc =>
    let had := (d.pcOf pc).causes
    if (d.pcOf pc).cause &&& bits = 0 then d
    else
      let d := d.safeTime pc d.now
      let c := d.pcOf pc
      let rest := c.cause &&& (511 ^^^ bits)
      let d := d.setPc pc { c with cause := rest }
      if had ≠ 0 ∧ rest % 256 = 0 ∧ d.bankLost pc = false then
        (d.setPc pc { d.pcOf pc with resume := some (d.now + pinLead) }).pcPulse pc 0x21 0 d.now
      else d) d

/-- At `t` the pin takes the level that SAFE gives (R258, R259, R277): a step pulse in progress is cut, a group's channel is at
waveform level 0 (R260). -/
def Dev.safeNow (d : Dev) (pc t : Nat) : Dev :=
  let c := d.pcOf pc
  let cut := c.mode = 10 ∧ c.wlevel
  let d := d.setPc pc { c with safePend := none, inSafe := true, running := false, reqs := [], sched := [], trigs := [], wlevel := c.wlevel && c.mode != 12 }
  let d := d.drivePin pc t
  if cut then
    (tileAxes d.live (pc / 64)).foldl (fun d a =>
      if stepPin d.live a = some pc then (d.pcItem pc t [opAdd 0xE0 1]).setAx a { d.axOf a with homed := false } else d) d
  else d

/-- The waveform level at which a channel resumes (R260). -/
def Dev.resumeLevel (d : Dev) (pc : Nat) (ws : Tab Word) : Bool :=
  match pf ws 0 F.PCH_MODE_MODE with
  | 10 => match (tileAxes d.live (pc / 64)).find? (fun a => dirPin d.live a == some pc) with
    | some a => (d.axOf a).dirLevel
    | none => false
  | 12 => false
  | _ => (d.startLevel pc d.now ws).1

/-- CHANNEL_RESUME (R260): the channel takes the live settings and resumes its mode. -/
def channelResume (pc : Nat) (d : Dev) : Dev :=
  let c := d.pcOf pc
  match c.resume with
  | none => d
  | some t =>
    let d := d.advanceTo t
    let ws := pinWords d.regs.live pc
    let d := d.setPc pc { c with resume := none, inSafe := false, safePend := none, words := ws, cPoint := none, reqs := [], raw := false,
                                 running := false, fresh := true, nextN := 0 }
    let c := d.pcOf pc
    if periodic c.mode then (d.setLevel pc t c.idle).restartAt pc t
    else
      let sl := d.startLevel pc t ws
      let d := if c.mode = 5 then d.requests pc sl.2 else d
      d.setLevel pc t (d.resumeLevel pc ws)

/-! ## Trip inputs (R262-R265) -/

def Dev.tripOf (d : Dev) (i : Nat) : Trip := Tab.get d.trips {} i
def Dev.setTrip (d : Dev) (i : Nat) (x : Trip) : Dev := { d with trips := Tab.set d.trips i x }

/-- The channels a trip masks. -/
def tripPcs (w : View) (i : Nat) : List Nat := maskPcs (i / 4) (w (A.TRIP_MASK i 0)).toNat (w (A.TRIP_MASK i 1)).toNat

/-- A trip at t_q (R264). -/
def Dev.tripAt (d : Dev) (i tq : Nat) : Dev :=
  let d := d.incIm (A.TRIP_CNT i) F.TRIP_CNT_TRIPS 1
  let x := d.tripOf i
  if x.tripped then d
  else
    let d := (d.setTrip i { x with tripped := true }).setCauses (tripPcs d.live i) (2 ^ (i % 4)) tq
    d.protPulse (i / 4) (i % 4) (i % 4) 1 tq

/-- FILT of a trip in TU. -/
def Dev.tripFilt (d : Dev) (i : Nat) : Nat := d.lv (A.TRIP_CFG i) F.TRIP_CFG_FILT * nsTU

/-- An assertion at t_q (R263): inside a window it waits for the window's end. -/
def Dev.tripQualified (d : Dev) (i tq : Nat) : Dev :=
  let x := d.tripOf i
  if x.blank.any (fun y => decide (y.1 ≤ tq) && decide (tq < y.2)) then
    d.setTrip i { x with asserted := true, blankHeld := x.blankHeld ++ [tq] }
  else (d.setTrip i { x with asserted := true }).tripAt i tq

/-- TRIP (R262, R263): the assertion held for FILT; inside a window it waits for the window's end. -/
def trip (i : Nat) (d : Dev) : Dev :=
  let x := d.tripOf i
  match x.held with
  | none => d
  | some s =>
    let tq := s + d.tripFilt i
    let d := d.advanceTo tq
    (d.setTrip i { x with held := none }).tripQualified i tq

/-- An assertion ignored for its window (R263, R287): it is counted, and the first of the epoch is pulsed at its t_q. -/
def Dev.tripBlanked (d : Dev) (i tq : Nat) : Dev :=
  let d := d.incIm (A.TRIP_CNT i) F.TRIP_CNT_BLANKED 1
  let e := d.epochAt tq
  if d.acc e (0x2F0000 + i) = 0 then (d.accRun e 0x2F0000 [opSet i 1]).protPulse (i / 4) (i % 4) (i % 4) 3 tq else d

/-- The first window of a trip ends at `w` (R263): the last assertion held stands if the input is still asserted; the others are
ignored. -/
def Dev.blankEnd (d : Dev) (i w : Nat) : Dev :=
  let x := d.tripOf i
  let d := d.setTrip i { x with blank := x.blank.tail, blankHeld := [] }
  let d := (if x.asserted then x.blankHeld.dropLast else x.blankHeld).foldl (fun d tq => d.tripBlanked i tq) d
  if x.asserted && !x.blankHeld.isEmpty then d.tripAt i w else d

/-- BLANK_WINDOW_END (R263). -/
def blankWindowEnd (i : Nat) (d : Dev) : Dev :=
  match (d.tripOf i).blank with
  | [] => d
  | (_, w) :: _ => (d.advanceTo w).blankEnd i w

/-- The pin bank of trip input `i` is not supplied (R484). The spec gives the sixteen trips and the sixteen banks and does not
say which supplies which: trip i goes with bank i (PRESUMED, log entry 41). -/
def Dev.tripUnpowered (d : Dev) (i : Nat) : Bool := d.pwr.banksOff.contains i

/-- TRIP_INPUT_TRANSITION (R262). An assertion already due is qualified before the new level is taken. -/
def tripInputTransition (i : Nat) (level : Bool) (t : Nat) (d : Dev) : Dev :=
  let x := d.tripOf i
  let d := match x.held with | some s => if s + d.tripFilt i ≤ t then trip i d else d | none => d
  let d := d.advanceTo t
  let x := d.tripOf i
  if level = x.level then d
  else if d.tripUnpowered i then d.setTrip i { x with level := level }
  else if d.lvb (A.TRIP_CFG i) F.TRIP_CFG_EN ∧ level = d.lvb (A.TRIP_CFG i) F.TRIP_CFG_POL then
    d.setTrip i { x with level := level, held := some t }
  else d.setTrip i { x with level := level, held := none, asserted := false }

/-- A write of TRIP_CTL (R265): a clear acts on every channel of the tile that holds the trip's cause. -/
def writeTripCtl (i : Nat) (v : Word) (d : Dev) : Dev :=
  let d := if fget v F.TRIP_CTL_CLR_REFUSED = 1 then d.setIm (A.TRIP_CTL i) F.TRIP_CTL_CLR_REFUSED 0 else d
  if fget v F.TRIP_CTL_CLEAR = 0 then d
  else
    let x := d.tripOf i
    if x.asserted then d.setIm (A.TRIP_CTL i) F.TRIP_CTL_CLR_REFUSED 1
    else ((d.setTrip i { x with tripped := false }).clearCauses (tilePcs (i / 4)) (2 ^ (i % 4))).protPulse (i / 4) (i % 4) (i % 4) 2 d.now

/-! ## Engine loss and debug halt (R266) -/

/-- The driven channels of a tile whose ENG_SAFE, or HALT_SAFE, is 1. -/
def Dev.safeChosen (d : Dev) (q : Nat) (f : Fld) : List Nat :=
  (tilePcs q).filter (fun pc => drivenMode (d.pcMode pc) && d.lvb (A.PCH_SAFE pc) f)

def Dev.setEng (d : Dev) (T : Nat) (e : Eng) : Dev := { d with eng := Tab.set d.eng T e }

/-- A pulse of the engine of kind 0x60 + `n` (R339). -/
def Dev.engPulse (d : Dev) (T n arg stamp : Nat) : Dev :=
  d.happen (engKey T) (tengPage T) n (srcEng d T (d.engOf T).dom) ⟨engId T, stamp, (0x60 + n + arg * 256) % 2 ^ 32⟩

/-- The pulse of a stop or a halt whose stamp had not come (R339). -/
def Dev.tellStop (d : Dev) (T : Nat) : Dev :=
  match (d.engOf T).unstamped with
  | some x => (d.setEng T { d.engOf T with unstamped := none }).engPulse T x.1 x.2 d.now
  | none => d

/-- ENGINE_LOSS_STAMP: the hearth island stamps the stop of tile `T`'s engine; the engine's own pulse carries the stamp (R266,
R339). On a pin tile cause 7 is set for a halt, 6 otherwise. -/
def engineLossStamp (T : Nat) (d : Dev) : Dev :=
  let q := T - 256
  let loss := d.tileOffline T || (d.engOf T).resetting
  let halt := (d.engOf T).st = .halted
  let d := d.tellStop T
  if T < 256 then d
  else if loss then
    let d := d.setCauses (d.safeChosen q F.PCH_SAFE_ENG_SAFE) 64 d.now
    d.protPulse q 32 4 1 d.now
  else if halt then
    let d := d.setCauses (d.safeChosen q F.PCH_SAFE_HALT_SAFE) 128 d.now
    d.protPulse q 32 4 3 d.now
  else d

/-- The engine of a pin tile is back: cause 6 goes when the tile is online again, 7 when it resumes. -/
def Dev.engineBack (d : Dev) (T : Nat) (resumed : Bool) : Dev :=
  if T < 256 then d
  else (d.clearCauses (tilePcs (T - 256)) (if resumed then 128 else 64)).protPulse (T - 256) 32 4 (if resumed then 4 else 2) d.now

/-! ## Axis commands (R271-R276) -/

/-- A hard stop (R273, R274): steps end, `bits` is set on the DRIVE channels at `t`. -/
def Dev.hardStop (d : Dev) (a t bits result : Nat) : Dev :=
  let seek := (d.axOf a).st = .homeSeek
  let d := d.endMove a (t + lambdaTU) result t .hardStop (decide seek)
  let drv := drivePcs d.live a
  let d := d.setAx a { d.axOf a with stopped := ((d.axOf a).stopped ++ d.causeSet drv bits).eraseDups }
  d.setCauses drv bits t

/-- The stamped transition at `t` makes chatter (R274): with those in (t − CHAT_W, t] there are more than CHAT_N. The latch waits
until the transition proves no narrow pulse (R226). -/
def Dev.chatterCheck (d : Dev) (pc t : Nat) : Dev :=
  let n := d.lv (A.PCH_LIM pc) F.PCH_LIM_CHAT_N
  let win := d.lv (A.PCH_LIM pc) F.PCH_LIM_CHAT_W * usTU
  let c := d.pcOf pc
  if n = 0 ∨ c.chatter ∨ c.chat.isSome ∨ (c.trs.filter (fun s => decide (t < s.1 + win))).length ≤ n then d
  else d.setPc pc { c with chat := some t }

/-- Chatter on a pin of an axis latched at `t` (R274). -/
def Dev.chatterLatch (d : Dev) (pc t : Nat) : Dev :=
  let d := (d.setPc pc { d.pcOf pc with chatter := true, chat := none }).pcItem pc t [opAdd 0xD4 1]
  let d := (tileAxes d.live (pc / 64)).foldl (fun d a =>
    if [lposPin d.live a, lnegPin d.live a, homePin d.live a].contains (some pc) then
      (d.pcItem pc t [opAdd 0xD0 1]).hardStop a t 32 9
    else d) d
  d.pcPulse pc 0x23 0 t

/-- The chatter of a tile's pins that stands by `t`, the minimum spacing having passed (R226, R274). -/
def Dev.settleChatter (d : Dev) (q t : Nat) : Dev :=
  ((tilePcs q).filter (fun pc => match (d.pcOf pc).chat with | some s => decide (s + pinSpacing pc ≤ t) | none => false)).foldl
    (fun d pc => match (d.pcOf pc).chat with | some s => d.chatterLatch pc s | none => d) d

/-- The step or the direction pin is in safe state. -/
def Dev.axSafe (d : Dev) (a : Nat) : Bool :=
  [stepPin d.live a, dirPin d.live a].any (fun p => match p with | some pc => d.safeHeld pc | none => false)

/-- A limit that lies ahead is active. -/
def Dev.aheadActive (d : Dev) (a : Nat) (neg : Bool) : Bool := d.limActive (if neg then lnegPin d.live a else lposPin d.live a)

/-- The direction of an axis once its edges still to come have been placed (R271). -/
def Axis.dirTarget (x : Axis) : Bool := match x.dirAt.getLast? with | some y => y.2 | none => x.dirLevel

/-- The direction changes 24 ns after `r` and the first step follows (R271); `T` is the instant asked for, r with AT = 0, `at_`
the driver's t_0 when the move is mirrored (R418). Answers t_0. -/
def Dev.planDir (d : Dev) (a : Nat) (neg : Bool) (T at_ : Option Nat) : Dev × Nat :=
  let r := d.now
  let x := d.axOf a
  let lvl := !neg
  let change := x.dirTarget != lvl
  let e := r + pinLead
  let pin := (dirPin d.live a).isSome
  let t1 := if change && pin then max e (e + d.lv (A.AX_TIME a) F.AX_TIME_DSETUP * nsTU) else e
  let t0 := match at_ with | some t => t | none => max t1 (T.getD r)
  let d := d.setAx a { x with
    dirAt := if change && pin then x.dirAt ++ [(e, lvl)] else x.dirAt, dirLevel := if pin then x.dirLevel else lvl, neg := neg }
  (if T.getD r < t0 then d.setIm (A.AX_STAT a) F.AX_STAT_LATE 1 else d, t0)

/-- GO (R271, R276): `at_` is the driver's t_0 of a mirrored move. Answers t_0 when the move is planned. -/
def Dev.axGo (d : Dev) (a steps pcru psta nr : Nat) (T at_ : Option Nat) : Dev × Option Nat :=
  let x := d.axOf a
  let w := d.live
  let neg := decide (sgn 32 steps < 0)
  let n := (sgn 32 steps).natAbs
  let spacing := match stepPin w a with | some pc => pinSpacing pc / nsTU | none => 0
  let ok := w.b (A.AX_OPT a) F.AX_OPT_EN && (stepPin w a).isSome && decide (pcru ≤ psta) &&
    decide (d.swidth a / nsTU + spacing ≤ pcru) && decide (1 ≤ n)
  if x.st ≠ .idle then (d.axResult a 0xA d.now, none)
  else if ok = false then (d.axResult a 0xE d.now, none)
  else if d.aheadActive a neg then (d.axResult a 0xB d.now, none)
  else if d.axSafe a then (d.axResult a 0xD d.now, none)
  else
    let r := d.planDir a neg T at_
    let d := r.1.setAx a { r.1.axOf a with st := .move, n := n, j := 0, tNext := r.2, nr := nr, pcru := pcru, psta := psta }
    (d, some r.2)

/-- HOME_GO (R275, R276). -/
def Dev.axHome (d : Dev) (a : Nat) (T at_ : Option Nat) : Dev × Option Nat :=
  let x := d.axOf a
  let w := d.live
  let neg := w.b (A.AX_OPT a) F.AX_OPT_HOME_DIR
  if x.st ≠ .idle then (d.axResult a 0xA d.now, none)
  else if w.b (A.AX_OPT a) F.AX_OPT_EN = false ∨ stepPin w a = none then (d.axResult a 0xE d.now, none)
  else if d.limActive (homePin w a) then (d.axResult a 0xC d.now, none)
  else if d.aheadActive a neg then (d.axResult a 0xB d.now, none)
  else if d.axSafe a then (d.axResult a 0xD d.now, none)
  else
    let r := d.planDir a neg T at_
    let hmax := w.f (A.AX_HMAX a) F.AX_HMAX_HMAX
    let d := r.1.setAx a { r.1.axOf a with st := .homeSeek, homed := false, n := hmax, j := 0, tNext := r.2 }
    (if hmax = 0 then d.endMove a 0 6 d.now .idle false else d, some r.2)

/-- ABORT, and STOP in HOME_SEEK (R272): no step at or after r + 24 ns. -/
def Dev.axAbort (d : Dev) (a : Nat) : Dev :=
  if (d.axOf a).moving then d.endMove a (d.now + pinLead) 7 d.now .idle false else d

/-- The index of the first step of a move not placed by `lim`, from step `j` at `t` on (R272). -/
def Axis.firstAfter (x : Axis) (lim : Nat) : Nat → Nat → Nat → Nat
  | 0, j, _ => j
  | fuel + 1, j, t => if j < x.n ∧ t ≤ lim then x.firstAfter lim fuel (j + 1) (t + axGap x.n x.nr x.pcru x.psta j * nsTU) else j

/-- STOP (R272). The gaps of the steps before j are the same under n and n′. -/
def Dev.axStop (d : Dev) (a : Nat) : Dev :=
  let x := d.axOf a
  if x.st = .homeSeek then d.axAbort a
  else if x.st = .move then
    let j := x.firstAfter (d.now + pinLead) stepFuel x.j x.tNext
    d.setAx a { x with n := min x.n (j + 1 + min j x.nr) }
  else d

/-- CLR (R257, R274): the causes go from the channels the axis set them on, unless another axis has set them there too. -/
def Dev.axClr (d : Dev) (a : Nat) : Dev :=
  let w := d.live
  let pins := [lposPin w a, lnegPin w a, homePin w a].filterMap id
  let quiet := (pins.filter (fun pc => (d.pcOf pc).chatter)).all (fun pc =>
    match (d.pcOf pc).trs.head? with | some t => decide (t.1 + d.lv (A.PCH_LIM pc) F.PCH_LIM_CHAT_W * usTU ≤ d.now) | none => true)
  if d.limActive (lposPin w a) ∨ d.limActive (lnegPin w a) ∨ quiet = false then d.setIm (A.AX_STAT a) F.AX_STAT_CLR_REFUSED 1
  else
    let d := pins.foldl (fun d pc => d.setPc pc { d.pcOf pc with chatter := false }) d
    let x := d.axOf a
    let d := d.setAx a { x with st := if x.st = .hardStop then .idle else x.st, stopped := [] }
    let others := (d.axes.filter (fun y => y.1 != a)).flatMap (·.2.stopped)
    d.clearCauses (x.stopped.filter (fun pc => !(others.contains pc))) 48

/-- The command bits of AX_CMD. -/
def axBits (v : Word) : Nat := v.toNat / 2 ^ 24 % 32

/-- Carries out one AX_CMD command with its move values (R271-R275); answers the instant it was applied at. -/
def Dev.axDo (d : Dev) (a steps pcru psta : Nat) (T : Nat) (v : Word) (at_ : Option Nat) : Dev × Option Nat :=
  let Tv := if fget v F.AX_CMD_AT = 1 then some T else none
  match axBits v with
  | 1 => d.axGo a steps pcru psta (fget v F.AX_CMD_NR) Tv at_
  | 2 => d.axHome a Tv at_
  | 4 => (d.axStop a, none)
  | 8 => (d.axAbort a, none)
  | 16 => (d.axClr a, none)
  | _ => (d, none)

/-- A channel of the axis is shadowed (R418). -/
def Dev.axShadowed (d : Dev) (a : Nat) : Bool :=
  ([stepPin d.live a, dirPin d.live a].filterMap id).any d.shadowed

/-- The channel whose pairing an axis follows: its step pin. -/
def Dev.axChan (d : Dev) (a : Nat) : Option Nat := match stepPin d.live a with | some pc => some pc | none => dirPin d.live a

/-- A write of AX_CMD: more than one command bit discards it (R418 for a paired axis). -/
def writeAxCmd (a : Nat) (v : Word) (d : Dev) : Dev :=
  if axBits v ∉ [0, 1, 2, 4, 8, 16] then d.err (protPage (a / 8))
  else if d.axShadowed a then d
  else
    let d := d.settleChatter (a / 8) d.now
    let d := (d.setIm (A.AX_CMD a) F.AX_CMD_NR (fget v F.AX_CMD_NR)).setIm (A.AX_CMD a) F.AX_CMD_AT (fget v F.AX_CMD_AT)
    let steps := (d.immW (A.AX_STEPS a)).toNat
    let pcru := (d.immW (A.AX_PCRU a)).toNat
    let psta := (d.immW (A.AX_PSTA a)).toNat
    let T := unshort d.now ((d.immW (A.AX_T a 0)).toNat + (d.immW (A.AX_T a 1)).toNat * 2 ^ 32)
    let r := d.axDo a steps pcru psta T v none
    match d.axChan a with
    | some pc => if axBits v = 0 then r.1 else r.1.mirrorOut pc (r.2.getD d.now) (.axis a steps pcru psta (shortOf T) v)
    | none => r.1

/-- DIR_EDGE (R271): the direction pin takes its level. -/
def dirEdge (a : Nat) (d : Dev) : Dev :=
  let x := d.axOf a
  match x.dirAt with
  | [] => d
  | (t, l) :: rest =>
    let d := d.advanceTo t
    let d := d.setAx a { x with dirAt := rest, dirLevel := l }
    match dirPin d.live a with
    | none => d
    | some pc => if (d.pcOf pc).inSafe then d else (d.placeLevel pc t l).1

/-- STEP_PULSE (R269, R275, R276): the next step is placed; the last one ends the move. -/
def stepPulse (a : Nat) (d : Dev) : Dev :=
  let d := d.settleChatter (a / 8) (d.axOf a).tNext
  let x := d.axOf a
  if x.moving = false then d
  else
    let t := x.tNext
    let d := (d.advanceTo t).oneStep a
    let d := match stepPin d.live a with
      | some pc =>
        let c := d.pcOf pc
        let d := d.setPc pc { c with reqs := c.reqs.filter (fun r => !(r.level && r.t == t)) }
        if c.inSafe then d else (d.placeLevel pc t true).1
      | none => d
    if x.n ≤ x.j + 1 then
      let d := d.setAx a { d.axOf a with st := .idle }
      d.axResult a (if x.st = .homeSeek then 6 else 1) t
    else d

/-- A limit or home pin of axis `a` turned active at t_q (R273, R275, R276). -/
def Dev.axLimit (d : Dev) (a pc tq : Nat) : Dev :=
  let w := d.live
  let x := d.axOf a
  let isPos := lposPin w a = some pc
  let isNeg := lnegPin w a = some pc
  if isPos ∨ isNeg then
    let ahead := x.moving && (if x.neg then decide isNeg else decide isPos)
    if ahead then
      (d.pcItem pc tq [opAdd 0xD0 1]).endMove a (tq + lambdaTU) (if x.st = .homeSeek then 4 else 3) tq .idle false
    else if x.st = .hardStop then d
    else (d.pcItem pc tq [opAdd 0xD0 1]).hardStop a tq 16 5
  else if homePin w a = some pc ∧ x.st = .homeSeek then
    let k : Int := (x.placed.filter (fun t => decide (tq < t))).length
    let home := sgn 32 (w.f (A.AX_HPOS a) F.AX_HPOS_HPOS)
    let d := (d.pcItem pc tq [opAdd 0xD0 1]).setAx a { x with pos := wrapPos (if x.neg then home - k else home + k) }
    let d := d.stepsBefore a (tq + lambdaTU) stepFuel
    let d := d.setAx a { d.axOf a with st := .idle, homed := true }
    d.axResult a 2 tq
  else d

/-- SAFE_LEVEL_APPLY (R258): at t_c + Λ. -/
def safeLevelApply (pc : Nat) (d : Dev) : Dev :=
  let d := d.settleChatter (pc / 64) ((d.pcOf pc).safePend.getD (d.now + lambdaTU))
  match (d.pcOf pc).safePend with
  | none => d
  | some t => (d.advanceTo t).safeNow pc t

/-! ## High-side groups (R279-R283) -/

/-- The group and member index of a channel. -/
def Dev.groupOf (d : Dev) (g k : Nat) : Option Nat := ((grpMembers d.live g).find? (fun m => m.2 % 64 == k)).map (·.1)

/-- The level of the high side at an instant: some demand is open (R280). A demand that begins at that very instant keeps
it up. -/
def Dev.hsDrive (d : Dev) (g t : Nat) : Dev :=
  let open_ := !(d.grpOf g).demands.isEmpty
  let meets := (grpMembers d.live g).any (fun m => match (d.pcOf m.2).q with | e :: _ => e.arr && e.level && decide (e.due ≤ t) | [] => false)
  let pc := hsPin d.live g
  if (d.pcOf pc).inSafe then d else (d.placeLevel pc t (open_ || meets)).1

/-- A member of smaller number whose demand starts at the same instant and has still to be taken (R281). -/
def Dev.tieBefore (d : Dev) (g : Nat) (m : Demand) : Bool :=
  (grpMembers d.live g).any (fun y =>
    let c := d.pcOf y.2
    decide (y.2 % 64 < m.k) && !(d.safeHeld y.2) && !((d.grpOf g).demands.any (fun z => z.k == y.2 % 64)) &&
      (match c.q with | e :: _ => e.arr && e.level && e.due == m.a | [] => false))

/-- The first waiting demand begins its pull-in at `p` when none pulls in (R281). A demand whose end has reached the
interpolator and lies at or before `p` is left to be dropped. -/
def Dev.nextPull (d : Dev) (g p : Nat) : Dev :=
  let x := d.grpOf g
  if x.demands.any (fun m => m.st == .pulling) then d
  else
    let pc (k : Nat) : Nat := 64 * (g / 16) + k
    let ends (m : Demand) : Bool := match (d.pcOf (pc m.k)).q with | e :: _ => e.arr && !e.level && decide (e.due ≤ p) | [] => false
    match x.demands.find? (fun m => m.st == .waiting && !(ends m)) with
    | none => d
    | some m =>
      let p := max p m.a
      if p = m.a ∧ d.tieBefore g m then d
      else
        let d := d.setGrp g { x with demands := x.demands.map (fun y => if y = m then { y with st := .pulling, p := p } else y) }
        let d := if (d.pcOf (pc m.k)).inSafe then d else (d.placeLevel (pc m.k) p true).1
        if m.a < p then
          let defer := p - m.a
          let d := (d.pcItem (pc m.k) p [opAdd 0xE8 1, opMax 0xEC (sat 32 (defer / nsTU))]).pcPulse (pc m.k) 0x24 (sat 24 (defer / usTU)) p
          let e := d.epochAt p
          if d.acc e (0x2E0000 + g) = 0 then (d.accRun e 0x2E0000 [opSet g 1]).grpPulse g 2 m.k p else d
        else d

/-- The demands of a group that do not satisfy `ok` end at `t`. -/
def Dev.demandsEnd (d : Dev) (g t : Nat) (ok : Demand → Bool) : Dev :=
  let x := d.grpOf g
  let gone := x.demands.filter (fun m => !(ok m))
  if gone = [] then d
  else
    let d := d.setGrp g { x with demands := x.demands.filter ok, lastE := if gone.any (fun m => m.st == .pulling) then t else x.lastE }
    let d := gone.foldl (fun d m =>
      let pc := 64 * (g / 16) + m.k
      let d := d.setPc pc { d.pcOf pc with reqs := if d.pcMode pc = 12 then [] else (d.pcOf pc).reqs }
      if d.pcMode pc = 12 ∧ (d.pcOf pc).inSafe = false then (d.placeLevel pc t false).1 else d) d
    (if d.pcMode (hsPin d.live g) = 12 then d.hsDrive g t else d).nextPull g t

/-- Takes the head of a member's queue when it has arrived and has the level. -/
def Dev.takeHead (d : Dev) (pc : Nat) (level : Bool) : Option (Dev × Nat) :=
  let c := d.pcOf pc
  match c.q with
  | e :: q =>
    if e.arr ∧ e.level = level then
      some ((((d.advanceTo e.due).setPc pc { c with q := q }).queueEmptied pc (some e)), e.due)
    else none
  | [] => none

/-- GROUP_DEMAND_START (R279-R281). -/
def groupDemandStart (g k : Nat) (d : Dev) : Dev :=
  let pc := 64 * (g / 16) + k
  match d.groupOf g k, d.takeHead pc true with
  | some _, some (d, a) =>
    let x := d.grpOf g
    if x.demands.any (fun m => m.k == k) ∨ d.safeHeld pc then d
    else
      let at_ (m : Demand) : Bool := decide (m.a < a) || (m.a == a && decide (m.k < k))
      let ds := x.demands.takeWhile at_ ++ { k := k, a := a } :: x.demands.dropWhile at_
      let d := (d.setGrp g { x with demands := ds }).pcItem pc a [opAdd 0xE4 1]
      (d.hsDrive g a).nextPull g a
  | _, _ => d

/-- GROUP_DEMAND_END (R279-R282): a demand whose pull-in never began is dropped. -/
def groupDemandEnd (g k : Nat) (d : Dev) : Dev :=
  let pc := 64 * (g / 16) + k
  match d.takeHead pc false with
  | some (d, b) =>
    let x := d.grpOf g
    match x.demands.find? (fun m => m.k == k) with
    | none => d
    | some m =>
      let x' := { x with demands := x.demands.filter (fun y => y.k != k), lastE := if m.st = .pulling then b else x.lastE }
      let d := d.setGrp g x'
      let d := if m.st = .waiting then
          ((d.pcItem pc b [opAdd 0xF0 1]).pcPulse pc 0x25 0 b).grpPulse g 3 k b
        else
          let c := d.pcOf pc
          let d := d.setPc pc { c with reqs := [] }
          if c.inSafe then d else (d.placeLevel pc b false).1
      let d := d.hsDrive g b
      if m.st = .pulling then d.nextPull g b else d
  | none => d

/-- PULL_IN_END (R281, R282): the member holds from e on. -/
def pullInEnd (g k : Nat) (d : Dev) : Dev :=
  let pc := 64 * (g / 16) + k
  let x := d.grpOf g
  match x.demands.find? (fun m => m.k == k && m.st == .pulling) with
  | none => d
  | some m =>
    let e := m.p + d.lv (A.PCH_GPULL pc) F.PCH_GPULL_PULL * usTU
    let d := d.advanceTo e
    let d := d.setGrp g { x with demands := x.demands.map (fun y => if y = m then { y with st := .holding, p := e } else y), lastE := e }
    d.nextPull g e

/-- HOLD_CHOP (R282): the next chopping period of a member that holds. -/
def holdChop (g k : Nat) (d : Dev) : Dev :=
  let pc := 64 * (g / 16) + k
  let x := d.grpOf g
  match x.demands.find? (fun m => m.k == k && m.st == .holding) with
  | none => d
  | some m =>
    let per := d.lv (A.GRP_HOLDP g) F.GRP_HOLDP_HOLD_P * nsTU
    let on := d.lv (A.PCH_GHOLD pc) F.PCH_GHOLD_HOLD_DUTY * per / 2 ^ 24
    let minpw := sixteenth (d.lv (A.PCH_PWMW pc) F.PCH_PWMW_MINPW)
    let d := d.advanceTo m.p
    let d := d.setGrp g { x with demands := x.demands.map (fun y => if y = m then { y with p := m.p + per } else y) }
    if (d.pcOf pc).inSafe then d
    else if on < minpw then (d.pcItem pc m.p [opAdd 0x24 1]).placeLevel pc m.p false |>.1
    else if per - on < minpw then (d.pcItem pc m.p [opAdd 0x24 1]).placeLevel pc m.p true |>.1
    else (d.placeLevel pc m.p true).1.requests pc [{ t := m.p + on, level := false }]

/-! ## Status (R250, R273, R278) -/

/-- AX_STAT as read. -/
def Dev.axStat (d : Dev) (a : Nat) : Nat :=
  let x := d.axOf a
  let st := match x.st with | .idle => 0 | .move => 1 | .homeSeek => 2 | .hardStop => 3
  st + b2n x.homed * 4 + b2n (d.limActive (lposPin d.live a)) * 8 + b2n (d.limActive (lnegPin d.live a)) * 16 +
    b2n (d.limActive (homePin d.live a)) * 32 + x.result * 256 + (d.immW (A.AX_STAT a) &&& 0x30000#32).toNat

/-- GRP_STAT as read. -/
def Dev.grpStat (d : Dev) (g : Nat) : Nat :=
  let pull := (d.grpOf g).demands.find? (fun m => m.st == .pulling)
  let idx := match pull with | some m => (d.groupOf g m.k).getD 0 | none => 0
  b2n (d.pcOf (hsPin d.live g)).wlevel + ((grpMembers d.live g).map (fun m => b2n (d.pcOf m.2).wlevel * 2 ^ (1 + m.1))).sum +
    idx * 32 + b2n pull.isSome * 128

/-- TRIP_CTL as read. -/
def Dev.tripStat (d : Dev) (i : Nat) : Nat :=
  let x := d.tripOf i
  b2n x.asserted * 256 + b2n x.tripped * 512 + (d.immW (A.TRIP_CTL i) &&& 0x10000#32).toNat

/-! ## The commands -/

/-- SAFE_LEVEL_APPLY -/
def execSafeLevelApply (pc : Nat) (s : State) : Res := onDev (safeLevelApply pc) s
/-- CHANNEL_RESUME -/
def execChannelResume (pc : Nat) (s : State) : Res := onDev (channelResume pc) s
/-- TRIP_INPUT_TRANSITION -/
def execTripInputTransition (i : Nat) (level : Bool) (t : Nat) (s : State) : Res :=
  onLevel (tripInputTransition i level t) (fun d => d.setTrip i { d.tripOf i with level := level }) s
/-- TRIP -/
def execTrip (i : Nat) (s : State) : Res := onDev (trip i) s
/-- BLANK_WINDOW_END -/
def execBlankWindowEnd (i : Nat) (s : State) : Res := onDev (blankWindowEnd i) s
/-- TRIP_CLEAR -/
def execTripClear (m i : Nat) (s : State) : Res := onDev (fun d => d.hostWrite m (A.TRIP_CTL i) (writeTripCtl i 1#32)) s
/-- TRIP_CNT_READ -/
def execTripCntRead (m i : Nat) (s : State) : Res := onDev (fun d => d.hostReadRC m (A.TRIP_CNT i) 0xFFFFFFFF) s
/-- ENGINE_LOSS_STAMP -/
def execEngineLossStamp (T : Nat) (s : State) : Res := onDev (engineLossStamp T) s
/-- AXIS_GO -/
def execAxisGo (m a : Nat) (v : Word) (s : State) : Res :=
  onDev (fun d => d.hostWrite m (A.AX_CMD a) (writeAxCmd a (v &&& 0x1FFFF#32 ||| 0x1000000#32))) s
/-- HOME_GO -/
def execHomeGo (m a : Nat) (v : Word) (s : State) : Res :=
  onDev (fun d => d.hostWrite m (A.AX_CMD a) (writeAxCmd a (v &&& 0x1FFFF#32 ||| 0x2000000#32))) s
/-- AXIS_STOP -/
def execAxisStop (m a : Nat) (v : Word) (s : State) : Res :=
  onDev (fun d => d.hostWrite m (A.AX_CMD a) (writeAxCmd a (v &&& 0x1FFFF#32 ||| 0x4000000#32))) s
/-- AXIS_ABORT -/
def execAxisAbort (m a : Nat) (v : Word) (s : State) : Res :=
  onDev (fun d => d.hostWrite m (A.AX_CMD a) (writeAxCmd a (v &&& 0x1FFFF#32 ||| 0x8000000#32))) s
/-- AXIS_CLR -/
def execAxisClr (m a : Nat) (v : Word) (s : State) : Res :=
  onDev (fun d => d.hostWrite m (A.AX_CMD a) (writeAxCmd a (v &&& 0x1FFFF#32 ||| 0x10000000#32))) s
/-- DIR_EDGE -/
def execDirEdge (a : Nat) (s : State) : Res := onDev (dirEdge a) s
/-- STEP_PULSE -/
def execStepPulse (a : Nat) (s : State) : Res := onDev (stepPulse a) s
/-- GROUP_DEMAND_START -/
def execGroupDemandStart (g k : Nat) (s : State) : Res := onDev (groupDemandStart g k) s
/-- GROUP_DEMAND_END -/
def execGroupDemandEnd (g k : Nat) (s : State) : Res := onDev (groupDemandEnd g k) s
/-- PULL_IN_END -/
def execPullInEnd (g k : Nat) (s : State) : Res := onDev (pullInEnd g k) s
/-- HOLD_CHOP -/
def execHoldChop (g k : Nat) (s : State) : Res := onDev (holdChop g k) s

end Sys2Proof.Machine
end

