-- ==== Sys2Proof/Machine/Inputs.lean ====
section
/-! DEFINITION. Pin inputs: stamping, qualification, capture and count (chapter Pin Channels: Pulse Trains, PWM, Capture
and Timers, R226, R243-R246), the tile timers (R247-R251). -/
namespace Sys2Proof.Machine

/-! ## Stamping and qualification -/

/-- The channel's level inputs are delivered: CAPTURE, COUNT, QUAD and LIMIT (R243, R289). -/
def deliveredMode (m : Nat) : Bool := m == 6 || m == 7 || m == 8 || m == 11

/-- How far back a gate's level is asked for: more than LAT_IN and FILT can part a stamp from its delivery (R223, R245). -/
def gateReach : Nat := 200 * usTU

/-- Keeps the stamped transitions within `reach` of the newest, and one before them. -/
def trimTrs (reach : Nat) (l : List (Nat × Bool)) : List (Nat × Bool) :=
  match l with
  | [] => []
  | x :: _ => let new := l.takeWhile (fun y => decide (x.1 ≤ y.1 + reach)); l.take (new.length + 1)

/-- The level of a pin at a stamp (R245). -/
def PinCh.levelAt (c : PinCh) (s : Nat) : Bool :=
  match c.trs.find? (fun x => decide (x.1 ≤ s)) with
  | some x => x.2
  | none => match c.trs.getLast? with | some x => !x.2 | none => c.inLevel

/-- The lines of the enabled angle units that a QUAD pin feeds: unit and line A 0, B 1, Z 2 (R289). -/
def Dev.quadLines (d : Dev) (pc : Nat) : List (Nat × Nat) :=
  (List.range 8).flatMap (fun u =>
    let a := A.AU_CFG u
    if d.lvb a F.AU_CFG_EN = false then []
    else (if d.lv a F.AU_CFG_PIN_A = pc then [(u, 0)] else []) ++ (if d.lv a F.AU_CFG_PIN_B = pc then [(u, 1)] else []) ++
      (if d.lvb a F.AU_CFG_Z_EN ∧ d.lv a F.AU_CFG_PIN_Z = pc then [(u, 2)] else []))

/-- A qualified transition of a QUAD pin travels to its unit; a queue of 64 stamps that is full loses it (R289). -/
def Dev.quadStamp (d : Dev) (pc : Nat) (h : Cap) : Dev :=
  (d.quadLines pc).foldl (fun d x =>
    let y := Tab.get d.au {} x.1
    let l := Tab.get y.inq [] x.2
    { d with au := Tab.set d.au x.1 (if l.length < 64 then { y with inq := Tab.set y.inq x.2 (l ++ [h]) } else { y with ovr := some (y.ovr.getD h.stamp) }) }) d

/-- The instant of a transition as the counter has it now, phase steps having moved it since. -/
def Cap.here (h : Cap) : Nat := ((h.stamp : Int) + h.moved).toNat

/-- When a held transition has held long enough to be delivered: FILT, and the minimum spacing (R226, R243). -/
def Dev.qualDue (d : Dev) (pc : Nat) (h : Cap) : Nat := h.here + max (d.lv (A.PCH_IN pc) F.PCH_IN_FILT * nsTU) (pinSpacing pc)

/-- A qualified transition in CAPTURE mode (R244). -/
def Dev.capture (d : Dev) (pc : Nat) (h : Cap) : Dev :=
  let c := d.pcOf pc
  if 16 ≤ c.fifo.length then
    let d := (d.pcItem pc h.stamp [opAdd 0x3C 1]).setIm (A.PCH_STAT pc) F.PCH_STAT_CAP_LOST 1
    let f := d.pcFirst pc h.stamp 5
    if f.1 then f.2.pcPulse pc 3 0 h.stamp else f.2
  else
    let d := d.setPc pc { c with fifo := c.fifo ++ [h] }
    let e := d.epochAt h.stamp
    let last := d.acc e (privPin pc + 3)
    let sum := d.acc e (privPin pc)
    let n := d.acc e (privPin pc + 1)
    let s := shortOf h.stamp
    let ops := [opAdd 0x38 1, opSet 0x58 (s % 2 ^ 32), opSet 0x5C (s / 2 ^ 32)] ++
      (if last = 0 then [opSet 0x50 (s % 2 ^ 32), opSet 0x54 (s / 2 ^ 32)]
       else
         let iv := sat 32 ((h.stamp - (last - 1)) / 4096)
         [(0x60, fun x => if n = 0 then iv else min x iv), opMax 0x64 iv, opSet 0x68 ((sum + iv) / (n + 1))])
    let d := d.pcItem pc h.stamp ops
    let d := d.accRun e (privPin pc) ([(3, fun _ => h.stamp + 1)] ++
      (if last = 0 then [] else [(0, fun _ => sum + sat 32 ((h.stamp - (last - 1)) / 4096)), (1, (· + 1))]))
    d.pcPulse pc 2 (b2n h.level + (c.fifo.length + 1) * 256) h.stamp

/-- A qualified transition in COUNT mode (R245): the gate is that of its stamp; one stamped at or before the last clear counts in
the record only. -/
def Dev.countOne (d : Dev) (pc : Nat) (h : Cap) : Dev :=
  let c := d.pcOf pc
  let g := d.pcOf (64 * (pc / 64) + d.lv (A.PCH_IN pc) F.PCH_IN_GATE)
  if d.lvb (A.PCH_IN pc) F.PCH_IN_GATE_EN ∧ g.levelAt h.here = false then d
  else
    let d := d.pcItem pc h.stamp [opAdd 0x44 1]
    if c.clrAt.any (fun t => decide (h.here ≤ t)) then d
    else
      let e := d.epochAt h.stamp
      let endN := (d.acc e (recPin pc + 0x48) + d.acc e (recPin pc + 0x4C) * 2 ^ 32 + 1) % 2 ^ 48
      let d := if d.sq.closedBelow ≤ e ∧ e < d.sq.num then d.accRun e (recPin pc) [opSet 0x48 endN, opSet 0x4C (endN / 2 ^ 32)] else d
      let n := (c.cnt + 1) % 2 ^ 48
      let d := d.setPc pc { c with cnt := n }
      if n % 2 ^ 32 = d.lv (A.PCH_CCMP pc) F.PCH_CCMP_CCMP then d.pcPulse pc 4 (n % 2 ^ 24) h.stamp else d

/-- A qualified transition of a LIMIT pin at t_q (R273, R275). -/
def Dev.limitQual (d : Dev) (pc : Nat) (h : Cap) (tq : Nat) : Dev :=
  let active := h.level = d.lvb (A.PCH_LIM pc) F.PCH_LIM_ACT
  let d := (d.pcItem pc tq [opAdd 0xCC 1]).pcPulse pc 0x22 (b2n active) tq
  if active then (tileAxes d.live (pc / 64)).foldl (fun d a => d.axLimit a pc tq) d else d

/-- The held transition proves no narrow pulse: the one it has ended did not hold, and is counted (R226, R243). -/
def Dev.endHeld (d : Dev) (pc : Nat) : Dev :=
  let c := d.pcOf pc
  match c.ended with
  | none => d
  | some _ => (d.setPc pc { c with ended := none }).pcItem pc ((c.trs.head?.map (·.1)).getD d.now) [opAdd 0x40 1]

/-- The held transition of a channel qualifies at `tq`, when it matches EDGE, and is delivered (R243); EDGE is ignored on a QUAD
pin (R289). -/
def Dev.qualifyAt (d : Dev) (pc : Nat) (h : Cap) (tq : Nat) : Dev :=
  let mode := d.pcMode pc
  let d := d.endHeld pc
  let d := d.setPc pc { d.pcOf pc with held := none }
  if mode = 8 then d.asTaken h.old (fun d => d.quadStamp pc h)
  else if bitOf (d.lv (A.PCH_IN pc) F.PCH_IN_EDGE) (if h.level then 0 else 1) = false then d
  else if mode = 6 then d.asTaken h.old (fun d => d.capture pc h)
  else if mode = 7 then d.asTaken h.old (fun d => d.countOne pc h)
  else if mode = 11 then d.limitQual pc h tq
  else d

/-- The held transition of a channel qualifies once it has held. -/
def Dev.qualify (d : Dev) (pc : Nat) : Dev :=
  match (d.pcOf pc).held with
  | none => d
  | some h =>
    let d := (d.advanceTo (d.qualDue pc h)).settleChatter (pc / 64) (d.qualDue pc h)
    d.qualifyAt pc h (h.stamp + d.lv (A.PCH_IN pc) F.PCH_IN_FILT * nsTU)

/-- A transition is stamped: an input pulse narrower than the minimum spacing is taken back, and what it interrupted holds on
(R226, R243). -/
def Dev.pinStamp (d : Dev) (pc : Nat) (level : Bool) (stamp : Nat) : Dev :=
  let c := d.pcOf pc
  let filt := deliveredMode (d.pcMode pc)
  let narrow := match c.trs with | x :: _ => decide (stamp < x.1 + pinSpacing pc) | [] => false
  if narrow then
    let s := (c.trs.head?.map (·.1)).getD 0
    (d.setPc pc { c with inLevel := level, trs := c.trs.tail, held := c.ended, ended := none, chat := c.chat.filter (· != s) }).pcItem pc stamp
      [opAdd 0x40 2]
  else
    let d := d.endHeld pc
    let reach := max gateReach (d.lv (A.PCH_LIM pc) F.PCH_LIM_CHAT_W * usTU)
    let d := d.setPc pc { d.pcOf pc with
      inLevel := level, trs := trimTrs reach ((stamp, level) :: c.trs), ended := if filt then c.held else none
      held := if filt then some { stamp := stamp, level := level } else none }
    if d.pcMode pc = 11 then d.chatterCheck pc stamp else d

/-- PIN_INPUT_TRANSITION (R223, R226, R243, R274): the level changes at the ball at counter value `t`. A bank that is not supplied
stamps nothing (R484). -/
def pinInputTransition (pc : Nat) (level : Bool) (t : Nat) (d : Dev) : Dev :=
  if level == (d.pcOf pc).inLevel then d
  else if d.bankLost pc then d.setPc pc { d.pcOf pc with inLevel := level }
  else
    let stamp := ((t : Int) - sgn 32 (d.lv (A.PCH_LATI pc) F.PCH_LATI_LAT)).toNat
    let d := match (d.pcOf pc).held with
      | some h => if d.qualDue pc h ≤ stamp then d.qualify pc else d
      | none => d
    ((d.advanceTo t).settleChatter (pc / 64) stamp).pinStamp pc level stamp

/-- HOME_FOUND: the HOME pin's transition qualifies. -/
def homeFound (a : Nat) (d : Dev) : Dev :=
  match homePin d.live a with
  | some pc => d.qualify pc
  | none => d

/-! ## The capture FIFO (R244) -/

/-- A read of PCH_CAP0: the head into the reader's latch; the owner's read removes it (R146). -/
def readPchCap0 (m pc : Nat) (d : Dev) : Dev × Nat :=
  let c := d.pcOf pc
  match c.fifo with
  | [] => (d.setLatch (A.PCH_CAP0 pc) m [0, 0, 0], 0)
  | h :: t =>
    let own := d.ownsReg m (A.PCH_CAP0 pc)
    let left := if own then t.length else t.length + 1
    let w0 := 1 + b2n h.level * 2 + left * 256
    let s := shortOf h.stamp
    let d := d.setLatch (A.PCH_CAP0 pc) m [w0, s % 2 ^ 32, s / 2 ^ 32]
    (if own then d.setPc pc { c with fifo := t } else d, w0)

/-- The channel's waveform runs (R253). -/
def PinCh.runs (c : PinCh) : Bool :=
  match c.mode with
  | 1 | 5 | 9 => !c.inSafe
  | 3 | 12 => c.running
  | _ => c.running && !c.stopped

/-- PCH_STAT as read. -/
def Dev.pchStat (d : Dev) (pc : Nat) : Nat :=
  let c := d.pcOf pc
  c.q.length + b2n c.inLevel * 256 + b2n c.runs * 512 + (d.immW (A.PCH_STAT pc) &&& 0x30000#32).toNat

/-! ## Tile timers (R247-R251) -/

def Dev.tmr (d : Dev) (T i : Nat) : Timer := Tab.get d.timers {} (8 * T + i)
def Dev.setTmr (d : Dev) (T i : Nat) (x : Timer) : Dev := { d with timers := Tab.set d.timers (8 * T + i) x }

/-- The settings of a timer. -/
structure TmrCfg where
  dir : Nat
  tick : Nat
  top : Nat
  init : Nat
  cmp : Nat
deriving DecidableEq, Repr

def tmrCfg (w : View) (T i : Nat) : TmrCfg :=
  ⟨w.f (A.TMR_CFG T i) F.TMR_CFG_DIR, max 1 (w.f (A.TMR_TICK T i) F.TMR_TICK_TICK) * nsTU,
   w.f (A.TMR_TOP0 T i) F.TMR_TOP0_TOP + w.f (A.TMR_HI T i) F.TMR_HI_TOP * 2 ^ 32,
   w.f (A.TMR_INIT0 T i) F.TMR_INIT0_INIT + w.f (A.TMR_HI T i) F.TMR_HI_INIT * 2 ^ 32,
   w.f (A.TMR_CMP0 T i) F.TMR_CMP0_CMP + w.f (A.TMR_CMP1 T i) F.TMR_CMP1_CMP * 2 ^ 32⟩

/-- The modulus of a timer's count. -/
def TmrCfg.modulus (c : TmrCfg) : Nat := if c.dir = 2 then max 1 (2 * c.top) else c.top + 1

/-- The value after some ticks, and DOWN_NOW (R247). -/
def TmrCfg.value (c : TmrCfg) (ticks : Nat) : Nat × Bool :=
  match c.dir with
  | 0 => ((c.init + ticks) % c.modulus, false)
  | 1 => (((c.init : Int) - (ticks : Int)) % (c.modulus : Int) |>.toNat, false)
  | _ => let u := (c.init + ticks) % c.modulus; if u < c.top then (u, false) else (2 * c.top - u, true)

/-- The first number above `m` that is `r` modulo `n`. -/
def nextResidue (m n : Nat) (r : Int) : Nat := m + 1 + ((r - (m : Int) - 1) % (n : Int)).toNat

/-- The first match after tick `m` (R249). -/
def TmrCfg.nextMatch (c : TmrCfg) (m : Nat) : Nat :=
  match c.dir with
  | 0 => nextResidue m c.modulus ((c.cmp : Int) - c.init)
  | 1 => nextResidue m c.modulus ((c.init : Int) - c.cmp)
  | _ => min (nextResidue m c.modulus ((c.cmp : Int) - c.init)) (nextResidue m c.modulus (-(c.cmp : Int) - c.init))

/-- The first wrap after tick `m`. -/
def TmrCfg.nextWrap (c : TmrCfg) (m : Nat) : Nat :=
  match c.dir with
  | 1 => nextResidue m c.modulus ((c.init : Int) + 1)
  | _ => nextResidue m c.modulus (-(c.init : Int))

/-- The start that has taken effect by an instant: the armed one once it is reached. -/
def Timer.startBy (x : Timer) (t : Nat) : Option Nat :=
  match x.armed with
  | some s => if s ≤ t then some s else if x.started then some x.s else none
  | none => if x.started then some x.s else none

/-- The value of a timer at an instant with DOWN_NOW, and whether it runs (R247). -/
def Timer.read (x : Timer) (c : TmrCfg) (t : Nat) : (Nat × Bool) × Bool :=
  match x.startBy t with
  | some s => (c.value ((t - s) / c.tick), true)
  | none => match x.frozen with
    | some v => (v, false)
    | none => ((c.init, false), false)

/-- Words TMR_VAL0 and TMR_VAL1. -/
def Dev.tmrVal (d : Dev) (T i : Nat) : Nat × Nat :=
  let r := (d.tmr T i).read (tmrCfg d.live T i) d.now
  (r.1.1 % 2 ^ 32, r.1.1 / 2 ^ 32 + b2n r.2 * 2 ^ 16 + b2n r.1.2 * 2 ^ 17)

/-- A timer pulse (R255): kind 0 MATCH, 1 WRAP, 2 START, 3 SLEPT. -/
def Dev.tmrPulse (d : Dev) (T i kind arg stamp : Nat) : Dev :=
  d.happen T (ttmrPage T) (8 * kind + i) (srcEng d T (wholeHolder d.live T)) ⟨engId T, stamp, (0x40 + 8 * kind + i + arg * 256) % 2 ^ 32⟩

/-- Pulses the matches and wraps up to an instant, at most `fuel` of them, in the order of their ticks. -/
def Dev.tmrCatch (d : Dev) (T i t : Nat) : Nat → Dev
  | 0 => d
  | fuel + 1 =>
    let x := d.tmr T i
    let c := tmrCfg d.live T i
    let m := c.nextMatch x.matchTick
    let w := c.nextWrap x.wrapTick
    let n := min m w
    if t < x.s + n * c.tick then d
    else if m ≤ w then (d.setTmr T i { x with matchTick := m }).tmrPulse T i 0 0 (x.s + m * c.tick) |>.tmrCatch T i t fuel
    else (d.setTmr T i { x with wrapTick := w }).tmrPulse T i 1 0 (x.s + w * c.tick) |>.tmrCatch T i t fuel

/-- The timer starts at S (R248): START is pulsed; after S has passed, LATE is set and what has passed is pulsed at once. -/
def Dev.tmrBegin (d : Dev) (T i s : Nat) (late : Bool) : Dev :=
  let d := (d.setTmr T i { started := true, s := s }).tmrPulse T i 2 0 s
  if late then
    let c := tmrCfg d.live T i
    (d.setIm (A.TMR_CTL T i) F.TMR_CTL_LATE 1).tmrCatch T i d.now (2 * ((d.now - s) / c.tick) + 2)
  else d

/-- A start instant reaches the timer. -/
def Dev.tmrArm (d : Dev) (T i s : Nat) : Dev :=
  if s < d.now then d.tmrBegin T i s true else d.setTmr T i { d.tmr T i with armed := some s }

def Dev.tmrOn (d : Dev) (T i start : Nat) : Bool := d.lvb (A.TMR_CFG T i) F.TMR_CFG_EN && d.lv (A.TMR_CFG T i) F.TMR_CFG_START == start

/-- A write of TMR_ARM1 (R248). -/
def writeTmrArm1 (T i : Nat) (v : Word) (d : Dev) : Dev :=
  if d.tmrOn T i 2 then d.tmrArm T i (unshort d.now ((d.immW (A.TMR_ARM0 T i)).toNat + v.toNat * 2 ^ 32)) else d

/-- The first copy of a pulse bound for a destination, and the fabric without it. -/
def takeCopy (p : Dest → Bool) : List FabEntry → Option (FabEntry × List FabEntry)
  | [] => none
  | e :: t => if p e.dest then some (e, t) else (takeCopy p t).map (fun x => (x.1, e :: x.2))

/-- TIMER_GLOBAL_START (R248). -/
def timerGlobalStart (T i : Nat) (d : Dev) : Dev :=
  match takeCopy (fun x => x == .timer T i) d.fabric with
  | none => d
  | some (e, rest) =>
    let d := { d with fabric := rest }
    let x := d.tmr T i
    if d.tmrOn T i 1 ∧ x.started = false ∧ x.armed = none then
      d.tmrArm T i (e.p.stamp + d.lv (A.TMR_SOFS T i) F.TMR_SOFS_SOFS * nsTU)
    else d

/-- TIMER_START (R248). -/
def timerStart (T i : Nat) (d : Dev) : Dev :=
  match (d.tmr T i).armed with
  | some s => (d.advanceTo s).tmrBegin T i s false
  | none => d

/-- TIMER_MATCH (R249): the next match instant. -/
def timerMatch (T i : Nat) (d : Dev) : Dev :=
  let x := d.tmr T i
  if x.started = false then d
  else
    let c := tmrCfg d.live T i
    let m := c.nextMatch x.matchTick
    let t := x.s + m * c.tick
    ((d.advanceTo t).setTmr T i { x with matchTick := m }).tmrPulse T i 0 0 t

/-- TIMER_WRAP (R249): the next wrap instant. -/
def timerWrap (T i : Nat) (d : Dev) : Dev :=
  let x := d.tmr T i
  if x.started = false then d
  else
    let c := tmrCfg d.live T i
    let m := c.nextWrap x.wrapTick
    let t := x.s + m * c.tick
    ((d.advanceTo t).setTmr T i { x with wrapTick := m }).tmrPulse T i 1 0 t

/-- A write of TMR_CTL (R249). -/
def writeTmrCtl (T i : Nat) (v : Word) (d : Dev) : Dev :=
  let d := if fget v F.TMR_CTL_LATE = 1 then d.setIm (A.TMR_CTL T i) F.TMR_CTL_LATE 0 else d
  if fget v F.TMR_CTL_STOP = 1 then
    d.setTmr T i { frozen := some ((d.tmr T i).read (tmrCfg d.live T i) d.now).1 }
  else d

/-- What a boundary at `B` does to a timer whose settings changed (R248): it waits for its start anew. -/
def Dev.tmrApply (d : Dev) (T i B : Nat) : Dev :=
  let d := d.setTmr T i {}
  if d.tmrOn T i 0 then d.setTmr T i { armed := some B } else d

/-- A jump of the counter from `t0` to `t1` at wake (R251): the matches and wraps between are counted in SLEPT. -/
def Dev.tmrSlept (d : Dev) (T i t0 t1 : Nat) : Dev :=
  let x := d.tmr T i
  match x.startBy t1 with
  | none => d
  | some s =>
    let c := tmrCfg d.live T i
    let k0 := if t0 < s then 0 else (t0 - s) / c.tick
    let k1 := (t1 - s) / c.tick
    let m := c.modulus
    let hits (r : Int) : Nat := let f := nextResidue k0 m r; if f ≤ k1 then (k1 - f) / m + 1 else 0
    let n := match c.dir with
      | 0 => hits ((c.cmp : Int) - c.init) + hits (-(c.init : Int))
      | 1 => hits ((c.init : Int) - c.cmp) + hits ((c.init : Int) + 1)
      | _ => hits ((c.cmp : Int) - c.init) + (if c.cmp = 0 ∨ c.cmp = c.top then 0 else hits (-(c.cmp : Int) - c.init)) + hits (-(c.init : Int))
    if n = 0 then d
    else
      let d := d.setTmr T i { x with started := true, s := s, armed := none, matchTick := k1, wrapTick := k1 }
      let d := d.incIm (A.TMR_CTL T i) F.TMR_CTL_SLEPT n
      if d.lv (A.TMR_CFG T i) F.TMR_CFG_SLEEP_POL = 0 then d.tmrPulse T i 3 (sat 24 n) t1 else d

/-! ## The commands -/

/-- PIN_INPUT_TRANSITION -/
def execPinInputTransition (pc : Nat) (level : Bool) (t : Nat) (s : State) : Res :=
  onLevel (pinInputTransition pc level t) (fun d => d.setPc pc { d.pcOf pc with inLevel := level }) s
/-- INPUT_QUALIFIED -/
def execInputQualified (pc : Nat) (s : State) : Res := onDev (fun d => d.qualify pc) s
/-- LIMIT_QUALIFIED -/
def execLimitQualified (pc : Nat) (s : State) : Res := onDev (fun d => d.qualify pc) s
/-- HOME_FOUND -/
def execHomeFound (a : Nat) (s : State) : Res := onDev (homeFound a) s
/-- CAPTURE_POP -/
def execCapturePop (m pc : Nat) (s : State) : Res := onDev (fun d => d.hostReadBy m (readPchCap0 m pc)) s
/-- TIMER_ARM -/
def execTimerArm (m T i : Nat) (v : Word) (s : State) : Res := onDev (fun d => d.hostWrite m (A.TMR_ARM1 T i) (writeTmrArm1 T i v)) s
/-- TIMER_GLOBAL_START -/
def execTimerGlobalStart (T i : Nat) (s : State) : Res := onDev (timerGlobalStart T i) s
/-- TIMER_START -/
def execTimerStart (T i : Nat) (s : State) : Res := onDev (timerStart T i) s
/-- TIMER_MATCH -/
def execTimerMatch (T i : Nat) (s : State) : Res := onDev (timerMatch T i) s
/-- TIMER_WRAP -/
def execTimerWrap (T i : Nat) (s : State) : Res := onDev (timerWrap T i) s
/-- TIMER_STOP -/
def execTimerStop (m T i : Nat) (s : State) : Res := onDev (fun d => d.hostWrite m (A.TMR_CTL T i) (writeTmrCtl T i 1#32)) s
/-- SLEPT_READ -/
def execSleptRead (m T i : Nat) (s : State) : Res := onDev (fun d => d.hostReadRC m (A.TMR_CTL T i) 0xFFFF0000) s

end Sys2Proof.Machine
end

