-- ==== Sys2Proof/Machine/Angle.lean ====
section
/-! DEFINITION. Angle units (chapter Angle Units and Angle Flows, R288-R311). -/
namespace Sys2Proof.Machine

def Dev.auOf (d : Dev) (u : Nat) : AU := Tab.get d.au {} u
def Dev.setAu (d : Dev) (u : Nat) (x : AU) : Dev := { d with au := Tab.set d.au u x }

/-- Counts in a unit's record. -/
def Dev.auItem (d : Dev) (u stamp : Nat) (ops : List RecOp) : Dev := d.item (srcAU d u) stamp ops

/-- A unit's pulse j (R311). -/
def Dev.auPulse (d : Dev) (u j arg stamp : Nat) : Dev :=
  d.happen (300 + u) (auPage u) j (srcAU d u) ⟨auId u j, stamp, arg * 256 % 2 ^ 32⟩

/-- Private words of a unit's epoch: 0 a speed was taken, 1 and 2 number and sum of the phase samples (offset 2^31), 3 the
first PHASE_OVER, 4 to 7 the first refusal of each output. -/
def privAu (u : Nat) : Nat := 0x2D0000 + 16 * u

def Dev.auFirst (d : Dev) (u stamp k : Nat) : Bool × Dev :=
  let e := d.epochAt stamp
  (d.acc e (privAu u + k) == 0, d.accRun e (privAu u) [opSet k 1])

/-! ## Geometry (R291) -/

/-- The number of teeth and of lines per tooth. -/
def auNT (w : View) (u : Nat) : Nat := max 1 (w.f (A.AU_GEOM u) F.AU_GEOM_NT)
def auD (w : View) (u : Nat) : Nat := w.f (A.AU_GEOM u) F.AU_GEOM_DM1 + 1
/-- Counts of one turn. -/
def auC (w : View) (u : Nat) : Nat := 4 * auNT w u * auD w u

/-- The tooth a count lies in. -/
def auTooth (w : View) (u : Nat) (c : Int) : Nat := (c % (auC w u : Int)).toNat / (4 * auD w u)

/-- The absolute position of a count: turns × 2^32 + θ(c) (R291). -/
def auTheta (w : View) (u : Nat) (teeth : List Nat) (c : Int) : Int :=
  let C := auC w u
  let turns := sgn 32 (unsgn 32 (c / (C : Int)))
  let m := (c % (C : Int)).toNat
  let n := m / (4 * auD w u)
  let r := m % (4 * auD w u)
  let at_ (i : Nat) : Nat := if i < auNT w u then teeth.getD i 0 else teeth.getD 0 0 + 2 ^ 32
  turns * 2 ^ 32 + (((at_ n : Int) + (r : Int) * ((at_ (n + 1) : Int) - (at_ n : Int)) / ((4 * auD w u : Nat) : Int)) % 2 ^ 32)

/-- The position of a count of unit `u`. -/
def Dev.auPos (d : Dev) (u : Nat) (c : Int) : Int := auTheta d.live u (d.auOf u).teeth c

/-! ## The estimate (R296, R297) -/

/-- Speed in 2^-16 turn/s, rounded toward zero. -/
def auSpeed (dp : Int) (dt : Nat) : Int := tdiv (dp * (secTU : Int)) (max 1 dt * 65536)

/-- STALL_T in TU. -/
def Dev.stallT (d : Dev) (u : Nat) : Nat := d.lv (A.AU_STALL u) F.AU_STALL_STALL_T * usTU

/-- The estimate of the position at `t` and the speed, with the interval they rest on, from the edges stamped by `t`: no edge for
STALL_T holds the last (R296, R297). -/
def Dev.estimateAt (d : Dev) (u t : Nat) : Int × Int × Nat :=
  let x := d.auOf u
  match x.edges.dropWhile (fun e => decide (t < e.t)) with
  | k :: k1 :: _ =>
    let p := d.auPos u k.c
    if k.qual = false ∨ k.t + d.stallT u ≤ t ∨ k.brk then (p, 0, 0)
    else
      let p1 := d.auPos u k1.c
      let dt := max 1 (k.t - k1.t)
      let e := p + (p - p1) * ((t - k.t : Nat) : Int) / (dt : Int)
      let e := if k.neg then max e (d.auPos u (k.c - 1) + 1) else min e (d.auPos u (k.c + 1) - 1)
      (e, auSpeed (p - p1) dt, dt)
  | k :: _ => (d.auPos u k.c, 0, 0)
  | [] => (d.auPos u x.c, 0, 0)

/-- The estimate now: STALL holds the last edge's angle (R297). -/
def Dev.estimate (d : Dev) (u t : Nat) : Int × Int × Nat :=
  let x := d.auOf u
  if x.stall then (match x.edges with | k :: _ => d.auPos u k.c | [] => d.auPos u x.c, 0, 0) else d.estimateAt u t

/-- The phase against the partner for a position of this wheel and one of the partner (R303). -/
def auPhi (w : View) (u : Nat) (own partner : Int) : Int :=
  let num := max 1 (w.f (A.AU_GEAR u) F.AU_GEAR_GNUM)
  let den := w.f (A.AU_GEAR u) F.AU_GEAR_GDEN
  sgn 32 (unsgn 32 (own - partner * (den : Int) / (num : Int)))

/-! ## Output queues (R299-R302) -/

def AU.out (x : AU) (o : Nat) : List AuEnt := Tab.get x.outs [] o

/-- Inserts an entry by position, after those of the same position. -/
def entInsert : List AuEnt → AuEnt → List AuEnt
  | [], e => [e]
  | x :: t, e => if e.pos < x.pos then e :: x :: t else x :: entInsert t e

def Dev.setOut (d : Dev) (u o : Nat) (l : List AuEnt) : Dev :=
  let x := d.auOf u
  d.setAu u { x with outs := Tab.set x.outs o l }

/-- The record word of output `o`. -/
def outRec (o off : Nat) : Nat := 0x80 + 0x20 * o + off

/-- The last entry has left a queue: QUEUE_EMPTY. -/
def Dev.outEmptied (d : Dev) (u o t : Nat) : Dev :=
  if ((d.auOf u).out o).isEmpty then d.auPulse u (18 + 4 * o) 0 t else d

/-- Flushes an output's queue; each entry discarded is counted (R293, R302). -/
def Dev.outFlush (d : Dev) (u o t : Nat) : Dev :=
  let l := (d.auOf u).out o
  if l = [] then d
  else (((d.setOut u o []).auItem u t [opAdd (outRec o 16) l.length])).outEmptied u o (((l.getLast?).bind (·.tp)).getD t)

/-- Flushes every queue of a unit. -/
def Dev.outFlushAll (d : Dev) (u t : Nat) : Dev := [0, 1, 2, 3].foldl (fun d o => d.outFlush u o t) d

/-- An entry's direction includes a direction of motion. -/
def AuEnt.goes (e : AuEnt) (neg : Bool) : Bool := bitOf e.dir (if neg then 1 else 0)

/-- The lead of an output comparator (R34). -/
def outLead : Nat := 40 * nsTU

/-- An entry is passed at an update at `U` while the wheel moves as `neg` says (R301): fired at the first TU at or after U + 40 ns,
or skipped. LATE is stamped with its predicted instant, that of the late fire where it had none. -/
def Dev.passEnt (d : Dev) (u o U : Nat) (neg : Bool) (e : AuEnt) : Dev × Option AuEnt :=
  let skip := d.lvb (A.AU_OUT u o) F.AU_OUT_PASSED
  let at_ := U + outLead
  let d := (d.auItem u U [opAdd (outRec o (if skip then 8 else 4)) 1]).auPulse u (17 + 4 * o) (b2n skip) (e.tp.getD at_)
  if skip then (d, none) else (d, some { e with tp := some at_, late := true, neg := neg })

/-- The entry as it is re-inserted after a pass (R302). -/
def AuEnt.again (e : AuEnt) (neg : Bool) : AuEnt :=
  { e with pos := if neg then e.pos - 2 ^ 32 else e.pos + 2 ^ 32, tp := none, late := false }

/-- Passes the entries of an output that `sel` chooses. -/
def Dev.passAll (d : Dev) (u o U : Nat) (neg : Bool) (sel : AuEnt → Bool) : Dev :=
  let l := (d.auOf u).out o
  if l.any sel = false then d
  else
    let r := l.foldl (fun (acc : Dev × List AuEnt × List AuEnt) e =>
      if sel e then
        let p := acc.1.passEnt u o U neg e
        match p.2 with
        | some e' => (p.1, acc.2.1 ++ [e'], acc.2.2)
        | none => (p.1, acc.2.1, if e.rep then e.again neg :: acc.2.2 else acc.2.2)
      else (acc.1, acc.2.1 ++ [e], acc.2.2)) (d, [], [])
    let last := ((l.filter sel).getLast?.bind (·.tp)).getD (U + outLead)
    (r.1.setOut u o (r.2.2.foldl entInsert r.2.1)).outEmptied u o last

/-- Schedules an output's entries from the last edge, whose update came at `U` (R300, R301). -/
def Dev.schedule (d : Dev) (u o U : Nat) : Dev :=
  let x := d.auOf u
  if x.st ≠ .sync ∨ x.qual = false ∨ x.stall ∨ d.lvb (A.AU_OUT u o) F.AU_OUT_EN = false then d
  else match x.edges with
    | k :: k1 :: _ =>
      let pk := d.auPos u k.c
      let p1 := d.auPos u k1.c
      let nx := d.auPos u (if k.neg then k.c - 1 else k.c + 1)
      let span := (pk - p1).natAbs
      if k.brk ∨ span = 0 then d
      else
        let inside (e : AuEnt) : Bool := if k.neg then decide (nx ≤ e.pos) && decide (e.pos < pk) else decide (pk < e.pos) && decide (e.pos ≤ nx)
        let tp (e : AuEnt) : Nat := k.t + ((e.pos - pk).natAbs * (k.t - k1.t) + (span - 1)) / span
        let d := d.setOut u o ((x.out o).map (fun e => if !e.late && e.goes k.neg && inside e then { e with tp := some (tp e), neg := k.neg } else e))
        d.passAll u o U k.neg (fun e => !e.late && e.goes k.neg && inside e && decide (tp e < U + outLead))
    | _ => d

/-- The entries an edge at Θ_k has gone beyond (R301): those whose prediction the update still precedes, and those that had
none. -/
def Dev.crossed (d : Dev) (u o U : Nat) : Dev :=
  let x := d.auOf u
  if x.st ≠ .sync ∨ x.qual = false ∨ d.lvb (A.AU_OUT u o) F.AU_OUT_EN = false then d
  else match x.edges with
    | k :: k1 :: _ =>
      let pk := d.auPos u k.c
      let p1 := d.auPos u k1.c
      let between (p : Int) : Bool := if k.neg then decide (pk < p) && decide (p < p1) else decide (p1 < p) && decide (p < pk)
      d.passAll u o U k.neg (fun e => !e.late && e.goes k.neg &&
        (match e.tp with
         | some t => between e.pos && decide (U + outLead < t)
         | none => between e.pos || e.pos == pk))
    | _ => d

/-- Adds an entry to a queue (R299); answers whether it was accepted. -/
def Dev.pushAngle (d : Dev) (u o : Nat) (e : AuEnt) : Dev × Bool :=
  let l := (d.auOf u).out o
  if 32 ≤ l.length ∨ e.dir = 0 then
    let d := (d.auItem u d.now [opAdd (outRec o 12) 1]).setIm (A.AU_QSTAT u o) F.AU_QSTAT_Q_REFUSED 1
    let f := d.auFirst u d.now (4 + o)
    (if f.1 then f.2.auPulse u (19 + 4 * o) 0 d.now else f.2, false)
  else
    let d := (d.setOut u o (entInsert l e)).auItem u d.now [opMax (outRec o 20) (l.length + 1)]
    (d.schedule u o d.now, true)

/-- A write of AU_Q2 (R299). -/
def writeAuQ2 (u o : Nat) (v : Word) (d : Dev) : Dev :=
  let pos := sgn 32 (d.immW (A.AU_Q1 u o)).toNat * 2 ^ 32 + ((d.immW (A.AU_Q0 u o)).toNat : Int)
  (d.pushAngle u o { pos := pos, dir := fget v F.AU_Q2_DIR, level := fget v F.AU_Q2_LEVEL == 1, rep := fget v F.AU_Q2_REPEAT == 1,
                     pulse := fget v F.AU_Q2_PULSE == 1 }).1

/-- A write of AU_QSTAT (R302). -/
def writeAuQstat (u o : Nat) (v : Word) (d : Dev) : Dev :=
  let d := if fget v F.AU_QSTAT_Q_REFUSED = 1 then d.setIm (A.AU_QSTAT u o) F.AU_QSTAT_Q_REFUSED 0 else d
  if fget v F.AU_QSTAT_FLUSH = 1 then d.outFlush u o d.now else d

/-- OUTPUT_FIRE (R299, R300): the earliest scheduled entry of an output fires. -/
def outputFire (u o : Nat) (d : Dev) : Dev :=
  let x := d.auOf u
  let l := x.out o
  let best := l.foldl (fun (b : Option (AuEnt × Nat)) e => match e.tp, b with
    | some t, some (_, t0) => if t < t0 then some (e, t) else b
    | some t, none => some (e, t)
    | none, _ => b) none
  match best with
  | none => d
  | some (e, t) =>
    let d := d.advanceTo t
    let l := l.erase e
    let d := d.setOut u o (if e.rep then entInsert l (e.again e.neg) else l)
    let pc := d.lv (A.AU_OUT u o) F.AU_OUT_PIN
    let d := if (d.pcOf pc).mode = 3 ∧ (d.pcOf pc).inSafe = false then (d.placeLevel pc t e.level).1 else d
    let d := d.auItem u t [opAdd (outRec o 0) 1]
    let d := if e.pulse then d.auPulse u (16 + 4 * o) (b2n e.level) t else d
    d.outEmptied u o t

/-! ## Tracking (R290, R293-R295) -/

/-- The unit enters a state (R293, R311). -/
def Dev.auState (d : Dev) (u : Nat) (st : AuSt) (cause stamp : Nat) : Dev :=
  let code := match st with | .off => 0 | .seek => 1 | .sync => 2
  (d.setAu u { d.auOf u with st := st, lossCause := if st = .seek then cause else (d.auOf u).lossCause }).auPulse u 0 (code + cause * 16) stamp

/-- A loss of tracking (R293). -/
def Dev.auLoss (d : Dev) (u cause stamp : Nat) : Dev :=
  let d := (d.auItem u stamp [opAdd 0x1C 1, opSet 0x2C cause]).outFlushAll u stamp
  d.auState u .seek cause stamp

/-- A signed 64-bit count (R290). -/
def wrapC (c : Int) : Int := sgn 64 (unsgn 64 c)

/-- The count is set to a value at an edge: the counts of the edges before, of a suspect one and of the run's first move with
it. -/
def AU.shift (x : AU) (c : Int) : AU :=
  let mv (k : Int) : Int := wrapC (k + (c - x.c))
  { x with c := wrapC c, edges := x.edges.map (fun e => { e with c := mv e.c }), suspect := x.suspect.map (fun e => { e with c := mv e.c })
           runFirst := mv x.runFirst }

/-- Every encoder pin of a unit lies in a bank that is supplied (R46, R484). -/
def Dev.encSupplied (d : Dev) (u : Nat) : Bool :=
  let a := A.AU_CFG u
  !(d.bankLost (d.lv a F.AU_CFG_PIN_A) || d.bankLost (d.lv a F.AU_CFG_PIN_B) || (d.lvb a F.AU_CFG_Z_EN && d.bankLost (d.lv a F.AU_CFG_PIN_Z)))

/-- Edges older than a capture may need are let go: the newest three, and those of the last 11 ms with the three before. -/
def trimEdges (t : Nat) (l : List AuEdge) : List AuEdge :=
  let new := l.takeWhile (fun e => decide (t < e.t + 11000 * usTU))
  l.take (max 3 (new.length + 3))

/-- A phase sample at one of the unit's own edges (R303). -/
def Dev.phaseSample (d : Dev) (u t : Nat) : Dev :=
  let w := d.live
  let x := d.auOf u
  let p := w.f (A.AU_PAIR u) F.AU_PAIR_PARTNER
  let y := d.auOf p
  if w.b (A.AU_PAIR u) F.AU_PAIR_PAIR_EN = false then d
  else
    let phi := auPhi w u (d.auPos u x.c) (d.estimateAt p t).1
    let d := match x.partnerRev with
      | some (neg, phi1) =>
        if neg ≠ x.neg then d
        else if x.st ≠ .sync ∨ y.st ≠ .sync ∨ x.stall ∨ y.stall then d.setAu u { x with partnerRev := none }
        else
          let b := (phi - phi1).natAbs
          (((d.setAu u { x with partnerRev := none }).auItem u t [opSet 0x60 b, opMax 0x64 b, opAdd 0x68 1])).auPulse u 6 (sat 24 (b / 256)) t
      | none => d
    let good (z : AU) : Bool := z.st == .sync && z.qual && !z.stall
    if good x && good y then
      let e := d.epochAt t
      let n := d.acc e (privAu u + 1)
      let sum : Int := (d.acc e (privAu u + 2) : Int) + phi + 2 ^ 31
      let mn := sgn 32 (d.recAt t (recAU u) 0x50)
      let mx := sgn 32 (d.recAt t (recAU u) 0x54)
      let d := d.setAu u { d.auOf u with phase := some phi }
      let d := d.accRun e (privAu u) [(1, (· + 1)), (2, fun _ => sum.toNat)]
      let d := d.auItem u t [opSet 0x50 (unsgn 32 (if n = 0 then phi else min mn phi)), opSet 0x54 (unsgn 32 (if n = 0 then phi else max mx phi)),
        opSet 0x58 (unsgn 32 (sum / ((n + 1 : Nat) : Int) - 2 ^ 31))]
      let lim := w.f (A.AU_PHLIM u) F.AU_PHLIM_PH_LIM
      if lim ≠ 0 ∧ lim < phi.natAbs then
        let d := d.auItem u t [opAdd 0x5C 1]
        let f := d.auFirst u t 3
        if f.1 then f.2.auPulse u 5 0 t else f.2
      else d
    else d

/-- A qualified reversal of unit `p` at t1, with its own units that measure against it (R303). -/
def Dev.partnerReversal (d : Dev) (p t : Nat) : Dev :=
  (List.range 8).foldl (fun d u =>
    let w := d.live
    let x := d.auOf u
    if u ≠ p ∧ w.b (A.AU_PAIR u) F.AU_PAIR_PAIR_EN ∧ w.f (A.AU_PAIR u) F.AU_PAIR_PARTNER = p ∧ x.st = .sync ∧ x.qual ∧ x.stall = false ∧
        (d.auOf p).st = .sync then
      d.setAu u { x with partnerRev := some ((d.auOf p).neg, auPhi w u (d.estimateAt u t).1 (d.auPos p (d.auOf p).c)) }
    else d) d

/-- Processes one A/B edge of step `neg` at `t`, with the update at `U` (R293-R301): `arm` tells that it came after the write of
SETC, `clr` that it came after a stall. -/
def Dev.auEdge (d : Dev) (u : Nat) (neg : Bool) (t U : Nat) (arm clr : Bool) : Dev :=
  let w := d.live
  let x := d.auOf u
  let arming := arm && x.st == .seek && x.setc.isSome && d.encSupplied u
  let next : Int := wrapC (if neg then x.c - 1 else x.c + 1)
  let c : Int := if arming then x.setc.getD next else next
  let x := if arming then { x.shift (if neg then c + 1 else c - 1) with setc := none } else x
  let first := x.edges.isEmpty
  let rev := !first && x.neg != neg
  let newRun := first || rev
  let runLen := if newRun then 1 else x.runLen + 1
  let dirq := max 1 (w.f (A.AU_TRK u) F.AU_TRK_DIRQ)
  let qual := decide (dirq ≤ runLen)
  let becomes := qual && (newRun || !x.qual)
  let wasStall := clr && x.stall
  let brk := newRun || wasStall
  let pos := auTheta w u x.teeth c
  let e : AuEdge := { c := c, t := t, neg := neg, qual := qual, rev := rev, brk := brk }
  let runFirst := if newRun then c else x.runFirst
  let x := { x with
    c := c, edges := trimEdges t (e :: x.edges), neg := neg, runLen := runLen, reversed := if newRun then rev else x.reversed,
    runFirst := runFirst, qual := qual, stall := x.stall && !clr, sinceSubst := x.sinceSubst.map (· + 1) }
  let x := if rev then { x with outs := x.outs.map (fun q => (q.1, q.2.map (fun e => if e.late then e else { e with tp := none }))) } else x
  let d := (d.setAu u x).auItem u t (opAdd 0x10 1 :: (if rev then [opAdd 0x24 1] else []))
  let d := if wasStall then d.auPulse u 3 0 t else d
  let d := if arming then d.auState u .sync 0 t else d
  let d := if becomes ∧ x.reversed then (d.auPulse u 2 (b2n neg) t).partnerReversal u t else d
  let est := d.estimate u t
  let d := if est.2.2 = 0 then d
    else
      let ep := d.epochAt t
      let had := d.acc ep (privAu u) ≠ 0
      let sp := est.2.1
      let mn := sgn 32 (d.recAt t (recAU u) 0x38)
      let mx := sgn 32 (d.recAt t (recAU u) 0x3C)
      let sp' := sgn 32 (unsgn 32 (max (-(2 ^ 31)) (min (2 ^ 31 - 1) sp)))
      (d.accRun ep (privAu u) [opSet 0 1]).auItem u t
        [opSet 0x38 (unsgn 32 (if had then min mn sp' else sp')), opSet 0x3C (unsgn 32 (if had then max mx sp' else sp'))]
  let lo := min (auTheta w u x.teeth runFirst) pos
  let hi := max (auTheta w u x.teeth runFirst) pos
  let d := [0, 1, 2, 3].foldl (fun d o =>
    let d := if becomes && d.lvb (A.AU_OUT u o) F.AU_OUT_EN && (d.auOf u).st == .sync then
        d.passAll u o U neg (fun e => !e.late && e.goes neg && decide (lo < e.pos) && decide (e.pos < hi))
      else d.crossed u o U
    d.schedule u o U) d
  d.phaseSample u t

/-- The predicted interval dt1 × a / b as a fraction of |b| (R294). -/
def predicted (dt1 : Nat) (a b : Int) : Int := (dt1 : Int) * a * (if b < 0 then -1 else 1)

/-- The interval check of R294 holds: |Δt − Δ̂| ≤ Δ̂ × TOL / 256, with Δ̂ = dt1 × a / b. -/
def withinTol (dt dt1 : Nat) (a b : Int) (tol : Nat) : Bool :=
  decide (((((dt * b.natAbs : Nat) : Int) - predicted dt1 a b).natAbs : Int) * 256 ≤ predicted dt1 a b * (tol : Int))

/-- An A/B edge reaches the unit: the bad-tooth check stands before its processing (R294). -/
def Dev.auStamp (d : Dev) (u : Nat) (neg : Bool) (t U : Nat) : Dev :=
  let w := d.live
  let x := d.auOf u
  let tol := w.f (A.AU_TRK u) F.AU_TRK_TOL
  let step (c : Int) : Int := wrapC (if neg then c - 1 else c + 1)
  let th (c : Int) : Int := d.auPos u c
  match x.suspect with
  | some s =>
    let arm := !x.setcLate
    let d := d.setAu u { x with suspect := none, setcLate := false }
    match x.edges with
    | k1 :: k2 :: _ =>
      let a2 := th (step s.c) - th k1.c
      if withinTol (t - k1.t) (k1.t - k2.t) a2 (th k1.c - th k2.c) tol then
        let ts := k1.t + (t - k1.t) * (th s.c - th k1.c).natAbs / max 1 a2.natAbs
        let second := match x.sinceSubst with | some n => decide (n ≤ w.f (A.AU_TRK u) F.AU_TRK_SUBST_WIN) | none => false
        let d := (d.auItem u ts [opAdd 0x14 1]).auPulse u 1 (auTooth w u s.c) ts
        let d := d.setAu u { d.auOf u with sinceSubst := some 0, bad := sat 8 (x.bad + 1) }
        let d := if second && (d.auOf u).st == .sync then d.auLoss u 1 ts else d
        (d.asTaken s.old (fun d => d.auEdge u s.neg ts U arm s.brk)).auEdge u neg (max t (ts + 1)) U true true
      else ((d.auItem u t [opAdd 0x18 1]).asTaken s.old (fun d => d.auEdge u s.neg s.t U arm s.brk)).auEdge u neg t U true true
    | _ => (d.asTaken s.old (fun d => d.auEdge u s.neg s.t U arm s.brk)).auEdge u neg t U true true
  | none =>
    match x.edges with
    | k1 :: k2 :: _ =>
      let c := step x.c
      let a := th c - th k1.c
      let b := th k1.c - th k2.c
      let gap := w.f (A.AU_CHK u) F.AU_CHK_CHK_GAP * usTU
      let check := x.qual && decide (0 < gap) && b != 0 && decide (predicted (k1.t - k2.t) a b ≤ (gap * b.natAbs : Nat))
      if check && !(withinTol (t - k1.t) (k1.t - k2.t) a b tol) then
        d.setAu u { x with suspect := some { c := c, t := t, neg := neg, brk := x.stall }, setcLate := false }
      else d.auEdge u neg t U true true
    | _ => d.auEdge u neg t U true true

/-- An index edge (R293). -/
def Dev.auIndex (d : Dev) (u t : Nat) : Dev :=
  let w := d.live
  let x := d.auOf u
  let z : Int := w.f (A.AU_ZCOUNT u) F.AU_ZCOUNT_ZCOUNT
  let C := auC w u
  match x.st with
  | .seek => (d.setAu u (x.shift z)).auState u .sync 0 t
  | .sync =>
    let df := ((x.c - z) % (C : Int)).toNat
    let near := min df (C - df)
    if df = 0 then d
    else if near ≤ w.f (A.AU_CHK u) F.AU_CHK_ZTOL then d.auItem u t [opAdd 0x20 1]
    else (d.auLoss u 2 t).setAu u ((d.auLoss u 2 t).auOf u |>.shift z)
  | .off => d

/-- The place of the levels (A, B) in the sequence 00, 10, 11, 01. -/
def quadIdx (a b : Bool) : Nat := match a, b with | false, false => 0 | true, false => 1 | true, true => 2 | false, true => 3

/-- The tracking of a unit starts over at a loss: its edges no longer tell anything. -/
def AU.cut (x : AU) : AU := { x with edges := [], runLen := 0, qual := false, suspect := none, setcLate := false }

/-- One stamp of line A (0), B (1) or Z (2) at the unit (R290, R293). -/
def Dev.auLine (d : Dev) (u line : Nat) (level : Bool) (t U : Nat) : Dev :=
  let x := d.auOf u
  let old := quadIdx x.lvA x.lvB
  let x' := match line with
    | 0 => { x with lvA := level, lastA := some t }
    | 1 => { x with lvB := level, lastB := some t }
    | _ => { x with lvZ := level }
  let same : Bool := match line with | 0 => x.lvA == level | 1 => x.lvB == level | _ => x.lvZ == level
  let d := d.setAu u x'
  if x.st = .off ∨ d.auRuns u = false ∨ same then d
  else if 2 ≤ line then
    if d.lvb (A.AU_CFG u) F.AU_CFG_Z_EN ∧ level = !x.neg ∧ d.encSupplied u then d.auIndex u t else d
  else
    let w := d.live
    let pin := if line = 0 then w.f (A.AU_CFG u) F.AU_CFG_PIN_A else w.f (A.AU_CFG u) F.AU_CFG_PIN_B
    let other := if line = 0 then x.lastB else x.lastA
    let illegal := match other with | some o => decide (((t : Int) - (o : Int)).natAbs < pinSpacing pin) | none => false
    if illegal then (d.setAu u x'.cut).auLoss u 3 t
    else
      let up := (quadIdx x'.lvA x'.lvB + 4 - old) % 4 = 1
      let neg := if w.b (A.AU_CFG u) F.AU_CFG_REV then decide up else !(decide up)
      let last := match x.suspect, x.edges with | some s, _ => some s.t | none, k :: _ => some k.t | none, [] => none
      let t := match last with | some l => max t (l + 1) | none => t
      d.auStamp u neg t U

/-- A stamp has been lost on its way to the unit (R289, R293): cause 4. -/
def Dev.auOverrun (d : Dev) (u : Nat) : Dev :=
  let x := d.auOf u
  match x.ovr with
  | none => d
  | some t =>
    let d := d.setAu u { x with ovr := none }
    if x.st = .off then d else (d.setAu u { x.cut with ovr := none }).auLoss u 4 t

/-- ENCODER_EDGE (R289, R290): the first stamp on its way from the pin of a line reaches the unit. The command names it, with
whether a later one was lost; of any other it is no event (log entry 9). -/
def encoderEdge (u line : Nat) (level : Bool) (t : Nat) (overrun : Bool) (d : Dev) : Dev :=
  match Tab.get (d.auOf u).inq [] line with
  | [] => d
  | h :: rest =>
    if (h.level, h.stamp, (d.auOf u).ovr.isSome) ≠ (level, t, overrun) then d else
    let d := d.advanceTo h.stamp
    let d := d.setAu u { d.auOf u with inq := Tab.set (d.auOf u).inq line rest }
    let d := d.auOverrun u
    d.asTaken h.old (fun d => d.auLine u line h.level h.stamp d.now)

/-- STALL_TIMEOUT (R297): no edge has arrived for STALL_T after the last one. -/
def stallTimeout (u : Nat) (d : Dev) : Dev :=
  let x := d.auOf u
  if x.st = .off ∨ x.stall then d
  else
    let last := match x.suspect, x.edges with | some s, _ => some s.t | none, k :: _ => some k.t | none, [] => none
    match last with
    | none => d
    | some l =>
      let t := l + d.stallT u
      let d := d.advanceTo t
      ((d.setAu u { x with stall := true }).auItem u t [opAdd 0x28 1]).auPulse u 3 1 t

/-! ## Registers of a unit -/

/-- A write of AU_SETC1 (R293). -/
def writeAuSetc1 (u : Nat) (v : Word) (d : Dev) : Dev :=
  d.setAu u { d.auOf u with setc := some (sgn 64 ((d.immW (A.AU_SETC0 u)).toNat + v.toNat * 2 ^ 32)), setcLate := (d.auOf u).suspect.isSome }

/-- A write of AU_CTL (R293). -/
def writeAuCtl (u : Nat) (v : Word) (d : Dev) : Dev :=
  if fget v F.AU_CTL_RESYNC = 1 ∧ (d.auOf u).st = .sync then d.auLoss u 5 d.now else d

/-- A read of AU_POS0 (R296): the estimate, the speed and the instant into the reader's latch. -/
def readAuPos0 (m u : Nat) (d : Dev) : Dev × Nat :=
  let e := d.estimate u d.now
  let s := shortOf d.now
  let ws := [unsgn 32 e.1, unsgn 32 (e.1 / 2 ^ 32), unsgn 32 e.2.1, s % 2 ^ 32, s / 2 ^ 32]
  (d.setLatch (A.AU_POS0 u) m ws, ws.headD 0)

/-- AU_STAT as read. -/
def Dev.auStat (d : Dev) (u : Nat) : Nat :=
  let x := d.auOf u
  (match x.st with | .off => 0 | .seek => 1 | .sync => 2) + b2n x.qual * 4 + b2n x.neg * 8 + b2n x.stall * 16 +
    b2n x.suspect.isSome * 32 + x.lossCause * 256

/-- AU_QSTAT as read. -/
def Dev.auQstat (d : Dev) (u o : Nat) : Nat := ((d.auOf u).out o).length + (d.immW (A.AU_QSTAT u o) &&& 0x10000#32).toNat

/-! ## Angle at exposure (R304-R307) -/

/-- EXP_OFS in TU and HOLD_MAX in TU. -/
def expOfs (w : View) (u : Nat) : Int := sgn 32 (w.f (A.AU_EXPOFS u) F.AU_EXPOFS_EXP_OFS) * (nsTU : Int)
def holdMax (w : View) (u : Nat) : Nat := w.f (A.AU_HOLD u) F.AU_HOLD_HOLD_MAX * usTU
/-- The period of the alignment points of FMT as a fraction of a second. -/
def expPeriod (w : View) (u : Nat) : Nat × Nat := let f := fmtRate (w.f (A.AU_EXP u) F.AU_EXP_FMT); (f.2, max 1 f.1)
/-- The exposure instant of alignment point n. -/
def expInstant (w : View) (u : Nat) (n : Int) : Int := gridPoint (expPeriod w u) n + expOfs w u
/-- The first exposure instant at or after an instant. -/
def expFrom (w : View) (u : Nat) (t : Int) : Int := gridFrom (expPeriod w u) (t - expOfs w u).toNat

/-- The capture and flow settings of a unit (R308). -/
def capRegs (u : Nat) : List Nat := [A.AU_EXP u, A.AU_EXPOFS u, A.AU_HOLD u, A.AU_RTP u, A.AU_SSRC u]

/-- The settings that serve the exposure instant `te`: a unit's capture and flow settings apply from the first exposure at or after
their boundary (R308). -/
def Dev.capView (d : Dev) (te : Nat) : View := fun a =>
  match pageOf a with
  | .au u =>
    if (capRegs u).contains a then
      match (d.auOf u).capOld.find? (fun x => decide (te < x.1)) with
      | some x => (Tab.get? x.2 a).getD (d.lvW a)
      | none => d.lvW a
    else d.lvW a
  | _ => d.lvW a

/-- The spans of instants that one set of capture settings serves: from the first up to, not including, the second. -/
def capSpans (lo : Nat) : List (Nat × Tab Word) → List (Nat × Option Nat)
  | [] => [(lo, none)]
  | x :: t => (lo, some x.1) :: capSpans x.1 t

/-- The units of a capture set, in ascending order. -/
def captureSet (w : View) (u : Nat) : List Nat := (List.range 8).filter (fun k => k == u || bitOf (w.f (A.AU_EXP u) F.AU_EXP_UNITS) k)

/-- A unit's statement of its position at `te` from the edges frozen (R304), its phase aside. -/
def Dev.stateAt (d : Dev) (u te : Nat) : AuState :=
  let x := d.auOf u
  let after := x.edges.takeWhile (fun e => decide (te < e.t))
  let before := x.edges.drop after.length
  let next := after.getLast?
  let sync := x.st == .sync
  match before with
  | [] => ⟨d.auPos u x.c, 0, 0, 3, sync, x.neg, 0⟩
  | k :: rest =>
    let p := d.auPos u k.c
    let rev := match next with | some n => n.rev | none => false
    if !k.qual || rev then ⟨p, 0, 0, 3, sync, k.neg, 0⟩
    else if k.t + d.stallT u ≤ te then ⟨p, 0, 0, 2, sync, k.neg, 0⟩
    else match next with
      | some n =>
        let dt := max 1 (n.t - k.t)
        let dp := d.auPos u n.c - p
        ⟨p + dp * ((te - k.t : Nat) : Int) / (dt : Int), auSpeed dp dt, sat 32 (dt / nsTU), 0, sync, k.neg, 0⟩
      | none => match rest with
        | k1 :: _ =>
          if k.brk then ⟨p, 0, 0, 1, sync, k.neg, 0⟩
          else
            let e := d.estimateAt u te
            ⟨e.1, auSpeed (p - d.auPos u k1.c) (k.t - k1.t), sat 32 ((k.t - k1.t) / nsTU), 1, sync, k.neg, 0⟩
        | [] => ⟨p, 0, 0, 1, sync, k.neg, 0⟩

/-- The statements of a capture set at instant `te`, with their phases (R303, R304, R307). -/
def Dev.expoStates (d : Dev) (u te : Nat) : Tab AuState :=
  let w := d.capView te
  let sts : Tab AuState := (captureSet w u).map (fun k => (k, d.stateAt k te))
  sts.map (fun s =>
    if w.b (A.AU_PAIR s.1) F.AU_PAIR_PAIR_EN then
      let p := w.f (A.AU_PAIR s.1) F.AU_PAIR_PARTNER
      let pp := match Tab.get? sts p with | some y => y.pos | none => (d.estimateAt p te).1
      (s.1, { s.2 with phase := auPhi w s.1 s.2.pos pp })
    else s)

/-- The capture of alignment point `n` is frozen, its instant being `te` (R304). -/
def Dev.expoTake (d : Dev) (u : Nat) (n : Int) (te : Nat) : Dev :=
  let sts := d.expoStates u te
  let d := d.setAu u { d.auOf u with nextAt := te + 1, expo := some (n, te, d.holdoverAt te, sts) }
  let d := sts.foldl (fun d s => d.auItem s.1 te (opAdd 0x40 1 :: (if s.2.method = 0 then [] else [opAdd 0x44 1]))) d
  d.auPulse u 4 ((d.auOf u).seq % 2 ^ 24) te

/-- The first exposure of a span still to be captured at `now`, HOLD_MAX not having passed since it: its alignment point and its
instant; those a step passed over are left out (R304, R308, R309). -/
def Dev.expoIn (d : Dev) (u now : Nat) (span : Nat × Option Nat) : Option (Int × Nat) :=
  let w := d.capView span.1
  let x := d.auOf u
  let first (t : Nat) : Int × Nat := let n := expFrom w u t; (n, (expInstant w u n).toNat)
  let a := first (max span.1 (max x.nextAt (now - holdMax w u)))
  let e := if x.passed.1 ≤ a.2 ∧ a.2 < x.passed.2 then first x.passed.2 else a
  if w.b (A.AU_EXP u) F.AU_EXP_FLOW_EN && (match span.2 with | some B => decide (e.2 < B) | none => true) then some e else none

/-- How many exposures of a span lie in [a, b). -/
def Dev.expoCount (d : Dev) (u a b : Nat) (span : Nat × Option Nat) : Nat :=
  let w := d.capView span.1
  let lo := max span.1 a
  let hi := match span.2 with | some B => min B b | none => b
  if w.b (A.AU_EXP u) F.AU_EXP_FLOW_EN && decide (lo < hi) then (expFrom w u hi - expFrom w u lo).toNat else 0

/-- The exposure to be captured next. -/
def Dev.expoNext (d : Dev) (u now : Nat) : Option (Int × Nat) := (capSpans 0 (d.auOf u).capOld).findSome? (d.expoIn u now)

/-- EXPOSURE_FREEZE (R304): a unit captures while it runs (R444). -/
def exposureFreeze (u : Nat) (d : Dev) : Dev :=
  if d.auRuns u = false then d
  else match d.expoNext u d.now with
    | none => d
    | some (n, te) => (d.advanceTo (te + holdMax (d.capView te) u - 2 * usTU)).expoTake u n te

/-- One wheel entry of the payload (R307). -/
def wheelEntry (u bad wheel : Nat) (s : AuState) : List Byte :=
  beBytes 1 (u * 32 + b2n s.sync * 16 + b2n s.neg * 8 + s.method) ++ beBytes 1 bad ++ beBytes 2 wheel ++
    beBytes 4 (unsgn 32 (s.pos / 2 ^ 32)) ++ beBytes 4 (unsgn 32 s.pos) ++ beBytes 4 (unsgn 32 s.speed) ++ beBytes 4 (unsgn 32 s.phase) ++
    beBytes 4 s.gap

/-- The frame of an angle packet with its placeholder headers (R306). -/
def angleFrame (pt seq ts ssrc : Nat) (payload : List Byte) : List Byte :=
  let rtp := [0x80, BitVec.ofNat 8 (128 + pt)] ++ beBytes 2 (seq % 65536) ++ beBytes 4 (ts % 2 ^ 32) ++ beBytes 4 ssrc
  let ul := 8 + rtp.length + payload.length
  udpRecompute (List.replicate 12 0 ++ beBytes 2 0x0800 ++ ip4Header 0 0 ul [0, 0, 0, 0] [0, 0, 0, 0] ++ beBytes 2 0 ++ beBytes 2 0 ++
    beBytes 2 ul ++ beBytes 2 0 ++ rtp ++ payload)

/-- ANGLE_PACKET_INJECT (R305-R307). -/
def anglePacketInject (u : Nat) (d : Dev) : Dev :=
  let x := d.auOf u
  match x.expo with
  | none => d
  | some (n, te, hold, sts) =>
    let w := d.capView te
    let t := te + holdMax w u
    let d := d.advanceTo t
    let e := d.epochAt te
    let fc := w.f (A.AU_EXP u) F.AU_EXP_FLOWCH
    let p := expPeriod w u
    let ts := (n * (p.1 : Int) * (rtpClk w fc : Int) / (p.2 : Int)) % 2 ^ 32
    let head := [BitVec.ofNat 8 (16 + sts.length), BitVec.ofNat 8 (b2n hold * 128 + b2n (d.sq.stepped.contains e) * 64), 0, 0] ++
      beBytes 6 (te / secTU) ++ beBytes 4 (te % secTU / 65536) ++ beBytes 2 (te % 65536) ++ beBytes 4 (e % 2 ^ 32)
    let body := sts.flatMap (fun s => wheelEntry s.1 (d.auOf s.1).bad (w.f (A.AU_RTP s.1) F.AU_RTP_WHEEL_ID) s.2)
    let frame := angleFrame (w.f (A.AU_RTP u) F.AU_RTP_PT) x.seq ts.toNat (w.f (A.AU_SSRC u) F.AU_SSRC_SSRC) (head ++ body)
    let d := d.setAu u { x with expo := none, seq := x.seq + 1 }
    let d := sts.foldl (fun d s => d.setAu s.1 { d.auOf s.1 with bad := 0 }) d
    (d.auItem u t [opAdd 0x4C 1]).inject fc 0 none t frame false

/-! ## Commits (R293, R308) -/

/-- What a boundary at `B` does to a unit; `ow` are the settings before, `teeth` a table copied by the commit. -/
def Dev.auApply (d : Dev) (u B : Nat) (ow : View) (teeth : Option (List Nat)) : Dev :=
  let w := d.live
  let ch (a : Nat) : Bool := ow a != w a
  let en0 := ow.b (A.AU_CFG u) F.AU_CFG_EN
  let en1 := w.b (A.AU_CFG u) F.AU_CFG_EN
  let newT := match teeth with | some t => t != (d.auOf u).teeth | none => false
  let d := match teeth with | some t => d.setAu u { d.auOf u with teeth := t } | none => d
  let pins (x : AU) : AU :=
    let lv (f : Fld) : Bool := let c := d.pcOf (w.f (A.AU_CFG u) f); match c.held with | some h => !h.level | none => c.inLevel
    if ch (A.AU_CFG u) then
      { x with lvA := lv F.AU_CFG_PIN_A, lvB := lv F.AU_CFG_PIN_B, lvZ := lv F.AU_CFG_PIN_Z, lastA := none, lastB := none, inq := [], ovr := none }
    else x
  let restart (d : Dev) (cause : Nat) : Dev :=
    let x := d.auOf u
    (d.setAu u (pins { x.cut with c := 0, stall := false, sinceSubst := none, neg := false })).auState u .seek cause B
  let d := if en1 ∧ en0 = false then restart d 0
    else if en0 ∧ en1 = false then
      let d := d.outFlushAll u B
      (d.setAu u { (d.auOf u).cut with stall := false, inq := [], ovr := none }).auState u .off 0 B
    else if en1 && (ch (A.AU_CFG u) || ch (A.AU_GEOM u) || ch (A.AU_ZCOUNT u) || ch (A.AU_TRK u) || newT) then
      restart ((d.auItem u B [opSet 0x2C 6]).outFlushAll u B) 6
    else d
  let d := [0, 1, 2, 3].foldl (fun d o => if ch (A.AU_OUT u o) then d.outFlush u o B else d) d
  let f0 := ow.b (A.AU_EXP u) F.AU_EXP_FLOW_EN
  let f1 := w.b (A.AU_EXP u) F.AU_EXP_FLOW_EN
  let d := if f1 ∧ f0 = false then d.setAu u { d.auOf u with seq := 0 } else d
  if (capRegs u).any ch then
    let x := d.auOf u
    d.setAu u { x with capOld := x.capOld.filter (fun y => decide (B < y.1 + 20000 * usTU)) ++ [(B, (capRegs u).map (fun a => (a, ow a)))] }
  else d

/-! ## The commands -/

/-- ENCODER_EDGE -/
def execEncoderEdge (u line : Nat) (level : Bool) (t : Nat) (overrun : Bool) (s : State) : Res :=
  onDev (encoderEdge u line level t overrun) s
/-- STALL_TIMEOUT -/
def execStallTimeout (u : Nat) (s : State) : Res := onDev (stallTimeout u) s
/-- OUTPUT_FIRE -/
def execOutputFire (u out : Nat) (s : State) : Res := onDev (outputFire u out) s
/-- ANGLE_QUEUE_PUSH -/
def execAngleQueuePush (m u out : Nat) (v : Word) (s : State) : Res := onDev (fun d => d.hostWrite m (A.AU_Q2 u out) (writeAuQ2 u out v)) s
/-- ANGLE_QUEUE_FLUSH -/
def execAngleQueueFlush (m u out : Nat) (s : State) : Res := onDev (fun d => d.hostWrite m (A.AU_QSTAT u out) (writeAuQstat u out 0x100#32)) s
/-- SETC_ARM -/
def execSetcArm (m u : Nat) (v : Word) (s : State) : Res := onDev (fun d => d.hostWrite m (A.AU_SETC1 u) (writeAuSetc1 u v)) s
/-- ANGLE_RESYNC -/
def execAngleResync (m u : Nat) (s : State) : Res := onDev (fun d => d.hostWrite m (A.AU_CTL u) (writeAuCtl u 1#32)) s
/-- ANGLE_POS_READ -/
def execAnglePosRead (m u : Nat) (s : State) : Res := onDev (fun d => d.hostReadBy m (readAuPos0 m u)) s
/-- EXPOSURE_FREEZE -/
def execExposureFreeze (u : Nat) (s : State) : Res := onDev (exposureFreeze u) s
/-- ANGLE_PACKET_INJECT -/
def execAnglePacketInject (u : Nat) (s : State) : Res := onDev (anglePacketInject u) s

end Sys2Proof.Machine
end

