-- ==== Sys2Proof/Machine/Dma.lean ====
section
/-! DEFINITION. The DMA channels' start, checks and faults (chapter Media Store, Pantries and DMA, R373-R379); their
programs, whose moves reach registers too, stand in DmaRun.lean. The check-value units (R397-R404). -/
namespace Sys2Proof.Machine

/-! ## Who may touch what (R134, R370, R374) -/

/-- Media-store bytes [a, a + n) lie in banks that a domain holds. -/
def Dev.storeHeld (d : Dev) (dom : Nat) (a : Int) (n : Nat) : Bool :=
  decide (0 ≤ a) && decide (a + (n : Int) ≤ 2 ^ 29) &&
    ((List.range (n / 2 ^ 18 + 2)).map (fun i => min (a.toNat + i * 2 ^ 18) (a.toNat + n - 1) / 2 ^ 18)).all (fun b => d.bankHolder b == dom)

/-- Pantry bytes [p, p + n) of tile `T` lie in a domain's window. -/
def panHeld (w : View) (dom T : Nat) (p : Int) (n : Nat) : Bool :=
  decide (T < 260) && decide (0 ≤ p) &&
    (if dom = houseDom then decide (p + (n : Int) ≤ (trapFrame : Int))
     else match roomShare w T dom with
       | some s => decide ((512 * w.f (A.TPAN_WIN T s.s) F.TPAN_WIN_BASE : Nat) ≤ p) &&
           decide (p + (n : Int) ≤ (512 * (w.f (A.TPAN_WIN T s.s) F.TPAN_WIN_BASE + w.f (A.TPAN_WIN T s.s) F.TPAN_WIN_SIZE) : Nat))
       | none => false)

/-- Pantry bytes [p, p + n) of tile `T` are a domain's now: in its window, and no destructive test holds the pantry. -/
def Dev.panMine (d : Dev) (dom T : Nat) (p : Int) (n : Nat) : Bool := !(d.panTesting T) && panHeld d.live dom T p n

/-- The register at an address is an immediate one that a domain may write (R321): no setting, no per-master register. -/
def Dev.immAdmits (d : Dev) (dom a : Nat) : Bool :=
  match descAt (d.egress a) a with
  | some (r, ix) => r.rws == 0 && (r.rw != 0 || r.w1c != 0 || r.wo != 0) &&
      (match domOfId d.live (pageOf a) r.id ix with | .dom x => x == dom | .bits => (pageDoms d.live (pageOf a)).contains dom | _ => false)
  | none => false

/-! ## DMA channels -/

def Dev.dmaOf (d : Dev) (c : Nat) : Dma := Tab.get d.dma {} c
def Dev.setDma (d : Dev) (c : Nat) (x : Dma) : Dev := { d with dma := Tab.set d.dma c x }

/-- A channel's pulse j (R378). -/
def Dev.dmaPulse (d : Dev) (c j arg : Nat) : Dev := d.happen (1140 + c) (dmaPage c) j srcHouse ⟨dmaId c j, d.now, (j + arg * 256) % 2 ^ 32⟩

/-- Forgets what a WAIT watched for. -/
def Dev.dmaUnwatch (d : Dev) (c : Nat) : Dev :=
  { d with fabric := d.fabric.filter (fun e => e.dest != Dest.dma c) }.setDma c { d.dmaOf c with waitId := none, waitT := none, waitTimeout := none }

/-- The channel stops with a fault (R374, R378). -/
def Dev.dmaFault (d : Dev) (c code : Nat) : Dev :=
  let x := d.dmaOf c
  let d := (d.setDma c { x with st := .fault, fault := code, move := none }).dmaUnwatch c
  d.dmaPulse c 7 (code + (if x.regMode then 0xFFFF else x.index % 65536) * 256)

/-- The channel runs, waits or stops. -/
def Dma.busy (x : Dma) : Bool := x.st == .run || x.st == .wait || x.st == .stopping

/-- The space of a space word and its tile; none for a reserved one. -/
def spaceOf (s : Nat) : Option (Nat × Nat) := if s % 4 = 3 ∨ s / 2 ^ 11 ≠ 0 then none else some (s % 4, s / 4)

/-- Rows of one side of a move. -/
def moveRows (off : Nat) (stride : Int) (rows : Nat) : List Int := (List.range rows).map (fun (r : Nat) => (off : Int) + (r : Int) * stride)

/-- The fault of one side of a move for a domain (R374): 0 for none. -/
def Dev.sideFault (d : Dev) (dom off space : Nat) (stride : Int) (rows n : Nat) (write : Bool) : Nat :=
  match spaceOf space with
  | none => 1
  | some (sp, T) =>
    let rs := moveRows off stride rows
    match sp with
    | 0 => if rs.all (fun a => d.storeHeld dom a n) then 0 else 2
    | 1 => if rs.all (fun a => d.panMine dom T a n) then 0 else 3
    | _ =>
      if n % 4 ≠ 0 ∨ rs.any (fun a => a % 4 != 0) then 5
      else if write = false then 0
      else if rs.all (fun a => decide (0 ≤ a) && (List.range (n / 4)).all (fun i => d.immAdmits dom (a.toNat + 4 * i))) then 0 else 4

/-- Two space words name one space: of the pantries, the same tile's. -/
def sameSpace (s t : Nat) : Bool := decide (s % 4 = t % 4) && (s % 4 != 1 || s == t)

/-- Some row of the source overlaps a row of the destination (DEDUCED: the ranges are the rows', log entry 107). -/
def DmaMove.overlaps (m : DmaMove) : Bool :=
  sameSpace m.srcSpace m.dstSpace &&
    (moveRows m.srcOff m.srcStride m.rows).any (fun a => (moveRows m.dstOff m.dstStride m.rows).any (fun b =>
      decide (a < b + (m.rowBytes : Int)) && decide (b < a + (m.rowBytes : Int))))

/-- The fault a move starts with: the check of its two sides, then OVERLAP (R374, R376). -/
def Dev.moveFault (d : Dev) (dom : Nat) (m : DmaMove) : Nat :=
  let a := d.sideFault dom m.srcOff m.srcSpace m.srcStride m.rows m.rowBytes false
  let b := d.sideFault dom m.dstOff m.dstSpace m.dstStride m.rows m.rowBytes true
  if a ≠ 0 then a else if b ≠ 0 then b else if m.overlaps then 0x0B else 0

/-- A move starts, or faults. -/
def Dev.startMove (d : Dev) (c : Nat) (m : DmaMove) : Dev :=
  let f := d.moveFault (d.dmaOf c).dom m
  if f ≠ 0 then d.dmaFault c f else d.setDma c { d.dmaOf c with move := some m }

/-- RUN: the program starts at DMA_PROG (R375, R378). -/
def Dev.dmaStart (d : Dev) (c : Nat) (reg : Bool) : Dev :=
  let x := d.dmaOf c
  d.setDma c { x with st := .run, regMode := reg, index := 0, ctrs := [], crc := crcInit (d.lv (A.DMA_CFG c) F.DMA_CFG_POLY), bytes := 0,
                      move := none, dom := dmaHolder d.live c }

/-- The register-mode move (R379). -/
def Dev.regMove (d : Dev) (c : Nat) : DmaMove :=
  { rows := 1, rowBytes := d.im (A.DMA_COUNT c) F.DMA_COUNT_BYTES, srcOff := (d.immW (A.DMA_SRC0 c)).toNat, srcSpace := (d.immW (A.DMA_SRC1 c)).toNat,
    dstOff := (d.immW (A.DMA_DST0 c)).toNat, dstSpace := (d.immW (A.DMA_DST1 c)).toNat, srcStride := 0, dstStride := 0, nochk := false }

/-- A write of DMA_CMD (R378). -/
def writeDmaCmd (c : Nat) (v : Word) (d : Dev) : Dev :=
  let x := d.dmaOf c
  match v.toNat % 8 with
  | 1 => if x.busy then d.err (dmaPage c) else d.dmaStart c false
  | 2 => if x.busy then d.dmaFault c 9 else d
  | 4 =>
    if x.busy then d.err (dmaPage c)
    else
      let d := d.dmaStart c true
      let m := d.regMove c
      if m.rowBytes = 0 then d.dmaFault c 1 else d.startMove c m
  | 0 => d
  | _ => d.err (dmaPage c)

/-- DMA_STAT as read. -/
def Dev.dmaStat (d : Dev) (c : Nat) : Nat :=
  let x := d.dmaOf c
  (match x.st with | .idle => 0 | .run => 1 | .wait => 2 | .stopping => 3 | .fault => 4) + x.fault * 256 + x.index % 65536 * 65536

/-! ## Check-value units -/

def Dev.cvuOf (d : Dev) (c : Nat) : Cvu := Tab.get d.cvu {} c
def Dev.setCvu (d : Dev) (c : Nat) (x : Cvu) : Dev := { d with cvu := Tab.set d.cvu c x }

/-- A unit's pulse j (R405); `arg` holds bits [31:8]. -/
def Dev.cvuPulse (d : Dev) (c j arg : Nat) : Dev := d.happen (1130 + c) (cvuPage c) j srcHouse ⟨cvuId c j, d.now, arg * 256 % 2 ^ 32⟩

/-- Counts in a unit's words of the quadrant record (R406). -/
def Dev.cvuCount (d : Dev) (c off : Nat) : Dev := d.count (recQuad (c / 4)) [opAdd (0x740 + 48 * (c % 4) + off) 1]

/-- The scan ends with a fault. -/
def Dev.cvuFault (d : Dev) (c code : Nat) : Dev :=
  ((d.setCvu c { d.cvuOf c with st := .idle, fault := code }).cvuCount c 0x1C).cvuPulse c 4 (code % 256)

/-- A pantry or a control store of a tile that is offline or resetting (R462). -/
def Dev.tileDown (d : Dev) (T : Nat) : Bool := d.tileOffline T || (d.engOf T).resetting

/-- A scan starts with the live settings, under the checks of R399. -/
def Dev.scanGo (d : Dev) (c : Nat) : Dev :=
  let w := d.live
  let dom := cvuHolder w c
  let sp := w.f (A.CVU_CFG c) F.CVU_CFG_SPACE
  let T := w.f (A.CVU_CFG c) F.CVU_CFG_T
  let a := w.f (A.CVU_ADDR c) F.CVU_ADDR_ADDR
  let n := w.f (A.CVU_LEN c) F.CVU_LEN_LEN
  let al := if sp = 2 then 16 else 8
  let x := { d.cvuOf c with st := .scanning, poly := w.f (A.CVU_CFG c) F.CVU_CFG_POLY, space := sp, tile := T, addr := a, len := n, dom := dom, due := false }
  let d := d.setCvu c x
  if a % al ≠ 0 ∨ n % al ≠ 0 then d.cvuFault c 5
  else match sp with
    | 0 => if d.storeHeld dom a n then d else d.cvuFault c 2
    | 1 => if d.panMine dom T a n = false then d.cvuFault c 3 else if d.tileDown T then d.cvuFault c 7 else d
    | _ =>
      if 260 ≤ T ∨ wholeHolder w T ≠ dom ∨ 131072 < a + n then d.cvuFault c 4
      else if d.tileDown T then d.cvuFault c 7 else d

/-- A write of CVU_CMD (R400). -/
def writeCvuCmd (c : Nat) (v : Word) (d : Dev) : Dev :=
  let x := d.cvuOf c
  let trig := d.lv (A.CVU_CFG c) F.CVU_CFG_TRIG
  match v.toNat % 4 with
  | 1 => if x.st = .scanning then d.err (cvuPage c) else if trig = 0 ∨ trig = 2 then d.scanGo c else d
  | 2 => if x.st = .scanning then d.cvuFault c 9 else d.setCvu c { x with due := false }
  | 3 => d.err (cvuPage c)
  | _ => d

/-- SCAN_START (R400): a trigger of EVERY_N or REPEAT; one that finds a scan running is an overrun. -/
def scanStart (c : Nat) (d : Dev) : Dev :=
  let x := d.cvuOf c
  if x.due = false then d
  else if x.st = .scanning then (d.setCvu c { x with due := false }).cvuCount c 0x20
  else d.scanGo c

/-- The bytes of a tile's control store (R399). -/
def Eng.storeBytes (e : Eng) (a n : Nat) : List Byte :=
  ((List.range (n / 16)).flatMap (fun i => leBytes 16 (Tab.get e.cstore 0 (a / 16 + i)).toNat))

/-- SCAN_END (R401; a scan that a fault ended starts no REPEAT, DEDUCED, log entry 108): the bytes are taken as they stand at the end of the scan. -/
def scanEnd (c : Nat) (d : Dev) (mem : Mem) : Dev × List MemOp :=
  let x := d.cvuOf c
  if x.st ≠ .scanning then (d, [])
  else
    let bs := match x.space with
      | 0 => mem.bytes x.addr x.len
      | 1 => mem.pbytes x.tile x.addr x.len
      | _ => (d.engOf x.tile).storeBytes x.addr x.len
    let v := crcOf x.poly bs
    let w := d.live
    let rep := w.f (A.CVU_CFG c) F.CVU_CFG_TRIG = 2
    let d := (d.setCvu c { x with st := .idle, val := v, due := decide rep }).cvuCount c 0
    let d := d.count (recQuad (c / 4)) [opSet (0x740 + 48 * (c % 4) + 8) v, opSet (0x740 + 48 * (c % 4) + 12) (v / 2 ^ 32)]
    let bad := w.b (A.CVU_CFG c) F.CVU_CFG_CMP_EN ∧ v ≠ (w (A.CVU_EXP c 0)).toNat + (w (A.CVU_EXP c 1)).toNat * 2 ^ 32
    let d := if bad then ((d.cvuCount c 4).setIm (A.CVU_STAT c) F.CVU_STAT_MISMATCH 1).cvuPulse c 1 (v % 2 ^ 24) else d
    (d.cvuPulse c 0 (v % 2 ^ 24), [])

/-- One guard of a unit's pass (R402, R403). -/
def Dev.guardOne (d : Dev) (mem : Mem) (c i : Nat) : Dev :=
  let g := d.lvW (A.CVU_GUARD c i)
  if fget g F.CVU_GUARD_EN = 0 then d
  else
    let unit := cvuHolder d.live c
    let a := fget g F.CVU_GUARD_ADDR * 16
    let rec16 := mem.bytes a 16
    let holder := d.bankHolder (bankOfByte a)
    let alive := leNat (rec16.take 4)
    let domW := leNat ((rec16.drop 4).take 2)
    let dom := domW % 512
    let fmtBad := leNat ((rec16.drop 6).take 2) ≠ 0x4752 ∨ leNat (rec16.drop 12) ≠ 0 ∨ domW / 512 ≠ 0 ∨ 0x100 < dom
    let x := d.cvuOf c
    let bad (d : Dev) (cause : Nat) : Dev :=
      ((d.setCvu c { x with guards := Tab.set x.guards i (3, cause) }).cvuCount c 0x18).cvuPulse c 3 (i + cause * 16)
    if holder ≠ unit ∧ unit ≠ houseDom then bad d 1
    else if fmtBad then bad d 2
    else if leNat ((rec16.drop 8).take 4) ≠ crcOf 1 (rec16.take 8) then bad d 3
    else if holder ≠ dom ∨ (unit ≠ dom ∧ unit ≠ houseDom) then bad d 4
    else if x.seen.contains i ∧ laterMod 32 (Tab.get x.galive 0 i) alive = false then
      ((d.setCvu c { x with guards := Tab.set x.guards i (2, 0) }).cvuCount c 0x14).cvuPulse c 2 (i + dom * 16)
    else
      let d := (d.setCvu c { x with guards := Tab.set x.guards i (1, 0), galive := Tab.set x.galive i alive, seen := i :: x.seen.filter (· != i) }).cvuCount c 0x10
      if fget g F.CVU_GUARD_FEED = 1 then d.setImmW (A.HOWN_ALIVE dom) (BitVec.ofNat 32 alive) else d

/-- The guard pass of a unit at a drain close (R403), and its EVERY_N trigger (R400): the boundary at which the settings
applied is the count's zero (DEDUCED, log entry 108). -/
def Dev.guardPass (d : Dev) (mem : Mem) (c : Nat) : Dev :=
  let d := (List.range 16).foldl (fun d i => d.guardOne mem c i) d
  let w := d.live
  if w.f (A.CVU_CFG c) F.CVU_CFG_TRIG = 1 then
    let x := d.cvuOf c
    if max 1 (w.f (A.CVU_CFG c) F.CVU_CFG_N) ≤ x.sinceN then d.setCvu c { x with sinceN := 1, due := true }
    else d.setCvu c { x with sinceN := x.sinceN + 1 }
  else d

/-- What a boundary does to a unit whose settings changed: its count of boundaries starts anew, a guard newly enabled has no
earlier ALIVE (R400, R403); a change of holder ends a scan with REASSIGNED (R397). -/
def Dev.cvuApply (d : Dev) (c : Nat) (ow : View) : Dev :=
  let w := d.live
  let x := d.cvuOf c
  let ch (a : Nat) : Bool := ow a != w a
  let off := (List.range 16).filter (fun i => !(ow.b (A.CVU_GUARD c i) F.CVU_GUARD_EN) || !(w.b (A.CVU_GUARD c i) F.CVU_GUARD_EN))
  let set := ch (A.CVU_CFG c) || ch (A.CVU_ADDR c) || ch (A.CVU_LEN c)
  let x := { x with seen := x.seen.filter (fun i => !(off.contains i)), sinceN := if set then 0 else x.sinceN, due := x.due && !set }
  let d := d.setCvu c x
  if cvuHolder ow c ≠ cvuHolder w c ∧ x.st = .scanning then d.cvuFault c 0xC else d

/-- CVU_STAT as read. -/
def Dev.cvuStat (d : Dev) (c : Nat) : Nat :=
  let x := d.cvuOf c
  (match x.st with | .idle => 0 | .guarding => 1 | .scanning => 2) + (d.immW (A.CVU_STAT c) &&& 4#32).toNat + x.fault * 256

/-! ## The commands -/

/-- DMA_RUN -/
def execDmaRun (m c : Nat) (s : State) : Res := onDev (fun d => d.hostWrite m (A.DMA_CMD c) (writeDmaCmd c 1#32)) s
/-- DMA_STOP -/
def execDmaStop (m c : Nat) (s : State) : Res := onDev (fun d => d.hostWrite m (A.DMA_CMD c) (writeDmaCmd c 2#32)) s
/-- DMA_REGGO -/
def execDmaReggo (m c : Nat) (s : State) : Res := onDev (fun d => d.hostWrite m (A.DMA_CMD c) (writeDmaCmd c 4#32)) s
/-- CVU_GO -/
def execCvuGo (m c : Nat) (s : State) : Res := onDev (fun d => d.hostWrite m (A.CVU_CMD c) (writeCvuCmd c 1#32)) s
/-- CVU_STOP -/
def execCvuStop (m c : Nat) (s : State) : Res := onDev (fun d => d.hostWrite m (A.CVU_CMD c) (writeCvuCmd c 2#32)) s
/-- SCAN_START -/
def execScanStart (c : Nat) (s : State) : Res := onDev (scanStart c) s
/-- SCAN_END -/
def execScanEnd (c : Nat) (s : State) : Res := onMem (scanEnd c) s

end Sys2Proof.Machine
end

