-- ==== Sys2Proof/Machine/Operands.lean ====
section
/-! DEFINITION. The microword's fields and operands (R314-R316, R319, R320): operand forms, pantry addresses, the condition
field. -/
namespace Sys2Proof.Machine

/-- A field of a microword: `n` bits from bit `lo`. -/
def mf (w : Micro) (lo n : Nat) : Nat := w.toNat / 2 ^ lo % 2 ^ n

def mNxt (w : Micro) : Nat := mf w 0 13
def mAlt (w : Micro) : Nat := mf w 13 13
def mCond (w : Micro) : Nat := mf w 26 6
def mDur (w : Micro) : Nat := mf w 32 3
def mOp (w : Micro) : Nat := mf w 35 6
def mDst (w : Micro) : Nat := mf w 41 5
def mSra (w : Micro) : Nat := mf w 46 5
def mSrb (w : Micro) : Nat := mf w 51 5
def mImb (w : Micro) : Bool := mf w 56 1 == 1
def mFn (w : Micro) : Nat := mf w 57 4
def mSetf (w : Micro) : Bool := mf w 61 1 == 1
def mBrk (w : Micro) : Bool := mf w 62 1 == 1
def mImm (w : Micro) : Nat := mf w 64 32
def mOfs (w : Micro) : Nat := mf w 96 16

/-- A register: X0 reads 0. -/
def Eng.rd (e : Eng) (r : Nat) : Word64 := if r = 0 then 0 else Tab.get e.x 0 r

/-- Writes a register: a write to X0 is discarded. -/
def Eng.wr (e : Eng) (r : Nat) (v : Word64) : Eng := if r = 0 then e else { e with x := Tab.set e.x r v }

/-- Operand a. -/
def Eng.opA (e : Eng) (w : Micro) : Word64 := e.rd (mSra w)

/-- Operand b: the immediate sign-extended, or a register. -/
def Eng.opB (e : Eng) (w : Micro) : Word64 := if mImb w then (BitVec.ofNat 32 (mImm w)).signExtend 64 else e.rd (mSrb w)

/-- The width in bytes FN[1:0] selects. -/
def mWidth (w : Micro) : Nat := 2 ^ (mFn w % 4)

/-- The address of a pantry operand: a + OFS, or CB + OFS. -/
def Eng.panAddrA (e : Eng) (w : Micro) : Nat := ((e.opA w).toNat + mOfs w) % 2 ^ 64
def Eng.panAddrC (e : Eng) (w : Micro) : Nat := e.cb + mOfs w

/-- A loaded value extended to 64 bits: by its sign when FN[2] = 1. -/
def mExtend (w : Micro) (v : Nat) : Word64 :=
  let n := 8 * mWidth w
  if mFn w / 4 % 2 = 1 then BitVec.ofInt 64 (sgn n v) else BitVec.ofNat 64 v

/-- The operations of R319 with their least completion class; no other code is one. -/
def minClass : Nat → Option Nat
  | 0x00 => some 0 | 0x01 => some 0 | 0x02 => some 1 | 0x03 => some 1 | 0x04 => some 0 | 0x05 => some 0 | 0x06 => some 0
  | 0x07 => some 2 | 0x08 => some 2 | 0x09 => some 2 | 0x0A => some 5 | 0x0B => some 5 | 0x0C => some 1 | 0x0D => some 1
  | 0x0E => some 2 | 0x0F => some 1 | 0x10 => some 1 | 0x11 => some 3 | 0x18 => some 0 | 0x19 => some 0 | 0x1A => some 0
  | 0x1B => some 0 | 0x1C => some 1 | 0x1D => some 0 | 0x1E => some 0 | 0x1F => some 0 | 0x20 => some 1 | 0x21 => some 1
  | 0x24 => some 6 | 0x25 => some 6 | 0x26 => some 6 | 0x27 => some 6 | 0x28 => some 7 | 0x2C => some 3 | 0x2D => some 3
  | 0x2E => some 7 | 0x2F => some 7 | 0x30 => some 7 | 0x31 => some 7 | 0x32 => some 7 | 0x33 => some 7 | 0x34 => some 7
  | _ => none

/-- The completion class of a word (R317). -/
def mClass (w : Micro) : Nat := max (mDur w) ((minClass (mOp w)).getD 0)

/-- A word that traps with ILLEGAL whatever the registers hold (R315, R319, R323). -/
def illegalWord (pinTile inTrap : Bool) (w : Micro) : Bool :=
  let op := mOp w
  let own := op == 0x18 || op == 0x19 || op == 0x1A || op == 0x1B || op == 0x1E || op == 0x1F
  let ix := mImm w % 256
  mf w 63 1 != 0 || mf w 112 16 != 0 || (minClass op).isNone || (decide (0x1B ≤ mCond w) && decide (mCond w < 0x20)) ||
    (mImb w && (op == 0x33 || op == 0x2C || op == 0x2D)) || (decide (2 ^ 11 ≤ mOfs w) && (op == 0x2C || op == 0x2D)) ||
    (op == 0x31 && !pinTile) || (own && mCond w != 0) || (op == 0x20 && decide (0x0B < ix)) ||
    (op == 0x21 && ix != 5 && ix != 9) || (op == 0x1F && !inTrap)

/-- The condition of a word, on the flags as it left them and on its result (R316). `low` and `pend` are SLICE_LOW and
EVPEND. -/
def Eng.cond (e : Eng) (w : Micro) (r : Option Word64) (pend : Bool) : Bool :=
  let c := mCond w
  match c with
  | 0x00 => false
  | 0x01 => true
  | 0x02 => e.fz
  | 0x03 => !e.fz
  | 0x04 => e.fn != e.fv
  | 0x05 => e.fn == e.fv
  | 0x06 => e.fz || e.fn != e.fv
  | 0x07 => !e.fz && e.fn == e.fv
  | 0x08 => !e.fc
  | 0x09 => e.fc
  | 0x0A => !e.fc || e.fz
  | 0x0B => e.fc && !e.fz
  | 0x0C => e.fn
  | 0x0D => !e.fn
  | 0x0E => e.fv
  | 0x0F => !e.fv
  | 0x18 => pend
  | 0x19 => decide (e.sliceLeft < 64)
  | 0x1A => e.st == .trap
  | _ =>
    if c < 0x18 then (Tab.get? e.tags (c - 0x10)).isNone
    else if 0x20 ≤ c then (match r with | some v => v.toNat.testBit (c - 0x20) | none => false)
    else false

/-- The dispatch may not reach a byte of the pantry (R320): the trap frame outside TRAP; for a room a byte outside its window,
and of the publication area any byte but those of its channels' words, or, to read, those in its window. -/
def Dev.byteDenied (d : Dev) (T : Nat) (e : Eng) (write : Bool) (b : Nat) : Bool :=
  if d.panTesting T then true
  else if trapFrame ≤ b then !(e.st == .trap)
  else if e.dom = houseDom then false
  else
    let win := panHeld d.live e.dom T (b : Int) 1
    let k := (b - e.img.pub) / 4
    if b < e.img.pub ∨ e.img.pub + 768 ≤ b then !win
    else !((decide (k < chansOf T) && chanHolder d.live T k == e.dom) || (!write && win))

/-- A pantry access of `n` bytes at `p` falls outside what the dispatch may reach (R320). `ctx` is LDC or STC. -/
def Dev.panDenied (d : Dev) (T : Nat) (e : Eng) (p n : Nat) (write ctx : Bool) : Bool :=
  if 2 ^ 18 < p + n then true
  else if ctx ∧ e.cbOwn then !(decide (e.cb ≤ p) && decide (p + n ≤ e.cb + 2 ^ e.img.ctxLog))
  else (List.range n).any (fun i => d.byteDenied T e write (p + i))

end Sys2Proof.Machine
end

