-- ==== Sys2Proof/Machine/Flags.lean ====
section
/-! DEFINITION. Every flag computation of the operation table (R319). -/
namespace Sys2Proof.Machine

/-- Z and N of a result. -/
def Eng.flagsZN (e : Eng) (r : Word64) : Eng := { e with fz := r == 0, fn := r.msb }

/-- Z and N when SETF = 1. -/
def Eng.setZN (e : Eng) (w : Micro) (r : Word64) : Eng := if mSetf w then e.flagsZN r else e

/-- The flags of a sum: C the carry, V the signed overflow. -/
def Eng.flagsAdd (e : Eng) (a b : Word64) : Eng :=
  let r := a + b
  { e with fz := r == 0, fn := r.msb, fc := decide (2 ^ 64 ≤ a.toNat + b.toNat), fv := a.msb == b.msb && r.msb != a.msb }

/-- The flags of a difference: C = 1 means no borrow. -/
def Eng.flagsSub (e : Eng) (a b : Word64) : Eng :=
  let r := a - b
  { e with fz := r == 0, fn := r.msb, fc := decide (b.toNat ≤ a.toNat), fv := a.msb != b.msb && r.msb != a.msb }

/-- The flags of TCMP: Z when equal, N when a is earlier under R15. -/
def Eng.flagsTime (e : Eng) (a b : Word64) : Eng :=
  { e with fz := a == b, fn := laterMod 64 a.toNat b.toNat, fc := false, fv := false }

/-- An operation that updates Z alone. -/
def Eng.flagZ (e : Eng) (z : Bool) : Eng := { e with fz := z }

/-- The flags as FLAGS numbers them. -/
def Eng.flagBits (e : Eng) : Nat := b2n e.fz + 2 * b2n e.fn + 4 * b2n e.fc + 8 * b2n e.fv

/-- Sets the flags from their four bits. -/
def Eng.setFlagBits (e : Eng) (v : Nat) : Eng := { e with fz := bitOf v 0, fn := bitOf v 1, fc := bitOf v 2, fv := bitOf v 3 }

end Sys2Proof.Machine
end

