-- ==== Sys2Proof/Machine/Interrupts.lean ====
section
/-! DEFINITION. The interrupt controllers: tile, quadrant and house (chapter Event Fabric, Interrupts and Check-Value
Units, R385-R396). -/
namespace Sys2Proof.Machine

/-- The first entry a controller can take: one it may take now, with no earlier entry of the same source bound for the
same controller (R43). Answers the entries before it, it, and those after. -/
def takeFirst (mine can : FabEntry → Bool) : List FabEntry → List Nat → Option (List FabEntry × FabEntry × List FabEntry)
  | [], _ => none
  | e :: t, seen =>
    if mine e && can e && !(seen.contains e.src) then some ([], e, t)
    else (takeFirst mine can t (if mine e then e.src :: seen else seen)).map (fun x => (e :: x.1, x.2.1, x.2.2))

/-! ## MSI-X -/

/-- Function `f` is enabled: BME and MSIX_EN are 1 (R391); a function in D3hot issues nothing (PRESUMED, log entry 99). -/
def Dev.fnEnabled (d : Dev) (f : Nat) : Bool :=
  d.imb (A.HPCI_FUNC f) F.HPCI_FUNC_BME && d.imb (A.HPCI_FUNC f) F.HPCI_FUNC_MSIX_EN && !(Tab.get d.pcie {} f).d3hot

/-- The enabled functions of a mask. -/
def Dev.enabledOf (d : Dev) (mask : Nat) : List Nat := (List.range 6).filter (fun f => bitOf mask f && d.fnEnabled f)

/-- A dword of function `f`'s MSI-X table (R130): four to a vector: address, upper address, data, control, whose Mask
bit is 1 at reset (PRESUMED, log entry 99). -/
def Dev.msixWord (d : Dev) (f dw : Nat) : Word := Tab.get d.msixTab (if dw % 4 = 3 then 1 else 0) (8192 * f + dw)

/-- A dword of function `f`'s BAR4 as it reads: the table from 0x0000, the pending bits from 0x8000 (R130, R131). -/
def Dev.bar4 (d : Dev) (f dw : Nat) : Word :=
  if dw < 8192 then d.msixWord f dw
  else if dw < 8192 + 64 then
    BitVec.ofNat 32 ((List.range 32).foldl (fun n k => if Tab.get d.msixPend 0 (f * 2048 + 32 * (dw - 8192) + k) = 1 then setBit n k else n) 0)
  else 0

/-- The message of a vector: its address and its data. -/
def Dev.message (d : Dev) (f vec : Nat) : Output :=
  .msix f vec ((d.msixWord f (4 * vec)).toNat + (d.msixWord f (4 * vec + 1)).toNat * 2 ^ 32) (d.msixWord f (4 * vec + 2))

/-- Sends an MSI-X message; a masked vector keeps it pending (R393). -/
def Dev.msix (d : Dev) (f vec : Nat) : Dev :=
  if (d.msixWord f (4 * vec + 3)).toNat % 2 = 0 then d.emit (d.message f vec)
  else { d with msixPend := Tab.set d.msixPend (f * 2048 + vec) 1 }

/-- The word of a domain at a controller: quadrants 0-3, the house 4 (R390). -/
def irqWord (d : Dev) (ctl dom : Nat) : Word := if ctl < 4 then d.lvW (A.QIRQ_DOM ctl dom) else d.lvW (A.HIRQ_DOM dom)

/-- Counts a message, a coalesced pulse or a missing target of a controller (R406). -/
def Dev.irqCount (d : Dev) (ctl off : Nat) : Dev :=
  if ctl < 4 then d.count (recQuad ctl) [opAdd off 1]
  else if off = 0x10 then d.incIm A.HIRQ_MSGS F.HIRQ_MSGS_COUNT 1
  else if off = 0x18 then d.incIm A.HIRQ_NOTGT F.HIRQ_NOTGT_COUNT 1
  else d

/-- The key of a (controller, domain, class). -/
def irqKey (ctl dom cls : Nat) : Nat := (ctl * 257 + dom) * 8 + cls

def Dev.irqOf (d : Dev) (ctl dom cls : Nat) : IrqWin := Tab.get d.irq {} (irqKey ctl dom cls)
def Dev.setIrq (d : Dev) (ctl dom cls : Nat) (w : IrqWin) : Dev := { d with irq := Tab.set d.irq (irqKey ctl dom cls) w }

/-- The function of the next message: the next enabled one of FMASK after the last used for the domain (R391). -/
def Dev.nextFn (d : Dev) (ctl dom : Nat) : Option Nat :=
  let en := d.enabledOf (fget (irqWord d ctl dom) F.QIRQ_DOM_FMASK)
  let last := Tab.get d.irqLast 0 (ctl * 257 + dom)
  match en.find? (fun f => decide (last ≤ f)) with
  | some f => some f
  | none => en.head?

/-- Sends the message of a class and starts its window; with MASK_W = 0 HOLD is left at once (R391). -/
def Dev.irqSend (d : Dev) (ctl dom cls f : Nat) : Dev :=
  let w := irqWord d ctl dom
  let d := (d.msix f (fget w F.QIRQ_DOM_VBASE + cls)).irqCount ctl 0x10
  let mw := fget w F.QIRQ_DOM_MASK_W
  let d := { d with irqLast := Tab.set d.irqLast (ctl * 257 + dom) (f + 1) }
  d.setIrq ctl dom cls { d.irqOf ctl dom cls with st := if mw = 0 then .idle else .hold, winEnd := d.now + mw * usTU }

/-- A NO_TARGET count (R391, R396). -/
def Dev.irqNoTarget (d : Dev) (ctl dom cls : Nat) (pulse : Bool) : Dev :=
  let w := d.irqOf ctl dom cls
  let first := w.ntEpoch != d.sq.num + 1
  let d := (d.irqCount ctl 0x18).setIrq ctl dom cls { w with st := .waiting, ntEpoch := d.sq.num + 1 }
  if first && pulse then d.rawPulse ((if ctl < 4 then ctl else 0) * 0x4000 + 0x2200) (dom + cls * 512) else d

/-- A pulse reaches a (controller, domain, class) (R391). -/
def Dev.irqPulse (d : Dev) (ctl dom cls : Nat) : Dev :=
  match (d.irqOf ctl dom cls).st with
  | .idle => match d.nextFn ctl dom with
    | some f => d.irqSend ctl dom cls f
    | none => d.irqNoTarget ctl dom cls true
  | .waiting => d.irqCount ctl 0x14
  | .hold => (d.irqCount ctl 0x14).setIrq ctl dom cls { d.irqOf ctl dom cls with st := .holdPend }
  | .holdPend => d.irqCount ctl 0x14

/-- Every WAITING class whose domain has an enabled function sends its message (R391). -/
def Dev.irqRecheck (d : Dev) : Dev :=
  d.irq.foldl (fun d e =>
    if (Tab.get d.irq {} e.1).st = .waiting then
      let ctl := e.1 / 8 / 257
      let dom := e.1 / 8 % 257
      match d.nextFn ctl dom with
      | some f => d.irqSend ctl dom (e.1 % 8) f
      | none => d
    else d) d

/-! ## Wake matches -/

/-- A pulse matches an enabled entry of HIRQ_WAKE (R395). -/
def Dev.wakeMatch (d : Dev) (id : Nat) : Bool :=
  (List.range 8).any (fun i =>
    let w := d.lvW (A.HIRQ_WAKE i)
    let wid := fget w F.HIRQ_WAKE_ID
    let ign := fget w F.HIRQ_WAKE_IGN
    fget w F.HIRQ_WAKE_EN = 1 && id / 256 = wid / 256 && (id % 256) ||| ign = (wid % 256) ||| ign)

/-- A controller accepts a pulse: in SLEEP it is compared with the wake list, and a match wakes the device (R395, R445). -/
def Dev.accepted (d : Dev) (p : Pulse) : Dev :=
  if d.pwr.st = .sleep && d.wakeMatch p.id then d.wakeSleep 1 else d

/-! ## Tile controller -/

/-- The target of a pulse of tile `T`'s own sources (R387). -/
def tgtOf (w : View) (T : Nat) (p : Pulse) : Nat :=
  let l := idLocal p.id
  if l < 0x2000 then w.f (A.TIRQ_CH T (l % 128)) F.TIRQ_CH_TGT
  else if l < 0x2040 then w.f (A.TIRQ_CH T (l - 0x2000)) F.TIRQ_CH_TGT
  else if l < 0x2080 then w.f (A.TIRQ_PR T (l - 0x2040)) F.TIRQ_PR_TGT
  else
    let kind := p.arg % 256
    if kind < 0x40 then w.f (A.TIRQ_ENG T) F.TIRQ_ENG_EMIT
    else if kind < 0x60 then w.f (A.TIRQ_ENG T) F.TIRQ_ENG_TMR
    else w.f (A.TIRQ_ENG T) F.TIRQ_ENG_SYS

/-- The dispatch index of a pulse of tile `T`'s own sources (R325). -/
def dispIdx (p : Pulse) : Nat :=
  let l := idLocal p.id
  if l < 0x2040 then p.arg % 128
  else if l < 0x2080 then (if l = 0x207F then 0xFF else 0xC0 + (l - 0x2040))
  else
    let kind := p.arg % 256
    if kind < 0x40 then 0xB0 + kind % 16 else if kind < 0x60 then 0x80 + (kind - 0x40) else 0xA0 + (kind - 0x60) % 16

/-- The channel of a pulse within its tile, 0xFF when it is no channel's. -/
def chanIdx (p : Pulse) : Nat :=
  let l := idLocal p.id
  if l < 0x2000 then l % 128 else if l < 0x2040 then l - 0x2000 else 0xFF

/-- The inbox of `T` has a place for a pulse of a domain: 128 in all, a share of them for each domain (R324, R348). -/
def Dev.inboxRoom (d : Dev) (T dom : Nat) : Bool :=
  let ib := (d.engOf T).inbox
  decide (ib.length < 128) &&
    decide ((ib.filter (fun e => e.dom == dom)).length < 128 / ((sharesOf d.live T).length + 1))

/-- Places a pulse in the inbox. -/
def Dev.inboxPut (d : Dev) (T : Nat) (p : Pulse) (idx chan : Nat) : Dev :=
  let e := d.engOf T
  let d : Dev := { d with eng := Tab.set d.eng T { e with inbox := e.inbox ++ [⟨p, inboxDom d p, idx, chan, false⟩] } }
  d.count (recTile T) [opMax 0x2C (e.inbox.length + 1)]

/-- An inactive engine's copy is discarded and counted; the first of an epoch emits 0x2201 (R389). -/
def Dev.tirqDrop (d : Dev) (T : Nat) : Dev :=
  let q := if T < 256 then T / 64 else T - 256
  let d := d.incIm (A.TIRQ_DROP T) F.TIRQ_DROP_COUNT 1
  let d := d.count (recQuad q) [opAdd 0x1C 1]
  let e := d.engOf T
  if e.dropEpoch = d.sq.num + 1 then d
  else { d with eng := Tab.set d.eng T { e with dropEpoch := d.sq.num + 1 } }.rawPulse (q * 0x4000 + 0x2201) T

/-- The engine copy of a pulse can be settled now: the engine is inactive, or its inbox has a place; a gated engine
holds it (R389). -/
def Dev.engTakes (d : Dev) (T : Nat) (p : Pulse) : Bool :=
  d.engInactive T || (!(d.engGated T) && d.inboxRoom T (inboxDom d p))

/-- Settles the engine copy of a pulse. -/
def Dev.engCopy (d : Dev) (T : Nat) (p : Pulse) (idx chan : Nat) : Dev :=
  if d.engInactive T then d.tirqDrop T else d.inboxPut T p idx chan

/-- An entry bound for tile controller `T`. -/
def Dest.forTile (T : Nat) (e : FabEntry) : Bool :=
  match e.dest with
  | .ctl => idTile e.p.id == some T
  | .eng T' | .sub T' => T' == T
  | _ => false

/-- Counts in INBOX_FULL, once each, the pulses a full share holds back (R348). -/
def Dev.countHeld (d : Dev) (T : Nat) : Dev :=
  let full (e : FabEntry) : Bool :=
    Dest.forTile T e && !e.held && !(d.engInactive T) && !(d.engGated T) && !(d.inboxRoom T (inboxDom d e.p)) &&
      (match e.dest with | .ctl => tgtOf (d.viewAt e.p.stamp) T e.p % 2 == 1 | _ => true)
  let hit := d.fabric.filter full
  let d1 := { d with fabric := d.fabric.map (fun e => if full e then { e with held := true } else e) }
  hit.foldl (fun d1 e =>
    let dom := inboxDom d1 e.p
    if dom < 256 then d1.item (srcRoom dom e.p.id) e.p.stamp [opAdd 0x74 1] else d1) d1

/-- TILE_PULSE_ACCEPT (R387-R389): the controller accepts the first pulse it can, places the engine copy in the inbox
and forwards the host copy. -/
def tilePulseAccept (T : Nat) (d : Dev) : Dev :=
  let tgt (e : FabEntry) : Nat := tgtOf (d.viewAt e.p.stamp) T e.p
  let can (e : FabEntry) : Bool := match e.dest with
    | .ctl => tgt e != 1 || d.engTakes T e.p
    | _ => d.engTakes T e.p
  match takeFirst (Dest.forTile T) can d.fabric [] with
  | none => d.countHeld T
  | some (pre, e, post) =>
    match e.dest with
    | .ctl =>
      let t := tgt e
      let wait := t = 3 && !(d.engTakes T e.p)
      let d1 := { d with fabric := pre ++ (if wait then [{ e with dest := .eng T }] else []) ++ post ++
        (if t = 2 ∨ t = 3 then [{ e with dest := .host, src := 1300 + T }] else []) }.accepted e.p
      if (t = 1 ∨ t = 3) ∧ wait = false then d1.engCopy T e.p (dispIdx e.p) (chanIdx e.p) else d1
    | .sub _ => ({ d with fabric := pre ++ post }.accepted e.p).engCopy T e.p 0xFF 0xFF
    | _ => { d with fabric := pre ++ post }.engCopy T e.p (dispIdx e.p) (chanIdx e.p)

/-! ## Quadrant and house controllers -/

/-- The class of a pulse at a quadrant controller (R390). -/
def quadClass (id : Nat) : Nat :=
  let l := idLocal id
  if l < 0x2000 then 0 else if l < 0x2040 then 1 else if l < 0x2080 then 2 else if l < 0x2100 then 3
  else if l < 0x2180 then 4 else if l < 0x21C0 then 5 else if l < 0x21E0 then 6 else 7

/-- QUADRANT_PULSE_ACCEPT (R391): the controller accepts the first pulse bound for it. -/
def quadrantPulseAccept (q : Nat) (d : Dev) : Dev :=
  let mine (e : FabEntry) : Bool := idQuad e.p.id == q && (match e.dest with
    | .host => true
    | .ctl => decide (0x2100 ≤ idLocal e.p.id) && decide (idLocal e.p.id < 0x2300)
    | _ => false)
  match takeFirst mine (fun _ => true) d.fabric [] with
  | none => d
  | some (pre, e, post) =>
    let dom := pulseDom d e.p e.dom
    ({ d with fabric := pre ++ post }.accepted e.p).irqPulse q (if dom ≤ 0x100 then dom else houseDom) (quadClass e.p.id)

/-- The privileged pulses (R394). -/
def privileged (id : Nat) : Bool :=
  id = 0x3000 || id = 0x3104 || id = 0x3111 || id = 0x3113 || id / 256 = 0x33 || id = 0x3400 || id / 256 = 0x35

/-- An entry bound for the house controller. -/
def forHouse (e : FabEntry) : Bool := e.dest == .ctl && decide (0x3000 ≤ idLocal e.p.id)

/-- HOUSE_PULSE_ACCEPT (R390, R391): the house controller accepts the first pulse it delivers by its domain's word. -/
def housePulseAccept (d : Dev) : Dev :=
  match takeFirst forHouse (fun e => !(privileged e.p.id)) d.fabric [] with
  | none => d
  | some (pre, e, post) =>
    ({ d with fabric := pre ++ post }.accepted e.p).irqPulse 4 (pulseDom d e.p e.dom) (idLocal e.p.id / 256 % 8)

/-- PRIVILEGED_PULSE (R394): it goes at once to every enabled function of PMASK. -/
def privilegedPulse (d : Dev) : Dev :=
  match takeFirst forHouse (fun e => privileged e.p.id) d.fabric [] with
  | none => d
  | some (pre, e, post) =>
    let d := { d with fabric := pre ++ post }.accepted e.p
    let w := d.lvW A.HIRQ_PRIV
    match d.enabledOf (fget w F.HIRQ_PRIV_PMASK) with
    | [] => d.irqCount 4 0x18
    | fs => fs.foldl (fun d f => (d.msix f (fget w F.HIRQ_PRIV_PVEC)).irqCount 4 0x10) d

/-- MASK_WINDOW_END (R391): a window that runs ends. -/
def maskWindowEnd (ctl dom cls : Nat) (d : Dev) : Dev :=
  let w := d.irqOf ctl dom cls
  match w.st with
  | .hold => (d.advanceTo w.winEnd).setIrq ctl dom cls { w with st := .idle }
  | .holdPend =>
    let d := d.advanceTo w.winEnd
    match d.nextFn ctl dom with
    | some f => d.irqSend ctl dom cls f
    | none => d.irqNoTarget ctl dom cls false
  | _ => d

/-- FUNCTION_ENABLE: a function's Bus Master Enable, its MSI-X Enable and its power state change by configuration
writes (R130, R131, R391); a function leaves D3hot by D3HOT_TO_D0 alone. -/
def functionEnable (f : Nat) (bme msix d3hot : Bool) (d : Dev) : Dev :=
  let x := Tab.get d.pcie {} f
  let d := { d with pcie := Tab.set d.pcie f { x with d3hot := x.d3hot || d3hot } }
  ((d.setIm (A.HPCI_FUNC f) F.HPCI_FUNC_BME (b2n bme)).setIm (A.HPCI_FUNC f) F.HPCI_FUNC_MSIX_EN (b2n msix)).irqRecheck

/-- VECTOR_UNMASK (R131, R393): a write of a dword of function `f`'s BAR4, accepted whoever owns what. A vector that
stands unmasked with its message pending sends it. The pending bits and the reserved dwords ignore writes, and a control
word holds its Mask bit only. -/
def vectorUnmask (f dw : Nat) (v : Word) (d : Dev) : Dev :=
  if 8192 ≤ dw then d
  else
    let vec := dw / 4
    let d := { d with msixTab := Tab.set d.msixTab (8192 * f + dw) (if dw % 4 = 3 then v &&& 1 else v) }
    if (d.msixWord f (4 * vec + 3)).toNat % 2 = 0 ∧ Tab.get d.msixPend 0 (f * 2048 + vec) = 1 then
      { d with msixPend := Tab.del d.msixPend (f * 2048 + vec) }.emit (d.message f vec)
    else d

/-! ## The commands -/

/-- TILE_PULSE_ACCEPT -/
def execTilePulseAccept (T : Nat) (s : State) : Res := onDev (tilePulseAccept T) s
/-- QUADRANT_PULSE_ACCEPT -/
def execQuadrantPulseAccept (q : Nat) (s : State) : Res := onDev (quadrantPulseAccept q) s
/-- HOUSE_PULSE_ACCEPT -/
def execHousePulseAccept (s : State) : Res := onDev housePulseAccept s
/-- PRIVILEGED_PULSE -/
def execPrivilegedPulse (s : State) : Res := onDev privilegedPulse s
/-- MASK_WINDOW_END -/
def execMaskWindowEnd (ctl dom cls : Nat) (s : State) : Res := onDev (maskWindowEnd ctl dom cls) s
/-- FUNCTION_ENABLE -/
def execFunctionEnable (f : Nat) (c : FnControl) (msix : Bool) (s : State) : Res := onDev (functionEnable f c.bme msix c.d3hot) s
/-- VECTOR_UNMASK -/
def execVectorUnmask (f : Nat) (x : TableWrite) (s : State) : Res := onDev (vectorUnmask f x.dw x.v) s

end Sys2Proof.Machine
end

