-- ==== Sys2Proof/Machine/Engine.lean ====
section
/-! DEFINITION. The Mentalas engine but for its operations: pulses and record (R339, R340), charging (R327, R345), dispatch
(R324-R326, R343, R346), completing a word, traps and their frame (R331), the ends of a dispatch (R328, R347), halting
(R332), reset (R461). -/
namespace Sys2Proof.Machine

/-- Private accumulators of a tile: the first of an epoch, the time out of IDLE. -/
def privEng (T : Nat) : Nat := 0x320000 + 16 * T

/-- True the first time in the epoch in progress for accumulator `k`. -/
def Dev.engFirst (d : Dev) (T k : Nat) : Bool × Dev :=
  if d.acc d.sq.num (privEng T + k) = 0 then (true, d.accRun d.sq.num (privEng T) [opSet k 1]) else (false, d)

/-- The first such pulse of an epoch. -/
def Dev.engPulse1 (d : Dev) (T n arg stamp : Nat) : Dev :=
  let f := d.engFirst T n
  if f.1 then f.2.engPulse T n arg stamp else f.2

/-- Counts in the tile's record. -/
def Dev.tileCount (d : Dev) (T : Nat) (ops : List RecOp) : Dev := d.count (recTile T) ops

/-- The inner accumulator of a room's words and held entries on a tile, which SHARE(i) shows (R359). -/
def privShare (r T : Nat) : Nat := 0x600000 + (260 * r + T) * 4

/-- The key of a room's budget on a tile. -/
def budKey (T dom : Nat) : Nat := 512 * T + dom

/-- BUDGET_LEFT of a domain on a tile (R345). -/
def Dev.budgetLeft (d : Dev) (T dom : Nat) : Int := Tab.get d.budget 0 (budKey T dom)

/-- The class 7 maximum in units of 0.01 ns (R327): 3.20 ns, or 5.40 ns in HEAT. -/
def Dev.t7 (d : Dev) : Nat := if d.lv A.HCFG_MODE F.HCFG_MODE_MODE = 3 then 540 else 320

/-- A room's usage by a dispatch, in the epoch of its entry's stamp; after that epoch's drain close it is spill of kind 5, which
the record of its source, the engine's tile, shows (R94, R327). -/
def Dev.usage (d : Dev) (T dom stamp : Nat) (room share : List RecOp) : Dev :=
  let e := d.epochAt stamp
  if houseDom ≤ dom then d
  else if e < d.sq.closedBelow then d.spillItem ⟨e, 5, engId T, dom, 1, stamp, stamp, recTile T⟩
  else (d.accRun e (recRoom dom) room).accRun e (privShare dom T) share

/-- Charges `n` words to the dispatch, `waits` of them to a wait; `cls` is the class of a word that completes. -/
def Dev.charge (d : Dev) (T n waits : Nat) (cls : Option Nat) : Dev :=
  let e := d.engOf T
  let tile := (match cls with | some c => [opAdd 0x10 1, opAdd (0x40 + 4 * c) 1] | none => []) ++ (if waits = 0 then [] else [opAdd 0x18 waits])
  let d := d.tileCount T tile
  if e.inInit then d
  else
    let d := d.usage T e.dom e.ev.stamp [opAdd 0x68 n] [opAdd 1 n]
    let d := d.setEng T { e with charged := e.charged + n }
    if e.dom < 256 then { d with budget := Tab.upd d.budget 0 (budKey T e.dom) (· - (n : Int)) } else d

/-! ## Leaving and reaching IDLE -/

/-- The engine's time out of IDLE up to now, in the epoch in progress, goes to that epoch's record (R340); `next` is since when
it is out of IDLE from here on. -/
def Dev.engBusy (d : Dev) (T : Nat) (next : Option Nat) : Dev :=
  let e := d.engOf T
  match e.busyAt with
  | none => d.setEng T { e with busyAt := next }
  | some t =>
    let beg := (d.sq.marks.head?.map (·.beg)).getD 0
    let sum := d.acc d.sq.num (privEng T + 15) + (d.now - max t beg)
    ((d.accRun d.sq.num (privEng T) [(15, fun _ => sum)]).tileCount T [opSet 0x34 (sat 32 (sum / usTU))]).setEng T { e with busyAt := next }

/-- MEAS_CLOSE and EG_MEAS_CLOSE of a channel, MEAS_CLOSE of an angle unit: the epoch-scoped entries (R93). -/
def epochScoped (p : Pulse) : Bool :=
  let l := idLocal p.id
  (decide (l < 0x2000) && (p.arg % 256 == 0x02 || p.arg % 256 == 0x16)) || (decide (0x3200 ≤ l) && decide (l < 0x3300) && l % 32 == 7)

/-- An epoch-scoped entry consumed after its drain close: EPOCH_LATE and spill of kind 4 (R96, R330). -/
def Dev.consumed (d : Dev) (T : Nat) : Dev :=
  let e := d.engOf T
  let ep := d.epochAt e.ev.stamp
  if e.inInit = false ∧ epochScoped e.ev ∧ ep < d.sq.closedBelow then
    (d.tileCount T [opAdd 0x38 1]).spillItem ⟨ep, 4, engId T, e.dom, 1, e.ev.stamp, e.ev.stamp, recTile T⟩
  else d

/-- The tile goes offline: the records of its resources for the epoch in progress set OFFLINE (R98). -/
def Dev.markOffline (d : Dev) (T : Nat) : Dev := d.accRun d.sq.num 0 [opSet (recOnline T) 0]

/-- A reset of the tile between B and the drain close of E also sets OFFLINE in the tile's record of E (R463). -/
def Dev.markReset (d : Dev) (T : Nat) : Dev :=
  let d := d.markOffline T
  if d.sq.closedBelow < d.sq.num then d.accRun (d.sq.num - 1) (recTile T) [opOr 4 16] else d

/-- STOPPED (R312): the tile reads OFFLINE; its pulse comes with the loss stamp (R339). -/
def Dev.engStopped (d : Dev) (T cause : Nat) (pulse : Bool) : Dev :=
  let d := d.markOffline T
  let u := if pulse then some (0, cause) else (d.engOf T).unstamped
  (d.setEng T { d.engOf T with st := .stopped, wait := none, lastCause := cause, unstamped := u }).tileCount T [opOr 0x0C 16]

/-- INIT has trapped or reached SLICE: RESULT 0x0A, STOPPED. -/
def Dev.initStopped (d : Dev) (T cause : Nat) : Dev :=
  (d.setEng T { d.engOf T with ldResult := 0x0A, inInit := false }).engStopped T cause false

/-- The routine has ended: IDLE, or online after INIT with LOADED (R312). -/
def Dev.endRoutine (d : Dev) (T : Nat) : Dev :=
  let e := d.engOf T
  if e.inInit then
    let d := d.engBusy T none
    let d := d.setEng T { d.engOf T with st := .idle, inInit := false, wait := none }
    (d.engPulse T 4 (e.img.kind + e.img.patches * 256) d.now).engineBack T false
  else
    let d := (d.consumed T).engBusy T none
    d.setEng T { d.engOf T with st := .idle, wait := none, lastDom := e.dom }

/-- A dispatch that ends under SLICE (R328, R347). -/
def Dev.endSlice (d : Dev) (T : Nat) : Dev :=
  let e := d.engOf T
  if e.inInit then d.initStopped T 8
  else
    let d := (d.setEng T { e with lastCause := 8 }).tileCount T [opAdd 0x20 1]
    (d.engPulse1 T 2 e.dom d.now).endRoutine T

/-! ## Dispatch (R326, R343, R346) -/

/-- Which entry of a domain leaves next: in arrival order, but an epoch-scoped entry passes those of a later epoch. -/
def Dev.pickEntry (d : Dev) (l : List InEnt) : Option InEnt :=
  let rec go (seen : List Nat) (best : Option InEnt) : List InEnt → Option InEnt
    | [] => best
    | x :: t =>
      let ep := d.epochAt x.p.stamp
      let wins := best.isNone || (epochScoped x.p && seen.all (fun e => decide (ep < e)))
      go (ep :: seen) (if wins then some x else best) t
  go [] none l

/-- The domains with an entry, in the order of the round after the last dispatch; the house comes last in each round. -/
def turnOrder (last : Nat) (doms : List Nat) : List Nat :=
  let s := sortNat doms.eraseDups
  let after := s.filter (fun x => decide (last < x))
  if last = houseDom then s else after ++ s.filter (fun x => decide (x ≤ last))

/-- Entries of a domain whose budget is spent are held: counted once, BUDGET_SPENT at the first of an epoch. -/
def Dev.holdDomain (d : Dev) (T dom : Nat) : Dev :=
  let e := d.engOf T
  let n := (e.inbox.filter (fun x => x.dom == dom && !x.held)).length
  if n = 0 then d
  else
    let first := match e.inbox.find? (fun x => x.dom == dom) with | some x => x.p.stamp | none => d.now
    let d := d.setEng T { e with inbox := e.inbox.map (fun x => if x.dom = dom then { x with held := true } else x) }
    let d := (d.tileCount T [opAdd 0x3C n]).count (recRoom dom) [opAdd 0x6C n]
    let d := d.count (privShare dom T) [opAdd 2 n]
    if d.acc d.sq.num (privShare dom T + 3) % 2 = 0 then
      let d := d.count (privShare dom T) [opOr 3 1]
      let d := d.count (recRoom dom) [opAdd 0x70 1, opOr 0x0C 16]
      d.happen (engKey T) (tengPage T) 6 (srcEng d T dom) ⟨engId T, first, 0x66 + dom * 256⟩
    else d

/-- Removes the first copy of an entry. -/
def dropEntry (l : List InEnt) (x : InEnt) : List InEnt := l.erase x

/-- Takes an entry: an entry of a domain without a share, or of an index without a routine, is discarded as UNHANDLED. -/
def Dev.takeEntry (d : Dev) (T : Nat) (x : InEnt) : Dev :=
  let e := d.engOf T
  let share := x.dom == houseDom || (roomShare d.live T x.dom).isSome
  let ent := Tab.get e.img.disp 0 x.idx
  let d := d.setEng T { e with inbox := dropEntry e.inbox x, step := false }
  if share = false ∨ ent / 2 ^ 15 = 0 then
    let d := d.tileCount T [opAdd 0x1C 1]
    let d := if share then d else d.count (recRoom x.dom) [opAdd 0x7C 1]
    d.engPulse1 T 5 x.idx d.now
  else
    let lat := (d.now - x.p.stamp) / nsTU
    let d := d.tileCount T [opAdd 0x14 1, opMax 0x30 lat]
    let d := if x.dom < 256 then d.count (recRoom x.dom) [opMax 0x78 lat] else d
    let slice := d.lv (A.TENG_CFG T) F.TENG_CFG_SLICE
    let e := d.engOf T
    d.setEng T { e with
      st := if e.st = .halted then .halted else .run, back := .run, pc := ent % 2 ^ 13, x := [], fz := false, fn := false, fc := false
      fv := false, stack := [], above := [], ev := x.p, chan := x.chan, dom := x.dom, didx := x.idx
      cb := if x.chan = 0xFF then e.img.tileCtx else e.img.ctxBase + x.chan * 2 ^ e.img.ctxLog, cbOwn := true
      slice := slice, sliceLeft := slice, hwords := 0, charged := 0, began := d.now, wait := none, busyAt := some (e.busyAt.getD d.now) }

/-- DISPATCH: an IDLE engine (or a HALTED one that STEP lets dispatch) whose tags are complete chooses the next entry. -/
def dispatch (T : Nat) (d : Dev) : Dev :=
  let e := d.engOf T
  let idle := e.st == .idle || (e.st == .halted && e.back == .idle && e.step)
  if idle = false ∨ e.resetting ∨ d.engGated T ∨ e.tags ≠ [] then d
  else
    let order := turnOrder e.lastDom (e.inbox.map (·.dom))
    let spent (dom : Nat) : Bool := dom != houseDom && (roomShare d.live T dom).isSome && decide (d.budgetLeft T dom ≤ 0)
    let d := (order.filter spent).foldl (fun d dom => d.holdDomain T dom) d
    match order.find? (fun dom => !spent dom) with
    | none => d
    | some dom =>
      match d.pickEntry ((d.engOf T).inbox.filter (fun x => x.dom == dom)) with
      | some x => d.takeEntry T x
      | none => d

/-! ## Traps (R331) -/

/-- The trap frame: 39 words of 64 bits. -/
def frameWords (e : Eng) (cause rpc detail : Nat) : List Nat :=
  let st (i : Nat) : Nat := (((e.stack.reverse ++ e.above).drop (4 * i)).take 4).zipIdx.foldl (fun n x => n + x.1 * 2 ^ (16 * x.2)) 0
  [cause + e.pc * 2 ^ 8 + rpc * 2 ^ 21 + e.flagBits * 2 ^ 34 + e.stack.length * 2 ^ 38 + e.dom % 512 * 2 ^ 42 + e.didx % 256 * 2 ^ 51,
    detail, shortOf e.ev.stamp, e.ev.id + e.ev.arg * 2 ^ 32, e.cb, st 0, st 1, e.sliceLeft] ++
  (List.range 31).map (fun i => (e.rd (i + 1)).toNat)

/-- A trap cause: INIT stops, a trap in TRAP stops with DOUBLE, any other writes the frame and continues at TRAP_VEC. The trap
entry is charged as 16 words. -/
def Dev.trapTo (d : Dev) (T cause rpc detail : Nat) : Dev × List MemOp :=
  let e := d.engOf T
  if e.inInit then (d.initStopped T cause, [])
  else if e.st = .trap then (d.engStopped T 9 true, [])
  else
    let d := d.charge T 16 0 none
    let d := d.tileCount T [opAdd 0x24 1, opSet 0x28 (cause + e.pc * 256)]
    let d := d.engPulse1 T 1 (cause + e.pc * 256) d.now
    (d.setEng T { d.engOf T with st := .trap, hwords := 0, wait := none, lastCause := cause, pc := e.img.trapVec },
      [.pantry T trapFrame ((frameWords e cause rpc detail).flatMap (leBytes 8))])

/-- RETT reloads the flags, the stack, CB and X1 to X31 from the frame, and continues at its RPC. -/
def Eng.fromFrame (e : Eng) (m : Mem) (T : Nat) : Eng :=
  let w (off : Nat) : Nat := leNat (m.pbytes T (trapFrame + off) 8)
  let w0 := w 0
  let depth := min 8 (w0 / 2 ^ 38 % 16)
  let ents := (List.range 8).map (fun i => w (0x28 + 8 * (i / 4)) / 2 ^ (16 * (i % 4)) % 2 ^ 13)
  let cb := w 0x20 % 2 ^ 18
  { e.setFlagBits (w0 / 2 ^ 34) with
    st := .run, pc := w0 / 2 ^ 21 % 2 ^ 13, stack := (ents.take depth).reverse, above := ents.drop depth, cb := cb, cbOwn := e.cbOwn && cb == e.cb
    x := (List.range 31).map (fun i => (i + 1, BitVec.ofNat 64 (w (0x40 + 8 * i)))) }

/-! ## Completing words -/

/-- A word of class `c` has completed, with `n` words charged, `waits` of them to a wait, and the engine goes on at `pc`. -/
def Dev.wordDone (d : Dev) (T c n waits pc : Nat) : Dev :=
  let d := d.charge T n waits (some c)
  let e := d.engOf T
  let inTrap := e.st == .trap || (e.st == .halted && e.back == .trap)
  d.setEng T { e with pc := pc, hwords := if inTrap then e.hwords + 1 else e.hwords
                      sliceLeft := if inTrap then e.sliceLeft else e.sliceLeft - 1, passBp := false, wait := none }

/-- The words charged to a wait that began at `e.waitAt` (R327). -/
def Dev.waitCharge (d : Dev) (e : Eng) : Nat := ((d.now - e.waitAt) * 100 + nsTU * d.t7 - 1) / (nsTU * d.t7)

/-- EVPEND: the inbox holds an entry of the dispatch's domain. -/
def Eng.evPend (e : Eng) : Bool := e.inbox.any (fun x => x.dom == e.dom)

/-- Where a word that completes with result `r` goes on. -/
def Eng.nextPc (e : Eng) (w : Micro) (r : Option Word64) : Nat := if e.cond w r e.evPend then mAlt w else mNxt w

/-- The word an engine stands at; a control-store address that no image wrote holds 0 (log). -/
def Eng.word (e : Eng) : Micro := Tab.get e.cstore 0 e.pc

/-- The engine halts (R332): it leaves IDLE, and its pulse comes with the halt stamp (R339). -/
def Dev.haltNow (d : Dev) (T : Nat) : Dev :=
  let e := d.engOf T
  (d.setEng T { e with st := .halted, back := e.st, step := false, haltReq := false, haltAt := d.now, busyAt := some (e.busyAt.getD d.now)
                       unstamped := some (3, 1) }).tileCount T [opOr 0x0C 8]

/-- A waiting word completes (R317, R327, R329); a halt that waits for it follows (R332). -/
def Dev.waitDone (d : Dev) (T : Nat) (passed : Bool) : Dev :=
  let e := d.engOf T
  let w := e.word
  match e.wait with
  | none => d
  | some .finish =>
    let d := (d.wordDone T (mClass w) 1 0 (mNxt w)).endRoutine T
    if e.haltReq && (d.engOf T).st == .idle then d.haltNow T else d
  | some k =>
    let e1 := match k with | .untilT _ => e.flagZ passed | _ => e
    let n := d.waitCharge e
    let e2 : Eng := { e1 with st := if e.st = .wait then .run else e.st }
    (d.setEng T e2).wordDone T (mClass w) (1 + n) n (e2.nextPc w none)

/-- The engine's wait ends, if it can. -/
def Dev.waitOver (d : Dev) (T : Nat) : Dev :=
  let e := d.engOf T
  match e.wait with
  | none => d
  | some (.untilT t) => if e.st = .halted ∧ t ≤ d.now then d.waitDone T true else (d.advanceTo t).waitDone T false
  | some (.tags m) => if e.tags.any (fun x => m.testBit x.1) then d else d.waitDone T false
  | some .finish => if e.tags = [] then d.waitDone T false else d

/-- The time a wait has stood still in a halt is no part of it (R332). -/
def Eng.awake (e : Eng) (now : Nat) : Eng := { e with waitAt := e.waitAt + (now - e.haltAt), haltAt := now }

/-- WAIT_END: the instant is reached, or the tags are complete; a HALTED engine completes the word it waits in after STEP. -/
def waitEnd (T : Nat) (d : Dev) : Dev :=
  let e := d.engOf T
  if e.wait.isNone ∨ (e.st = .halted ∧ e.step = false) ∨ e.resetting ∨ d.engGated T then d
  else if e.st = .halted then
    let d := (d.setEng T (e.awake d.now)).waitOver T
    let e := d.engOf T
    if e.wait.isSome then d
    else d.setEng T { e with st := .halted, back := if e.back = .wait then .run else e.back, step := false }
  else d.waitOver T

/-- TRANSFER_COMPLETE: the bytes of a tag have moved (R322). -/
def transferComplete (T tag : Nat) (d : Dev) (m : Mem) : Dev × List MemOp :=
  let e := d.engOf T
  match Tab.get? e.tags tag with
  | none => (d, [])
  | some x =>
    (d.setEng T { e with tags := Tab.del e.tags tag },
      if x.write then [.store x.store (m.pbytes T x.pantry x.len)] else [.pantry T x.pantry (m.bytes x.store x.len)])

/-- What ends a dispatch at SLICE stands: SLICE words have completed, or twice as many have been charged (R347). -/
def Eng.sliceDue (e : Eng) : Bool :=
  (e.st == .run && e.sliceLeft == 0) || (!e.inInit && decide (2 * e.slice ≤ e.charged))

/-- The handler has completed its 256 words (R328). -/
def Eng.handlerDue (e : Eng) : Bool := e.st == .trap && decide (256 ≤ e.hwords)

/-- The engine runs a word or a handler, and no word is in progress. -/
def Eng.between (e : Eng) : Bool := (e.st == .run || e.st == .trap) && e.wait.isNone

/-- SLICE_OVER -/
def sliceOver (T : Nat) (d : Dev) : Dev :=
  let e := d.engOf T
  if e.between && e.sliceDue then d.endSlice T else d

/-- TRAP_HANDLER_LIMIT: DOUBLE. -/
def trapHandlerLimit (T : Nat) (d : Dev) : Dev :=
  let e := d.engOf T
  if e.between && e.handlerDue then d.engStopped T 9 true else d

/-- HRAS_TURN of a tile in ns. -/
def turnOf (w : View) (T : Nat) : Nat :=
  if T % 2 = 0 then w.f (A.HRAS_TURN (T / 2)) F.HRAS_TURN_TURN0 else w.f (A.HRAS_TURN (T / 2)) F.HRAS_TURN_TURN1

/-- TURN_EXPIRY (R347): the dispatch has held the engine for TURN and the word in progress has completed. -/
def turnExpiry (T : Nat) (d : Dev) : Dev :=
  let e := d.engOf T
  if !e.between || e.inInit || e.charged == 0 then d
  else (d.advanceTo (e.began + turnOf d.live T * nsTU)).endSlice T

/-! ## Halting (R332) -/

/-- The engine halts: at once in IDLE, between words and in WAIT, whose instant may pass in the halt; a WAITEV that waits for
its tags completes first (R312, R332; DEDUCED, log entry 105). -/
def Dev.halt (d : Dev) (T : Nat) : Dev :=
  let e := d.engOf T
  if e.wait = some .finish then d.setEng T { e with haltReq := true } else d.haltNow T

/-- The engine resumes; a WAITT instant that passed completes with Z = 1. -/
def Dev.resume (d : Dev) (T : Nat) : Dev :=
  let d := d.tellStop T
  let e := (d.engOf T).awake d.now
  let d := if e.back = .idle then d.engBusy T none else d
  let d := d.setEng T { e with st := e.back, step := false, passBp := e.back != .idle, busyAt := (d.engOf T).busyAt }
  let d := match e.wait with
    | some (.untilT t) => if t ≤ d.now then d.waitDone T true else d
    | _ => d
  (d.engPulse T 3 0 d.now).engineBack T true

/-- A write of TENG_DBG. -/
def writeTengDbg (T : Nat) (v : Word) (d : Dev) : Dev :=
  let d := ((d.setIm (A.TENG_DBG T) F.TENG_DBG_BRK_EN (fget v F.TENG_DBG_BRK_EN)).setIm (A.TENG_DBG T) F.TENG_DBG_BP_EN (fget v F.TENG_DBG_BP_EN)).setIm
    (A.TENG_DBG T) F.TENG_DBG_BP_ADDR (fget v F.TENG_DBG_BP_ADDR)
  let live := match (d.engOf T).st with | .idle | .run | .wait | .trap => true | _ => false
  let d := if fget v F.TENG_DBG_HALT == 1 && live then d.halt T else d
  let d := if fget v F.TENG_DBG_STEP = 1 ∧ (d.engOf T).st = .halted then d.setEng T { d.engOf T with step := true } else d
  if fget v F.TENG_DBG_RESUME = 1 ∧ (d.engOf T).st = .halted then d.resume T else d

/-- A command bit of TENG_DBG, the enables and BP_ADDR staying as they are. -/
def tengDbg (m T bit : Nat) (d : Dev) : Dev :=
  d.hostWrite m (A.TENG_DBG T) (fun d => writeTengDbg T ((d.immW (A.TENG_DBG T) &&& 0x1FFF0018#32) ||| BitVec.ofNat 32 bit) d)

/-- The item TENG_DBGSEL names. -/
def Eng.dbgItem (e : Eng) (sel : Nat) : Nat :=
  if sel = 0 then e.pc else if sel < 32 then (e.rd sel).toNat
  else if sel = 32 then e.flagBits else if sel = 33 then e.stack.length
  else if sel < 42 then (e.stack.reverse ++ e.above).getD (sel - 34) 0 else if sel = 42 then e.sliceLeft else 0

/-- Sets the item TENG_DBGSEL names. -/
def Eng.setDbgItem (e : Eng) (sel v : Nat) : Eng :=
  if sel = 0 then { e with pc := v % 2 ^ 13 } else if sel < 32 then e.wr sel (BitVec.ofNat 64 v)
  else if sel = 32 then e.setFlagBits v
  else if sel < 42 then
    let ents := (e.stack.reverse ++ e.above ++ List.replicate 8 0).take 8
    let ents := if sel = 33 then ents else ents.set (sel - 34) (v % 2 ^ 13)
    let depth := if sel = 33 then min 8 v else e.stack.length
    { e with stack := (ents.take depth).reverse, above := ents.drop depth }
  else if sel = 42 then { e with sliceLeft := v % 65536 } else e

/-- A write of TENG_DBGV1: both halves, only while HALTED. -/
def writeDbgv1 (T : Nat) (v : Word) (d : Dev) : Dev :=
  let e := d.engOf T
  if e.st ≠ .halted then d.err (tengPage T)
  else d.setEng T (e.setDbgItem (d.im (A.TENG_DBGSEL T) F.TENG_DBGSEL_SEL) ((d.immW (A.TENG_DBGV0 T)).toNat + v.toNat * 2 ^ 32))

/-- A write of TENG_DBGV0: kept for the write of TENG_DBGV1, only while HALTED. -/
def writeDbgv0 (T : Nat) (v : Word) (d : Dev) : Dev :=
  if (d.engOf T).st ≠ .halted then d.err (tengPage T) else d.setImmW (A.TENG_DBGV0 T) v

/-! ## Tile reset (R461-R463) -/

/-- The move in progress reads or writes the pantry of tile `T`. -/
def DmaMove.meets (m : DmaMove) (T : Nat) : Bool := m.srcSpace == 1 + 4 * T || m.dstSpace == 1 + 4 * T

/-- Requests into a block that a reset finds without a reply end with ABORTED_BY_RESET (R399, R462): the moves that read or
write the tile's pantry, the scans of its pantry or control store. -/
def Dev.abortRequests (d : Dev) (T : Nat) : Dev :=
  let d := (List.range 32).foldl (fun d c => if (d.dmaOf c).move.any (·.meets T) then d.dmaFault c 0x08 else d) d
  (List.range 16).foldl (fun d c =>
    let x := d.cvuOf c
    if x.st = .scanning ∧ x.space ≠ 0 ∧ x.tile = T then d.cvuFault c 0x08 else d) d

/-- A tile reset arrives: the pages read RESET, a wait ends and completes there, requests without a reply are aborted. -/
def Dev.tileReset (d : Dev) (T : Nat) : Dev :=
  let d := if (d.engOf T).wait.isSome then d.waitDone T false else d
  ((d.setEng T { d.engOf T with resetting := true }).markReset T).abortRequests T

/-- The leading part of the transfers in progress that reaches its destination; its length is left open (R462). -/
def Dev.cutTransfers (d : Dev) (T : Nat) (m : Mem) : List (Nat × Xfer) → Dev × List MemOp
  | [] => (d, [])
  | x :: t =>
    let fr := d.fresh
    let n := fr.1.toNat % (x.2.len + 1)
    let op : MemOp := if x.2.write then .store x.2.store (m.pbytes T x.2.pantry n) else .pantry T x.2.pantry (m.bytes x.2.store n)
    let r := fr.2.cutTransfers T m t
    (r.1, op :: r.2)

/-- The engine enters OFFLINE: its inbox goes to TIRQ_DROP, registers, stack and transfers are lost. The control store and
the loaded image state stay; a load in progress ends, a queued one stays queued. -/
def Dev.tileOff (d : Dev) (T : Nat) (m : Mem) : Dev × List MemOp :=
  let e := d.engOf T
  let r := d.cutTransfers T m e.tags
  let d := e.inbox.foldl (fun d _ => d.tirqDrop T) r.1
  let d := d.markOffline T
  let e := d.engOf T
  (d.setEng T { st := .offline, img := e.img, cstore := e.cstore, lastCause := e.lastCause, ldResult := e.ldResult, ldQueued := e.ldQueued,
                ldPatch := e.ldPatch, dropEpoch := e.dropEpoch, unstamped := e.unstamped, busyAt := some (e.busyAt.getD d.now) }, r.2)

/-- What a boundary does to an engine's epoch accumulator: the time out of IDLE. -/
def Dev.engEpochEnd (d : Dev) (T : Nat) : Dev :=
  let e := d.engOf T
  if e.busyAt.isSome then d.engBusy T (some d.now) else d

/-! ## What the registers show -/

def engStCode : EngSt → Nat
  | .offline => 0 | .loading => 1 | .idle => 2 | .run => 3 | .wait => 4 | .trap => 5 | .halted => 6 | .stopped => 7

def Dev.tengStat (d : Dev) (T : Nat) : Nat := let e := d.engOf T; engStCode e.st + e.lastCause * 256 + e.pc * 65536
def Dev.tengLdstat (d : Dev) (T : Nat) : Nat := let e := d.engOf T; b2n e.ldBusy + 2 * b2n e.ldQueued + e.ldResult * 256
def Dev.tengImg0 (d : Dev) (T : Nat) : Nat := let i := (d.engOf T).img; i.kind + i.iface * 256 + i.patches * 65536
def Dev.tengInbox (d : Dev) (T : Nat) : Nat :=
  let l := (d.engOf T).inbox
  l.length + (l.filter (·.held)).length * 256

/-! ## The commands -/

/-- DISPATCH -/
def execDispatch (T : Nat) (s : State) : Res := onDev (dispatch T) s
/-- WAIT_END -/
def execWaitEnd (T : Nat) (s : State) : Res := onDev (waitEnd T) s
/-- TRANSFER_COMPLETE -/
def execTransferComplete (T tag : Nat) (s : State) : Res := onMem (transferComplete T tag) s
/-- SLICE_OVER -/
def execSliceOver (T : Nat) (s : State) : Res := onDev (sliceOver T) s
/-- TRAP_HANDLER_LIMIT -/
def execTrapHandlerLimit (T : Nat) (s : State) : Res := onDev (trapHandlerLimit T) s
/-- TURN_EXPIRY -/
def execTurnExpiry (T : Nat) (s : State) : Res := onDev (turnExpiry T) s
/-- ENGINE_HALT -/
def execEngineHalt (m T : Nat) (s : State) : Res := onDev (tengDbg m T 1) s
/-- ENGINE_RESUME -/
def execEngineResume (m T : Nat) (s : State) : Res := onDev (tengDbg m T 2) s
/-- ENGINE_STEP -/
def execEngineStep (m T : Nat) (s : State) : Res := onDev (tengDbg m T 4) s
/-- DEBUG_VALUE_WRITE -/
def execDebugValueWrite (m T : Nat) (v : Word) (s : State) : Res := onDev (fun d => d.hostWrite m (A.TENG_DBGV1 T) (writeDbgv1 T v)) s

end Sys2Proof.Machine
end

