-- ==== Sys2Proof/Machine/Micro.lean ====
section
/-! DEFINITION. The operations of the microword (R319-R323, R328-R331) but for the register accesses, which stand in
MicroBus.lean. A command names an operation: the engine runs the word it stands at when that word's OP is the operation. -/
namespace Sys2Proof.Machine

/-- What a word does. -/
inductive WordRes where
  /-- it completes, with a result or without one, and COND chooses the next address -/
  | done (d : Dev) (e : Eng) (ops : List MemOp) (r : Option Word64)
  /-- it completes and names its own next address -/
  | goto (e : Eng) (pc : Nat)
  /-- it begins to wait -/
  | wait (e : Eng) (w : Wait)
  /-- it ends the routine -/
  | finish
  /-- it returns from a trap: 16 words -/
  | rett (e : Eng)
  /-- it traps before any effect -/
  | trap (cause detail : Nat)
  /-- a TRAP word: it completes, and the frame's RPC is NXT -/
  | soft (cause : Nat)
  /-- it stays: a handshake it needs is not free -/
  | hold
  /-- the device is reset by it -/
  | gone (d : Dev) (ops : List MemOp)

/-- A word that traps is charged, and the trap entry follows. -/
def Dev.wordTrap (d : Dev) (T cause detail : Nat) : Dev × List MemOp :=
  (d.charge T 1 0 none).trapTo T cause (d.engOf T).pc detail

/-- Carries out what a word does. -/
def Dev.settleWord (d : Dev) (T : Nat) (w : Micro) : WordRes → Dev × List MemOp
  | .done d' e ops r => ((d'.setEng T e).wordDone T (mClass w) 1 0 (e.nextPc w r), ops)
  | .goto e pc => ((d.setEng T e).wordDone T (mClass w) 1 0 pc, [])
  | .wait e k =>
    let st := match k with | .finish => e.st | _ => if e.st = .run then .wait else e.st
    (d.setEng T { e with wait := some k, waitAt := d.now, st := st }, [])
  | .finish => ((d.wordDone T (mClass w) 1 0 (mNxt w)).endRoutine T, [])
  | .rett e => ((d.setEng T { e with sliceLeft := e.sliceLeft + 1 }).wordDone T (mClass w) 16 0 e.pc, [])
  | .trap c x => d.wordTrap T c x
  | .soft c =>
    let d := d.wordDone T (mClass w) 1 0 (d.engOf T).pc
    d.trapTo T c (mNxt w) 0
  | .hold => (d, [])
  | .gone d ops => (d, ops)

/-- A breakpoint stands before a word (R332). -/
def Dev.breakAt (d : Dev) (T : Nat) (e : Eng) (w : Micro) : Bool :=
  let a := A.TENG_DBG T
  !e.passBp && ((d.imb a F.TENG_DBG_BRK_EN && mBrk w) || (d.imb a F.TENG_DBG_BP_EN && d.im a F.TENG_DBG_BP_ADDR == e.pc))

/-- Runs the word the engine of `T` stands at, when its OP is `op`; a word that is no instruction traps with ILLEGAL. -/
def Dev.runNow (d : Dev) (T op : Nat) (f : Eng → Micro → Dev → Mem → WordRes) (m : Mem) : Dev × List MemOp :=
  let e := d.engOf T
  let w := e.word
  if illegalWord (decide (256 ≤ T)) (e.st == .trap) w then d.wordTrap T 1 0
  else if mOp w ≠ op then (d, [])
  else d.settleWord T w (f e w d m)

/-- The command of an operation: the word runs in RUN and TRAP, halts at a breakpoint, and runs once in HALTED after STEP. -/
def Dev.runWord (d : Dev) (T op : Nat) (f : Eng → Micro → Dev → Mem → WordRes) (m : Mem) : Dev × List MemOp :=
  let e := d.engOf T
  let stepping := e.st == .halted && e.step && (e.back == .run || e.back == .trap) && e.wait.isNone
  let e0 : Eng := if stepping then { e with st := e.back } else e
  if e.resetting || d.engGated T || !e0.between || e0.sliceDue || e0.handlerDue then (d, [])
  else
    let e0 : Eng := if e0.charged = 0 then { e0 with began := d.now } else e0
    if stepping then
      let r := (d.setEng T { e0 with passBp := true }).runNow T op f m
      let e1 := r.1.engOf T
      if e1.st = .stopped then r else (r.1.setEng T { e1 with st := .halted, back := e1.st, step := false, haltAt := r.1.now, busyAt := some (e1.busyAt.getD r.1.now) }, r.2)
    else if (illegalWord (decide (256 ≤ T)) (e.st == .trap) e.word || mOp e.word == op) && d.breakAt T e e.word then (d.halt T, [])
    else (d.setEng T e0).runNow T op f m

/-! ## Register operations -/

/-- A word with a result that leaves the memories alone. -/
def wRes (e : Eng) (w : Micro) (d : Dev) (r : Word64) (fl : Eng → Eng) : WordRes := .done d (fl (e.wr (mDst w) r)) [] (some r)

def opNop (e : Eng) (_ : Micro) (d : Dev) (_ : Mem) : WordRes := .done d e [] none
def opMov (e : Eng) (w : Micro) (d : Dev) (_ : Mem) : WordRes := let r := e.opB w; wRes e w d r (·.setZN w r)
def opAdd' (e : Eng) (w : Micro) (d : Dev) (_ : Mem) : WordRes :=
  wRes e w d (e.opA w + e.opB w) (fun x => if mSetf w then x.flagsAdd (e.opA w) (e.opB w) else x)
def opSub (e : Eng) (w : Micro) (d : Dev) (_ : Mem) : WordRes :=
  wRes e w d (e.opA w - e.opB w) (fun x => if mSetf w then x.flagsSub (e.opA w) (e.opB w) else x)
def opAnd (e : Eng) (w : Micro) (d : Dev) (_ : Mem) : WordRes := let r := e.opA w &&& e.opB w; wRes e w d r (·.setZN w r)
def opOr' (e : Eng) (w : Micro) (d : Dev) (_ : Mem) : WordRes := let r := e.opA w ||| e.opB w; wRes e w d r (·.setZN w r)
def opXor (e : Eng) (w : Micro) (d : Dev) (_ : Mem) : WordRes := let r := e.opA w ^^^ e.opB w; wRes e w d r (·.setZN w r)
def opShl (e : Eng) (w : Micro) (d : Dev) (_ : Mem) : WordRes := let r := e.opA w <<< ((e.opB w).toNat % 64); wRes e w d r (·.setZN w r)
def opShr (e : Eng) (w : Micro) (d : Dev) (_ : Mem) : WordRes := let r := e.opA w >>> ((e.opB w).toNat % 64); wRes e w d r (·.setZN w r)
def opSar (e : Eng) (w : Micro) (d : Dev) (_ : Mem) : WordRes := let r := (e.opA w).sshiftRight ((e.opB w).toNat % 64); wRes e w d r (·.setZN w r)
def opMul (e : Eng) (w : Micro) (d : Dev) (_ : Mem) : WordRes := let r := e.opA w * e.opB w; wRes e w d r (·.setZN w r)
def opMulh (e : Eng) (w : Micro) (d : Dev) (_ : Mem) : WordRes :=
  let r : Word64 := BitVec.ofNat 64 ((e.opA w).toNat * (e.opB w).toNat / 2 ^ 64)
  wRes e w d r (·.setZN w r)

/-- The field of EXT and INS: its lowest bit and its width. -/
def fldLo (w : Micro) : Nat := mOfs w % 64
def fldW (w : Micro) : Nat := mOfs w / 64 % 64 + 1

def opExt (e : Eng) (w : Micro) (d : Dev) (_ : Mem) : WordRes :=
  let r : Word64 := BitVec.ofNat 64 ((e.opA w).toNat / 2 ^ fldLo w % 2 ^ fldW w)
  wRes e w d r (·.setZN w r)
def opIns (e : Eng) (w : Micro) (d : Dev) (_ : Mem) : WordRes :=
  let mask : Word64 := BitVec.ofNat 64 ((2 ^ fldW w - 1) * 2 ^ fldLo w)
  let r : Word64 := (e.rd (mDst w) &&& ~~~mask) ||| (BitVec.ofNat 64 ((e.opB w).toNat % 2 ^ fldW w * 2 ^ fldLo w) &&& mask)
  wRes e w d r (·.setZN w r)
def opFfs (e : Eng) (w : Micro) (d : Dev) (_ : Mem) : WordRes :=
  let a := e.opA w
  wRes e w d (BitVec.ofNat 64 (((List.range 64).find? (fun k => a.toNat.testBit k)).getD 64)) (·.flagZ (a == 0))
def opCmp (e : Eng) (w : Micro) (d : Dev) (_ : Mem) : WordRes := .done d (e.flagsSub (e.opA w) (e.opB w)) [] none
def opTcmp (e : Eng) (w : Micro) (d : Dev) (_ : Mem) : WordRes := .done d (e.flagsTime (e.opA w) (e.opB w)) [] none
def opTnow (e : Eng) (w : Micro) (d : Dev) (_ : Mem) : WordRes := wRes e w d (BitVec.ofNat 64 (shortOf d.now)) id

/-! ## Control -/

def opCall (e : Eng) (w : Micro) (_ : Dev) (_ : Mem) : WordRes :=
  if 8 ≤ e.stack.length then .trap 2 0 else .goto { e with stack := mNxt w :: e.stack, above := e.above.tail } (mAlt w)
def opRet (e : Eng) (_ : Micro) (_ : Dev) (_ : Mem) : WordRes :=
  match e.stack with | [] => .trap 2 0 | x :: t => .goto { e with stack := t, above := x :: e.above } x
def opJx (e : Eng) (w : Micro) (_ : Dev) (_ : Mem) : WordRes := .goto e (((e.opA w).toNat + mImm w) % 8192)
def opWaitev (e : Eng) (_ : Micro) (_ : Dev) (_ : Mem) : WordRes := if e.tags = [] then .finish else .wait e .finish
def opWaitt (T : Nat) (e : Eng) (w : Micro) (d : Dev) (_ : Mem) : WordRes :=
  let t := unshort d.now (e.opA w).toNat
  if d.now + d.lv (A.TENG_CFG T) F.TENG_CFG_WAIT_MAX * nsTU < t then .trap 7 (e.opA w).toNat
  else if t ≤ d.now then .done d (e.flagZ true) [] none
  else .wait e (.untilT t)
def opWaitm (e : Eng) (w : Micro) (d : Dev) (_ : Mem) : WordRes :=
  let m := mImm w % 256
  if e.tags.any (fun x => m.testBit x.1) then .wait e (.tags m) else .done d e [] none
def opTrap (_ : Eng) (w : Micro) (_ : Dev) (_ : Mem) : WordRes := .soft (0x10 + mImm w % 16)
def opRett (T : Nat) (e : Eng) (_ : Micro) (_ : Dev) (m : Mem) : WordRes := .rett (e.fromFrame m T)

/-! ## Special registers (R323) -/

/-- The value of a special register. -/
def Dev.special (d : Dev) (T : Nat) (e : Eng) (ix : Nat) : Nat :=
  match ix with
  | 0 => e.ev.id
  | 1 => shortOf e.ev.stamp
  | 2 => e.ev.arg
  | 3 => e.chan
  | 4 => e.dom
  | 5 => e.cb
  | 6 => d.sq.num % 2 ^ 32
  | 7 => e.sliceLeft
  | 8 => unsgn 64 (d.budgetLeft T e.dom)
  | 9 => e.flagBits
  | 10 => T
  | _ => e.didx

def opRds (T : Nat) (e : Eng) (w : Micro) (d : Dev) (_ : Mem) : WordRes := wRes e w d (BitVec.ofNat 64 (d.special T e (mImm w % 256))) id
def opWrs (e : Eng) (w : Micro) (d : Dev) (_ : Mem) : WordRes :=
  let b := (e.opB w).toNat
  .done d (if mImm w % 256 = 5 then { e with cb := b % 2 ^ 18, cbOwn := e.cbOwn && b % 2 ^ 18 == e.cb } else e.setFlagBits b) [] none

/-! ## The pantry (R320) -/

/-- Checks a pantry access of `n` bytes at `p`, and goes on with it. -/
def Dev.panDo (d : Dev) (T : Nat) (e : Eng) (p n : Nat) (write ctx : Bool) (k : WordRes) : WordRes :=
  if p % n ≠ 0 then .trap 3 p else if d.panDenied T e p n write ctx then .trap 4 p else k

/-- LD and LDC from pantry byte `p`. -/
def panLoad (T : Nat) (ctx : Bool) (p : Nat) (e : Eng) (w : Micro) (d : Dev) (m : Mem) : WordRes :=
  let r := mExtend w (leNat (m.pbytes T p (mWidth w)))
  d.panDo T e p (mWidth w) false ctx (wRes e w d r (·.setZN w r))

/-- ST and STC to pantry byte `p`. -/
def panStore (T : Nat) (ctx : Bool) (p : Nat) (e : Eng) (w : Micro) (d : Dev) : WordRes :=
  d.panDo T e p (mWidth w) true ctx (.done d e [.pantry T p (leBytes (mWidth w) (e.opB w).toNat)] none)

def opLd (T : Nat) (e : Eng) (w : Micro) (d : Dev) (m : Mem) : WordRes := panLoad T false (e.panAddrA w) e w d m
def opLdc (T : Nat) (e : Eng) (w : Micro) (d : Dev) (m : Mem) : WordRes := panLoad T true (e.panAddrC w) e w d m
def opSt (T : Nat) (e : Eng) (w : Micro) (d : Dev) (_ : Mem) : WordRes := panStore T false (e.panAddrA w) e w d
def opStc (T : Nat) (e : Eng) (w : Micro) (d : Dev) (_ : Mem) : WordRes := panStore T true (e.panAddrC w) e w d
def opXadd (T : Nat) (e : Eng) (w : Micro) (d : Dev) (m : Mem) : WordRes :=
  let p := e.panAddrA w
  let old : Word64 := BitVec.ofNat 64 (leNat (m.pbytes T p 8))
  d.panDo T e p 8 true false (.done d (e.wr (mDst w) old) [.pantry T p (leBytes 8 (old + e.opB w).toNat)] (some old))

/-! ## The media store and the buffers (R321, R322) -/

/-- MRD and MWR: a transfer starts on its tag, or the word stays while the tag is busy. -/
def xferWord (T : Nat) (toStore : Bool) (e : Eng) (w : Micro) (d : Dev) : WordRes :=
  let tag := mFn w % 8
  let n := mOfs w % 2 ^ 11 + 1
  let a := (e.opA w).toNat
  let p := (e.rd (mSrb w)).toNat
  if (Tab.get? e.tags tag).isSome then .hold
  else if d.storeHeld e.dom (a : Int) n = false then .trap 5 a
  else if d.panDenied T e p n (!toStore) false then .trap 4 p
  else .done d { e with tags := Tab.set e.tags tag ⟨toStore, a, p, n⟩ } [] none

def opMrd (T : Nat) (e : Eng) (w : Micro) (d : Dev) (_ : Mem) : WordRes := xferWord T false e w d
def opMwr (T : Nat) (e : Eng) (w : Micro) (d : Dev) (_ : Mem) : WordRes := xferWord T true e w d
def opBalloc (T : Nat) (e : Eng) (w : Micro) (d : Dev) (_ : Mem) : WordRes :=
  let q := tileQuad T
  let P := mImm w % 64
  let banks := poolBanks d.live q P
  if poolEn d.live q P = false ∨ banks.any (fun b => d.bankHolder b != e.dom) then .trap 5 0
  else
    let r := d.allocBuf q P e.dom .explicit
    let h : Word64 := BitVec.ofNat 64 (r.1.getD 0)
    wRes e w r.2 h (·.flagZ r.1.isNone)
def opBfree (e : Eng) (w : Micro) (d : Dev) (_ : Mem) : WordRes :=
  let r := d.tryFree (e.opA w).toNat e.dom false
  .done r.2 (e.flagZ (r.1 != 0)) [] none

/-! ## Pulses and pushes (R233, R299, R321, R339) -/

def opEmit (T : Nat) (e : Eng) (w : Micro) (d : Dev) (_ : Mem) : WordRes :=
  let arg := (e.opB w).toNat % 2 ^ 32
  if 0x40 ≤ arg % 256 then .trap 1 0
  else .done (d.emitFrom (engKey T) (tengPage T) (srcEng d T e.dom) (some e.dom) ⟨engId T, unshort d.now (e.opA w).toNat, arg⟩) e [] none
def opPushq (T : Nat) (e : Eng) (w : Micro) (d : Dev) (_ : Mem) : WordRes :=
  let pc := 64 * (T - 256) + mOfs w % 64
  if d.shadowed pc then .done d (e.flagZ false) [] none
  else
    let t := unshort d.now (e.opA w).toNat
    let level := mFn w % 2 == 1
    let r := d.pushEdge pc t level
    .done (if r.2 then r.1.mirrorOut pc d.now (.push pc (shortOf t) level) else r.1) (e.flagZ !r.2) [] none
def opPusha (e : Eng) (w : Micro) (d : Dev) (_ : Mem) : WordRes :=
  let u := mOfs w % 8
  let o := mOfs w / 8 % 4
  if auHolder d.live u ≠ e.dom then .trap 6 (A.AU_Q2 u o)
  else
    let v : Word := BitVec.ofNat 32 (mImm w % 32)
    let r := d.pushAngle u o { pos := sgn 64 (e.opA w).toNat, dir := fget v F.AU_Q2_DIR, level := fget v F.AU_Q2_LEVEL == 1
                               rep := fget v F.AU_Q2_REPEAT == 1, pulse := fget v F.AU_Q2_PULSE == 1 }
    .done r.1 (e.flagZ !r.2) [] none

/-! ## The commands -/

/-- NOP -/
def execNop (T : Nat) (s : State) : Res := onMem (fun d m => d.runWord T 0x00 opNop m) s
/-- MOV -/
def execMov (T : Nat) (s : State) : Res := onMem (fun d m => d.runWord T 0x01 opMov m) s
/-- ADD -/
def execAdd (T : Nat) (s : State) : Res := onMem (fun d m => d.runWord T 0x02 opAdd' m) s
/-- SUB -/
def execSub (T : Nat) (s : State) : Res := onMem (fun d m => d.runWord T 0x03 opSub m) s
/-- AND -/
def execAnd (T : Nat) (s : State) : Res := onMem (fun d m => d.runWord T 0x04 opAnd m) s
/-- OR -/
def execOr (T : Nat) (s : State) : Res := onMem (fun d m => d.runWord T 0x05 opOr' m) s
/-- XOR -/
def execXor (T : Nat) (s : State) : Res := onMem (fun d m => d.runWord T 0x06 opXor m) s
/-- SHL -/
def execShl (T : Nat) (s : State) : Res := onMem (fun d m => d.runWord T 0x07 opShl m) s
/-- SHR -/
def execShr (T : Nat) (s : State) : Res := onMem (fun d m => d.runWord T 0x08 opShr m) s
/-- SAR -/
def execSar (T : Nat) (s : State) : Res := onMem (fun d m => d.runWord T 0x09 opSar m) s
/-- MUL -/
def execMul (T : Nat) (s : State) : Res := onMem (fun d m => d.runWord T 0x0A opMul m) s
/-- MULH -/
def execMulh (T : Nat) (s : State) : Res := onMem (fun d m => d.runWord T 0x0B opMulh m) s
/-- EXT -/
def execExt (T : Nat) (s : State) : Res := onMem (fun d m => d.runWord T 0x0C opExt m) s
/-- INS -/
def execIns (T : Nat) (s : State) : Res := onMem (fun d m => d.runWord T 0x0D opIns m) s
/-- FFS -/
def execFfs (T : Nat) (s : State) : Res := onMem (fun d m => d.runWord T 0x0E opFfs m) s
/-- CMP -/
def execCmp (T : Nat) (s : State) : Res := onMem (fun d m => d.runWord T 0x0F opCmp m) s
/-- TCMP -/
def execTcmp (T : Nat) (s : State) : Res := onMem (fun d m => d.runWord T 0x10 opTcmp m) s
/-- TNOW -/
def execTnow (T : Nat) (s : State) : Res := onMem (fun d m => d.runWord T 0x11 opTnow m) s
/-- CALL -/
def execCall (T : Nat) (s : State) : Res := onMem (fun d m => d.runWord T 0x18 opCall m) s
/-- RET -/
def execRet (T : Nat) (s : State) : Res := onMem (fun d m => d.runWord T 0x19 opRet m) s
/-- JX -/
def execJx (T : Nat) (s : State) : Res := onMem (fun d m => d.runWord T 0x1A opJx m) s
/-- WAITEV -/
def execWaitev (T : Nat) (s : State) : Res := onMem (fun d m => d.runWord T 0x1B opWaitev m) s
/-- WAITT -/
def execWaitt (T : Nat) (s : State) : Res := onMem (fun d m => d.runWord T 0x1C (opWaitt T) m) s
/-- WAITM -/
def execWaitm (T : Nat) (s : State) : Res := onMem (fun d m => d.runWord T 0x1D opWaitm m) s
/-- TRAP -/
def execTrap (T : Nat) (s : State) : Res := onMem (fun d m => d.runWord T 0x1E opTrap m) s
/-- RETT -/
def execRett (T : Nat) (s : State) : Res := onMem (fun d m => d.runWord T 0x1F (opRett T) m) s
/-- RDS -/
def execRds (T : Nat) (s : State) : Res := onMem (fun d m => d.runWord T 0x20 (opRds T) m) s
/-- WRS -/
def execWrs (T : Nat) (s : State) : Res := onMem (fun d m => d.runWord T 0x21 opWrs m) s
/-- LD -/
def execLd (T : Nat) (s : State) : Res := onMem (fun d m => d.runWord T 0x24 (opLd T) m) s
/-- ST -/
def execSt (T : Nat) (s : State) : Res := onMem (fun d m => d.runWord T 0x25 (opSt T) m) s
/-- LDC -/
def execLdc (T : Nat) (s : State) : Res := onMem (fun d m => d.runWord T 0x26 (opLdc T) m) s
/-- STC -/
def execStc (T : Nat) (s : State) : Res := onMem (fun d m => d.runWord T 0x27 (opStc T) m) s
/-- XADD -/
def execXadd (T : Nat) (s : State) : Res := onMem (fun d m => d.runWord T 0x28 (opXadd T) m) s
/-- MRD -/
def execMrd (T : Nat) (s : State) : Res := onMem (fun d m => d.runWord T 0x2C (opMrd T) m) s
/-- MWR -/
def execMwr (T : Nat) (s : State) : Res := onMem (fun d m => d.runWord T 0x2D (opMwr T) m) s
/-- BALLOC -/
def execBalloc (T : Nat) (s : State) : Res := onMem (fun d m => d.runWord T 0x2E (opBalloc T) m) s
/-- BFREE -/
def execBfree (T : Nat) (s : State) : Res := onMem (fun d m => d.runWord T 0x2F opBfree m) s
/-- EMIT -/
def execEmit (T : Nat) (s : State) : Res := onMem (fun d m => d.runWord T 0x30 (opEmit T) m) s
/-- PUSHQ -/
def execPushq (T : Nat) (s : State) : Res := onMem (fun d m => d.runWord T 0x31 (opPushq T) m) s
/-- PUSHA -/
def execPusha (T : Nat) (s : State) : Res := onMem (fun d m => d.runWord T 0x32 opPusha m) s

end Sys2Proof.Machine
end

