-- ==== Sys2Proof/Machine/Loader.lean ====
section
/-! DEFINITION. Loading images (R333-R335): the header and the checks, the words, dispatch table and initial data written when
every check has passed. OTP values are read as R471 gives them. -/
namespace Sys2Proof.Machine

/-! ## OTP as the loader reads it (R470, R471) -/

/-- An OTP word is valid. -/
def Dev.otpValid (d : Dev) (w : Nat) : Bool := !(d.pwr.otpBad.contains w)

/-- An OTP word as read, or its default when invalid. -/
def Dev.otpWord (d : Dev) (w : Nat) : Nat :=
  if d.otpValid w then (Tab.get d.pwr.otp 0 w).toNat
  else match w with | 0 => 3 | 24 => 400 | 25 => 850 | _ => 0

/-- PATCH_SEALED. -/
def Dev.patchSealed (d : Dev) : Bool := bitOf (d.otpWord 0) 0

/-- A field of several words, none when any of them is invalid. -/
def Dev.otpField (d : Dev) (lo n : Nat) : Option (List Byte) :=
  let ws := (List.range n).map (lo + ·)
  if ws.all d.otpValid then some (ws.flatMap (fun w => leBytes 4 (d.otpWord w))) else none

/-! ## The image (R333) -/

/-- Little-endian field of an image. -/
def imgField (bs : List Byte) (off n : Nat) : Nat := leNat ((bs.drop off).take n)

/-- The octets of an image's header. -/
def imgHeader : Nat := 0x2C0

/-- An image's kind and the kind its tile must have: PKIND for PATCH. -/
def imgKind (bs : List Byte) : Nat := imgField bs 5 1
def imgTileKind (bs : List Byte) : Nat := if imgKind bs = 3 then imgField bs 0x17 1 else imgKind bs
def imgSealed (bs : List Byte) : Bool := bitOf (imgField bs 6 1) 0
def imgBodyLen (bs : List Byte) : Nat := imgField bs 0x2C 4
def imgCount (bs : List Byte) : Nat := imgField bs 0x10 2
def imgPdLen (bs : List Byte) : Nat := imgField bs 0x28 4

/-- The whole length: header, body, trailer. -/
def imgLen (bs : List Byte) : Nat := imgHeader + imgBodyLen bs + (if imgSealed bs then 112 else 4)

/-- Octets of the body's words or records. -/
def imgWordsLen (bs : List Byte) : Nat := imgCount bs * (if imgKind bs = 3 then 20 else 16)

/-- A dispatch entry. -/
def imgDisp (bs : List Byte) (i : Nat) : Nat := imgField bs (0x40 + 2 * i) 2

def zeros (bs : List Byte) (off n : Nat) : Bool := ((bs.drop off).take n).all (· == 0)

/-- Check 2 on the header: MAGIC, FORMAT, reserved fields, lengths, addresses, pantry regions (R334). -/
def imgFormatOk (bs : List Byte) : Bool :=
  let k := imgKind bs
  let tk := imgTileKind bs
  let cnt := imgCount bs
  let top := if k = 3 then 8192 else cnt
  let region (off n : Nat) : Bool := decide (off + n ≤ trapFrame)
  let log := imgField bs 0x16 1
  imgField bs 0 4 == 0x4C544E4D && imgField bs 4 1 == 1 && (k == 1 || k == 2 || k == 3) && (tk == 1 || tk == 2) &&
  (k == 3 || (imgField bs 0x17 1 == 0 && imgField bs 0xC 4 == 0)) && decide (imgField bs 6 1 < 2) &&
  decide (1 ≤ cnt) && decide (cnt ≤ if k = 3 then 1024 else 8192) && imgPdLen bs % 8 == 0 && imgField bs 0x20 4 % 8 == 0 &&
  imgBodyLen bs == imgWordsLen bs + imgPdLen bs &&
  decide (4 ≤ log) && decide (log ≤ 10) && decide (imgField bs 0x12 2 < top) && decide (imgField bs 0x14 2 < top) &&
  (List.range 256).all (fun i => let e := imgDisp bs i; e / 2 ^ 13 % 4 == 0 && (e / 2 ^ 15 == 0 || decide (e % 2 ^ 13 < top))) &&
  zeros bs 0x30 16 && zeros bs 0x24C 4 && zeros bs 0x2B1 15 && (imgSealed bs || (zeros bs 0x240 12 && zeros bs 0x250 97)) &&
  region (imgField bs 0x18 4) ((if tk = 1 then 128 else 64) * 2 ^ log) && region (imgField bs 0x1C 4) (2 ^ log) &&
  region (imgField bs 0x20 4) 768 && region (imgField bs 0x24 4) (imgPdLen bs)

/-- The reserved fields of a patch's records: bytes 2 and 3, and the address within the control store. -/
def imgRecordsOk (bs body : List Byte) : Bool :=
  imgKind bs != 3 || (List.range (imgCount bs)).all (fun i => decide (imgField body (20 * i) 2 < 8192) && zeros body (20 * i + 2) 2)

/-- The body in clear: what decryption gives of a sealed image. -/
def Dev.imgBody (d : Dev) (bs : List Byte) : Option (List Byte) :=
  let body := (bs.drop imgHeader).take (imgBodyLen bs)
  if imgSealed bs then
    match d.otpField 13 8 with
    | some key => Config.gcmOpen key ((bs.drop 0x240).take 12) (bs.take imgHeader) body ((bs.drop (imgHeader + imgBodyLen bs)).take 16)
    | none => none
  else some body

/-- The checks of a load in order (R334): the first that fails, or 0. -/
def Dev.loadCheck (d : Dev) (T : Nat) (patch : Bool) (bs : List Byte) (held : Bool) : Nat :=
  let sl := imgSealed bs
  let signed := bs.take (imgHeader + imgBodyLen bs + 16)
  let pub := (bs.drop 0x250).take 97
  let sig := (bs.drop (imgHeader + imgBodyLen bs + 16)).take 96
  let crcOk := imgField bs (imgHeader + imgBodyLen bs) 4 == crcOf 1 (bs.take (imgHeader + imgBodyLen bs))
  let isPatch := imgKind bs == 3
  if held = false then 9
  else if imgFormatOk bs = false ∨ isPatch ≠ patch ∨ (sl = false ∧ imgRecordsOk bs ((bs.drop imgHeader).take (imgBodyLen bs)) = false) then 1
  else if sl ≠ d.patchSealed then 7
  else if sl && !(d.otpField 1 12 == some (Config.sha384 pub)) then 2
  else if sl && !(Config.ecdsaOk pub (Config.sha384 signed) sig) then 3
  else if sl && (d.imgBody bs).isNone then 4
  else if !sl && !crcOk then 5
  else if sl && !(imgRecordsOk bs ((d.imgBody bs).getD [])) then 1
  else if imgTileKind bs ≠ (if T < 256 then 1 else 2) ∨ imgField bs 7 1 ≠ 1 then 6
  else if isPatch && ((d.engOf T).img.kind == 0 || (d.engOf T).img.version != imgField bs 0xC 4) then 8
  else 0

/-- The words of an image's body, by address. -/
def imgWords (bs body : List Byte) : List (Nat × Micro) :=
  if imgKind bs = 3 then (List.range (imgCount bs)).map (fun i => (imgField body (20 * i) 2, BitVec.ofNat 128 (imgField body (20 * i + 4) 16)))
  else (List.range (imgCount bs)).map (fun i => (i, BitVec.ofNat 128 (imgField body (16 * i) 16)))

/-- The image state a load leaves. -/
def imgState (bs : List Byte) (old : Image) : Image :=
  let k := imgKind bs
  { kind := if k = 3 then old.kind else k, iface := imgField bs 7 1, version := if k = 3 then old.version else imgField bs 8 4
    patches := if k = 3 then (old.patches + 1) % 256 else 0, init := imgField bs 0x12 2, trapVec := imgField bs 0x14 2
    ctxLog := imgField bs 0x16 1, ctxBase := imgField bs 0x18 4, tileCtx := imgField bs 0x1C 4, pub := imgField bs 0x20 4
    disp := (List.range 256).map (fun i => (i, imgDisp bs i)) }

/-- The INIT routine starts in a cleared engine, charged to no domain (R312). -/
def Dev.startInit (d : Dev) (T : Nat) (img : Image) (cs : Tab Micro) : Dev :=
  let e := d.engOf T
  let slice := d.lv (A.TENG_CFG T) F.TENG_CFG_SLICE
  d.setEng T { st := .run, inInit := true, pc := img.init, slice := slice, sliceLeft := slice, began := d.now, img := img, cstore := cs
               lastCause := e.lastCause, ldResult := 0, inbox := e.inbox, dropEpoch := e.dropEpoch, cb := img.tileCtx, busyAt := e.busyAt }

/-! ## Serving loads (R335, R454, R457) -/

/-- A write of TENG_LDCMD: the tile is reset and the load queued. -/
def writeTengLdcmd (T : Nat) (v : Word) (d : Dev) : Dev :=
  let l := fget v F.TENG_LDCMD_LOAD = 1
  let p := fget v F.TENG_LDCMD_PATCH = 1
  if l ∧ p then d.err (tengPage T)
  else if ¬ l ∧ ¬ p then d
  else
    let d := d.tileReset T
    let d := d.setEng T { d.engOf T with ldQueued := true, ldPatch := p }
    { d with loadQ := d.loadQ.filter (· != T) ++ [T] }

/-- LOAD_START: the head of the queue is served when no other load runs and the tile is OFFLINE; until the governor has started
the engine the load stays QUEUED. -/
def loadStart (d : Dev) : Dev :=
  match d.loadQ with
  | [] => d
  | T :: rest =>
    let e := d.engOf T
    if d.eng.any (fun x => x.2.ldBusy) ∨ e.resetting ∨ e.st ≠ .offline then d
    else if d.activated 2 T = false then d.govReq 2 T
    else { d with loadQ := rest }.setEng T { e with st := .loading, ldQueued := false, ldBusy := true }

/-- LOAD_END: the checks, and what follows them; a tile reset that has arrived ends the load (R312, R461). -/
def loadEnd (T : Nat) (d : Dev) (m : Mem) : Dev × List MemOp :=
  let e := d.engOf T
  if e.st ≠ .loading ∨ e.resetting then (d, [])
  else
    let a := (d.im (A.TENG_LDADDR T) F.TENG_LDADDR_ADDR) / 8 * 8
    let dom := if d.pwr.bootWait then houseDom else wholeHolder d.live T
    let hdr := m.bytes a imgHeader
    let held := d.storeHeld dom (a : Int) imgHeader && d.storeHeld dom (a : Int) (imgLen hdr)
    let bs := if held then m.bytes a (imgLen hdr) else hdr
    let r := d.loadCheck T e.ldPatch bs held
    if r ≠ 0 then (d.setEng T { e with st := .offline, ldBusy := false, ldResult := r }, [])
    else
      let body := (d.imgBody bs).getD []
      let cs := (imgWords bs body).foldl (fun t x => Tab.set t x.1 x.2) (if imgKind bs = 3 then e.cstore else [])
      (d.startInit T (imgState bs e.img) cs, [.pantry T (imgField bs 0x24 4) ((body.drop (imgWordsLen bs)).take (imgPdLen bs))])

/-- A command bit of TENG_LDCMD. -/
def tengLdcmd (m T : Nat) (v : Word) (d : Dev) : Dev := d.hostWrite m (A.TENG_LDCMD T) (writeTengLdcmd T v)

/-! ## The commands -/

/-- ENGINE_LOAD -/
def execEngineLoad (m T : Nat) (s : State) : Res := onDev (tengLdcmd m T 1#32) s
/-- ENGINE_PATCH -/
def execEnginePatch (m T : Nat) (s : State) : Res := onDev (tengLdcmd m T 2#32) s

end Sys2Proof.Machine
end

