-- ==== Sys2Proof/Machine/Twin.lean ====
section
/-! DEFINITION. The Zynjo link and the twin pair (chapter Twin Pairing and the Zynjo Link, R407-R436). The accesses the twin
sends (R431) stand in Bus.lean. -/
namespace Sys2Proof.Machine

/-! ## Driving and shadowing (R418, R419) -/

/-- Paired channels of the live settings. -/
def Dev.pairedPcs (d : Dev) : List Nat := (List.range 256).filter d.paired

/-- Channels that go together: whole groups, the step and direction pins of axes, complementary pairs (R419). -/
def Dev.mates (d : Dev) (pc : Nat) : List Nat :=
  let q := pc / 64
  let g := ((tileGrps d.live q).map (grpPcs d.live)).filter (·.contains pc)
  let a := ((tileAxes d.live q).map (fun a => [stepPin d.live a, dirPin d.live a].filterMap id)).filter (·.contains pc)
  let c := if d.pcMode pc = 4 ∧ d.pcMode (pc + 1) = 5 then [[pc + 1]] else if d.pcMode pc = 5 then [[pc - 1]] else []
  (g ++ a ++ c).flatten

/-- The paired channels that change their driving side with the given ones. -/
def Dev.extend (d : Dev) (pcs : List Nat) : List Nat :=
  let once (l : List Nat) : List Nat := (l ++ l.flatMap d.mates).eraseDups
  (once (once pcs)).filter d.paired

/-- This side drives channels from instant `t`: cause 8 clears, and 20 ns later the pin takes the shadow's level (R420). -/
def Dev.takeDrive (d : Dev) (pcs : List Nat) (t : Nat) : Dev :=
  let d := { d with zyn := { d.zyn with driving := (d.zyn.driving ++ pcs).eraseDups } }
  (d.clearCauses pcs 256) |> pcs.foldl (fun d pc => d.drivePin pc (t + lambdaTU))

/-- This side gives channels up at instant `t`: it sets cause 8 on them (R418). -/
def Dev.yieldDrive (d : Dev) (pcs : List Nat) (t : Nat) : Dev :=
  let d := { d with zyn := { d.zyn with driving := d.zyn.driving.filter (fun pc => !pcs.contains pc) } }
  pcs.foldl (fun d pc => (d.causeOne 256 t pc).drivePin pc (t + lambdaTU)) d

/-! ## Sequenced flits (R411, R412) -/

/-- Every AGREEING commit ends: the twin counts as lost (R114, R417). -/
def Dev.twinLost (d : Dev) : Dev :=
  ((d.sq.commits.filter (fun e => e.2.st == .agreeing)).map (·.1)).foldl (fun d x => d.endCommit x 2) d

/-- The pair changes state; when it leaves JOINED the twin counts as lost. -/
def Dev.pairGo (d : Dev) (s : PairSt) : Dev :=
  let was := d.zyn.pair
  let d := d.pairTo s
  if was = .joined ∧ s ≠ .joined then d.twinLost else d

/-- Flushes the replay buffer and what waits for it (R412): a lost COMMIT flit counts as loss of the link. -/
def Dev.flushReplay (d : Dev) : Dev :=
  let l := d.zyn.replay.map (·.body) ++ d.zyn.waitq
  let d := { d with zyn := { d.zyn with replay := [], waitq := [] } }
  let d := l.foldl (fun d b => d.flushed b) d
  if l.any (fun b => flitPrio b == 0) then d.twinLost else d

/-- The twin has received every flit before SEQ `ack`: they leave the replay buffer, and what waited is sent. -/
def Dev.ackTo (d : Dev) (ack : Nat) : Dev :=
  match d.zyn.replay with
  | [] => d
  | f :: _ =>
    let n := unsgn 16 ((ack : Int) - (f.seq : Int))
    let d := if n ≤ d.zyn.replay.length then { d with zyn := { d.zyn with replay := d.zyn.replay.drop n } } else d
    d.drainWait d.zyn.waitq

/-- Resends from SEQ `seq`, or flushes and goes on numbering there when the buffer no longer holds it. -/
def Dev.resumeFrom (d : Dev) (seq : Nat) : Dev :=
  let n := match d.zyn.replay with
    | [] => if seq = d.zyn.txSeq then some 0 else none
    | f :: _ => let n := unsgn 16 ((seq : Int) - (f.seq : Int)); if n ≤ d.zyn.replay.length then some n else none
  match n with
  | some n =>
    let d := { d with zyn := { d.zyn with replay := d.zyn.replay.drop n } }
    let d := d.zyn.replay.foldl (fun d f => d.emit (.flit f d.zyn.rxSeq)) d
    d.drainWait d.zyn.waitq
  | none =>
    let d := d.flushReplay
    { d with zyn := { d.zyn with txSeq := seq % 65536 } }

/-- Answers with a NAK naming the SEQ expected (R411). -/
def Dev.nak (d : Dev) : Dev := (d.emit (.nak (flitBytes 2 0 d.zyn.rxSeq (leBytes 2 d.zyn.rxSeq)))).incIm A.ZYN_NAK F.ZYN_NAK_COUNT 1

/-- Whether a sequenced flit with this SEQ is accepted. -/
def Dev.seqOk (d : Dev) (seq : Nat) : Bool := d.zyn.link == .up && seq == d.zyn.rxSeq

/-- Accepts the flit expected. -/
def Dev.seqTake (d : Dev) (ack : Nat) : Dev :=
  ({ d with zyn := { d.zyn with rxSeq := (d.zyn.rxSeq + 1) % 65536 } } : Dev).ackTo ack

/-- A sequenced flit arrives: only the one expected is accepted (R411); none arrives while the link is not UP. -/
def Dev.seqIn (d : Dev) (seq ack : Nat) (act : Dev → Dev) : Dev :=
  if d.zyn.link ≠ .up then d else if d.seqOk seq then act (d.seqTake ack) else d.nak

/-- SEQUENCED_FLIT_DISCARD (R410, R411): kind 0 a sequenced flit whose CRC is bad, 1 one whose SEQ is not the one expected,
2 a flit of a reserved type, 3 an unsequenced flit whose CRC is bad. -/
def flitDiscard (seq kind : Nat) (d : Dev) : Dev :=
  if d.zyn.link ≠ .up then d
  else match kind with
    | 0 => d.nak
    | 1 => if seq = d.zyn.rxSeq then d else d.nak
    | 2 => d.err 0x20000
    | _ => d

/-- NAK_RECEIVE -/
def nakReceive (seq : Nat) (d : Dev) : Dev := if d.zyn.link = .up then d.resumeFrom seq else d

/-! ## The link (R407, R408, R412) -/

def linkCode : LinkSt → Nat
  | .down => 0 | .training => 1 | .up => 2

/-- The link changes state: 0x3300. -/
def Dev.linkTo (d : Dev) (s : LinkSt) (lanes : Nat) : Dev :=
  if d.zyn.link = s then { d with zyn := { d.zyn with lanes := lanes } }
  else { d with zyn := { d.zyn with link := s, lanes := lanes } }.house pgZYN 0x3300 (linkCode s + lanes % 256 * 256)

/-- Pairing is in use. -/
def Dev.pairEn (d : Dev) : Bool := d.lvb A.ZYN_CFG F.ZYN_CFG_PAIR_EN

/-- The Zynjo lanes run: gate, SPLL0 and activations (R437, R444, R454). -/
def Dev.zynRuns (d : Dev) : Bool := d.gate 16 && d.pwr.spllLock.getD 0 false && (List.range 8).all (fun i => d.activated 5 (128 + i))

/-- ZYN_LINK_UP: all eight lanes are aligned and the twin's side differs; replay resumes from the twin's ACK. Two devices of
one side never come up (R407). -/
def zynLinkUp (twinSideB : Bool) (ack lanes : Nat) (d : Dev) : Dev :=
  if d.pairEn = false ∨ d.zynRuns = false ∨ d.zyn.link = .up then d
  else if twinSideB = d.pwr.side then { d with zyn := { d.zyn with sideConflict := true } }
  else if lanes % 256 ≠ 255 then d.linkTo .training lanes
  else
    let d := (d.linkTo .up 255)
    let d := { d with zyn := { d.zyn with sideConflict := false, dead := false } }
    d.resumeFrom ack

/-- The link goes DOWN, which ends every AGREEING commit (R46, R114), and trains again while PAIR_EN = 1. -/
def Dev.linkLost (d : Dev) (lanes : Nat) : Dev :=
  let d := { d with zyn := { d.zyn with downAt := if d.zyn.link = LinkSt.up then d.now else d.zyn.downAt } }
  let up := d.zyn.link == .up
  let d := d.linkTo .down lanes
  let d := if up then d.twinLost else d
  if d.pairEn && d.zynRuns then d.linkTo .training lanes else d

/-- ZYN_LINK_DOWN -/
def zynLinkDown (lanes : Nat) (d : Dev) : Dev := if d.zyn.link = .up then d.linkLost (lanes % 256) else d

/-- LINK_DOWN_FLUSH: the link has been DOWN for 1 ms. -/
def linkDownFlush (d : Dev) : Dev :=
  if d.zyn.link = .up ∨ d.zyn.dead then d
  else
    let d := (d.advanceTo (d.zyn.downAt + 1000 * usTU)).flushReplay
    { d with zyn := { d.zyn with dead := true } }

/-! ## Pin state (R418, R433) -/

def axStCode : AxSt → Nat
  | .idle => 0 | .move => 1 | .homeSeek => 2 | .hardStop => 3
def axStOf : Nat → AxSt
  | 1 => .move | 2 => .homeSeek | 3 => .hardStop | _ => .idle
def demandCode : DemandSt → Nat
  | .waiting => 0 | .pulling => 1 | .holding => 2
def demandOf : Nat → DemandSt
  | 1 => .pulling | 2 => .holding | _ => .waiting

/-- The pin state of the pairs this side drives: queue entries, last applied duty, pending load, axis state, demands. -/
def Dev.pinState (d : Dev) : List PinItem :=
  let chans := d.zyn.driving.flatMap (fun pc =>
    let c := d.pcOf pc
    c.q.map (fun e => PinItem.push pc (shortOf e.t) e.level) ++ [.lastDuty pc c.duty] ++
      (match c.pend with | some (v, t) => [.pendLoad pc v (shortOf t)] | none => []))
  let axes := (d.axes.filter (fun e => match d.axChan e.1 with | some pc => d.zyn.driving.contains pc | none => false)).map (fun e =>
    let x := e.2
    PinItem.axisAt e.1 (axStCode x.st) x.n x.j (shortOf x.tNext) x.nr x.pcru x.psta x.pos x.neg x.homed)
  let dem := (d.grps.filter (fun e => d.zyn.driving.contains (hsPin d.live e.1))).flatMap (fun e =>
    e.2.demands.map (fun x => PinItem.demand e.1 x.k (shortOf x.a) (demandCode x.st) (shortOf x.p)))
  chans ++ axes ++ dem

/-- The channel an item is about. -/
def Dev.itemChan (d : Dev) : PinItem → Option Nat
  | .push pc _ _ | .duty pc _ | .load pc | .stop pc | .restart pc | .qflush pc | .cntClr pc | .lastDuty pc _ | .pendLoad pc _ _ => some pc
  | .axis a _ _ _ _ _ | .axisAt a _ _ _ _ _ _ _ _ _ _ => d.axChan a
  | .demand g _ _ _ _ => some (hsPin d.live g)

/-- Installs one item of the twin's pin state. -/
def Dev.installItem (d : Dev) : PinItem → Dev
  | .push pc t level =>
    let c := d.pcOf pc
    d.setPc pc { c with q := c.q ++ [{ t := unshort d.now t, level := level }], lastPush := some (unshort d.now t) }
  | .lastDuty pc v => d.setPc pc { d.pcOf pc with duty := v }
  | .pendLoad pc v t => d.setPc pc { d.pcOf pc with pend := some (v, unshort d.now t) }
  | .axisAt a st n j tNext nr pcru psta pos neg homed =>
    d.setAx a { d.axOf a with st := axStOf st, n := n, j := j, tNext := unshort d.now tNext, nr := nr, pcru := pcru, psta := psta,
                              pos := pos, neg := neg, homed := homed }
  | .demand g k a st p =>
    let x := d.grpOf g
    d.setGrp g { x with demands := x.demands ++ [⟨k, unshort d.now a, demandOf st, unshort d.now p⟩] }
  | _ => d

/-- Installs pin state for the paired channels this side does not drive, in place of what its shadow held. -/
def Dev.install (d : Dev) (items : List PinItem) : Dev :=
  let mine (i : PinItem) : Bool := match d.itemChan i with | some pc => d.shadowed pc | none => false
  let l := items.filter mine
  let pcs := (l.filterMap (fun i => match i with | .lastDuty pc _ => some pc | _ => none)).eraseDups
  let gs := (l.filterMap (fun i => match i with | .demand g _ _ _ _ => some g | _ => none)).eraseDups
  let d := pcs.foldl (fun d pc => d.setPc pc { d.pcOf pc with q := [], pend := none }) d
  let d := gs.foldl (fun d g => d.setGrp g { d.grpOf g with demands := [] }) d
  l.foldl (fun d i => d.installItem i) d

/-! ## Mirrored items (R418) -/

/-- Places an item by its instant. -/
def mirrorInsert : List (Nat × PinItem) → Nat × PinItem → List (Nat × PinItem)
  | [], x => [x]
  | y :: t, x => if x.1 < y.1 then x :: y :: t else y :: mirrorInsert t x

/-- A PIN flit: to be applied at its instant, or at arrival + 24 ns when it comes later, counted in ZYN_MIRLATE. -/
def Dev.mirrorIn (d : Dev) (at_ : Nat) (it : PinItem) : Dev :=
  let t := unshort d.now at_
  let late := decide (t < d.now)
  let d := { d with zyn := { d.zyn with mirror := mirrorInsert d.zyn.mirror (if late then d.now + pinLead else t, it) } }
  if late then d.incIm A.ZYN_MIRLATE F.ZYN_MIRLATE_COUNT 1 else d

/-- Applies a mirrored item at `t`. -/
def Dev.mirrorDo (d : Dev) (t : Nat) : PinItem → Dev
  | .push pc tq level => (d.pushEdge pc (unshort t tq) level).1
  | .duty pc v => (d.setIm (A.PCH_DUTY pc) F.PCH_DUTY_DUTY v).dutyAt pc v t
  | .load pc => d.loadAt pc t
  | .stop pc => d.stopPin pc
  | .restart pc => d.restartAt pc t
  | .qflush pc => d.flushQueue pc
  | .cntClr pc => d.cntClear pc
  | .axis a steps pcru psta tm v => (d.axDo a steps pcru psta (unshort t tm) v (some t)).1
  | i => d.installItem i

/-- MIRROR_APPLY: the first item due, at its instant; a channel this side no longer shadows takes none. -/
def mirrorApply (d : Dev) : Dev :=
  match d.zyn.mirror with
  | [] => d
  | (t, it) :: rest =>
    let d : Dev := { d.advanceTo t with zyn := { d.zyn with mirror := rest } }
    match d.itemChan it with
    | some pc => if d.shadowed pc then d.mirrorDo t it else d
    | none => d

/-! ## Takeover, handover, conflict (R416-R423) -/

/-- The twin drives a channel, as its last HEARTBEAT showed. -/
def Dev.twinDrives (d : Dev) (pc : Nat) : Bool := match d.zyn.hb with | some h => h.driving.contains pc | none => false

/-- Takeover at instant `t` (R420): ALONE; the twin's pins are driven; the replay buffer is flushed; the ring's origin. -/
def Dev.takeOver (d : Dev) (t : Nat) : Dev :=
  let d := d.pairGo .alone
  let own := d.zyn.driving
  let pcs := (d.extend (d.pairedPcs.filter d.twinDrives)).filter (fun pc => !own.contains pc)
  let d := (d.takeDrive pcs t).house pgZYN 0x3303 pcs.length
  let d := d.flushReplay
  let origin := match d.zyn.hb with | some h => h.origin | none => false
  if d.lvb A.ZYN_CFG F.ZYN_CFG_RING_TKO && origin then { d with zyn := { d.zyn with ringTko := true } } else d

/-- TAKEOVER: at t_k a SUSPECT pair becomes ALONE, or SEVERED while the twin's wire is active. -/
def takeover (d : Dev) : Dev :=
  if d.zyn.pair ≠ .suspect then d
  else
    let d := d.advanceTo d.zyn.tk
    if d.lvb A.ZYN_CFG F.ZYN_CFG_HBWIRE && !d.zyn.wireSilent then d.pairGo .severed else d.takeOver d.now

/-- HB_WIRE_SILENT: a SEVERED pair takes over at once. -/
def hbWireSilent (d : Dev) : Dev :=
  if d.lvb A.ZYN_CFG F.ZYN_CFG_HBWIRE = false then d
  else
    let d := { d with zyn := { d.zyn with wireSilent := true } }
    if d.zyn.pair = .severed then d.takeOver d.now else d

/-- CONFLICT_RELEASE: at the next whole µs side B yields the channels both sides drive. -/
def conflictRelease (d : Dev) : Dev :=
  if d.zyn.conflict = [] then d
  else
    let d := d.advanceTo (wholeUs d.now 0)
    let pcs := d.zyn.conflict.filter (d.zyn.driving.contains ·)
    let d := { d with zyn := { d.zyn with conflict := [] } }
    if d.pwr.side = false ∨ pcs = [] then d
    else (d.yieldDrive (d.extend pcs) d.now).house pgZYN 0x3309 pcs.length

/-- HANDOVER_RECEIVE: acknowledged when the pair is JOINED and t_h lies more than 1 µs ahead. -/
def Dev.handoverIn (d : Dev) (th : Nat) (mask : List Nat) : Dev :=
  let t := unshort d.now th
  if d.joined && decide (d.now + usTU < t) then
    { d with zyn := { d.zyn with hoIn := some ⟨t, mask, 0, true⟩ } }.sendFlit (.handoverAck th)
  else d

/-- HANDOVER_ACK_RECEIVE: held for t_h. -/
def Dev.handoverAckIn (d : Dev) (th : Nat) : Dev :=
  match d.zyn.ho with
  | some h => if shortOf h.th = th ∧ d.now < h.th then { d with zyn := { d.zyn with ho := some { h with ack := true } } } else d
  | none => d

/-- The yielding side at t_h: it sets cause 8 when it holds the ACK, otherwise it keeps the drive. -/
def Dev.yieldEnd (d : Dev) (h : Handover) : Dev :=
  let d := { d.advanceTo h.th with zyn := { d.zyn with ho := none } }
  let d := if h.ack then d.yieldDrive (h.mask.filter (d.zyn.driving.contains ·)) h.th else d
  d.house pgZYN 0x3305 (b2n h.ack + h.trigger * 256)

/-- The receiving side at t_h: it clears cause 8; the trigger its pulse names is not carried by HANDOVER (free value). -/
def Dev.receiveEnd (d : Dev) (h : Handover) : Dev :=
  let d := { d.advanceTo h.th with zyn := { d.zyn with hoIn := none } }
  let d := d.takeDrive (h.mask.filter d.paired) h.th
  let fr := d.fresh
  fr.2.house pgZYN 0x3305 (3 + fr.1.toNat % 4 * 256)

/-- HANDOVER_INSTANT: the earlier of the two handovers that can be in progress. -/
def handoverInstant (d : Dev) : Dev :=
  match d.zyn.ho, d.zyn.hoIn with
  | some h, some k => if k.th < h.th then d.receiveEnd k else d.yieldEnd h
  | some h, none => d.yieldEnd h
  | none, some k => d.receiveEnd k
  | none, none => d

/-- TAKE_APPLY -/
def takeApply (d : Dev) : Dev :=
  match d.zyn.takeAt with
  | none => d
  | some t =>
    let d : Dev := { d.advanceTo t with zyn := { d.zyn with takeAt := none } }
    d.takeDrive (d.pairedPcs.filter (fun pc => !d.zyn.driving.contains pc)) t

/-! ## Heartbeat (R414-R416) -/

/-- The first whole µs after `last` that is not past. -/
def Dev.dueUs (d : Dev) (last : Nat) : Nat := max (nextWhole usTU last) (wholeUs d.now 0)

/-- HEARTBEAT_SEND: the stamp lies within the flit slot that follows the whole µs, one slot being 4.858 ns (free value). -/
def heartbeatSend (d : Dev) : Dev :=
  if d.zyn.link ≠ .up then d
  else
    let t := d.dueUs d.zyn.hbSentAt
    let d : Dev := { d.advanceTo t with zyn := { d.zyn with hbSentAt := t } }
    let fr := d.fresh
    let z := d.zyn
    let e := d.epochAt d.now
    let beg := match d.sq.marks.find? (fun m => m.num == e) with | some m => m.beg | none => d.sq.bnd
    fr.2.emit (.heartbeat (flitBytes 1 0 z.rxSeq (Heartbeat.payload {
      send := shortOf (t + fr.1.toNat % 319), echoSend := match z.hb with | some h => h.send | none => 0
      echoArr := match z.hb with | some _ => shortOf z.hbArr | none => 0
      epoch := e % 2 ^ 32, grid := shortOf beg, pair := pairCode z.pair, sideB := d.pwr.side, run := d.h.run
      origin := d.lv A.HRING_CFG F.HRING_CFG_ROLE == 1, holdover := d.h.tpll == .holdover, pfw := d.sq.pfwLow, driving := z.driving })))

/-- ZY_HB_OUT with HBWIRE = 1: a 1 MHz square wave that rises at each whole µs (R414). -/
def Dev.hbWave (d : Dev) (t : Nat) : Dev :=
  if d.lvb A.ZYN_CFG F.ZYN_CFG_HBWIRE then (d.emit (.hbWire t true)).emit (.hbWire (t + 500 * nsTU) false) else d

/-- HEARTBEAT_TICK (R414, R416): the wire's period and the count of misses, while pairing is in use (DEDUCED, log entry 64). -/
def heartbeatTick (d : Dev) : Dev :=
  if d.pairEn = false then d
  else
    let t := d.dueUs d.zyn.hbTickAt
    let d := Dev.hbWave { d.advanceTo t with zyn := { d.zyn with hbTickAt := t } } t
    if d.zyn.hb.isSome ∧ t < d.zyn.hbArr + usTU then { d with zyn := { d.zyn with misses := 0 } }
    else
      let d : Dev := { d with zyn := { d.zyn with misses := d.zyn.misses + 1 } }
      let d := d.incIm A.ZYN_HBMISS F.ZYN_HBMISS_COUNT 1
      if d.zyn.pair == .joined && decide (3 ≤ d.zyn.misses) then
        let n := d.im A.ZYN_SUSPECT ⟨0, 16⟩
        let d := { d with zyn := { d.zyn with tk := t + d.lv A.ZYN_CFG F.ZYN_CFG_TKO_DLY * nsTU } }.setIm A.ZYN_SUSPECT ⟨0, 16⟩ (sat 16 (n + 1))
        (d.house pgZYN 0x3302 0).pairGo .suspect
      else d

/-- TOFS_LIM in TU. -/
def Dev.tofsLim (d : Dev) : Int := (d.lv A.ZYN_CFG F.ZYN_CFG_TOFS_LIM * nsTU : Nat)

/-- Counts heartbeats over and within TOFS_LIM: sixteen in a row change OFS_OVER (R415). -/
def Dev.offsetLimit (d : Dev) (th : Int) : Dev :=
  let z := d.zyn
  let isOver := decide (d.tofsLim < (th.natAbs : Int))
  let ovr := if isOver then z.ovr + 1 else 0
  let under := if isOver then 0 else z.under + 1
  let d := { d with zyn := { z with ovr := ovr, under := under } }
  if z.ofsOver = false ∧ 16 ≤ ovr then { d with zyn := { d.zyn with ofsOver := true } }.house pgZYN 0x3307 1
  else if z.ofsOver ∧ 16 ≤ under then { d with zyn := { d.zyn with ofsOver := false } }.house pgZYN 0x3307 0
  else d

/-- Takes the offset and round-trip sample of a heartbeat (R415), once the twin echoes one of ours; a half TU of θ and the part
of a ns of the round trip round down (DESIGN CHOICE, log entry 64). -/
def Dev.offsetSample (d : Dev) (h : Heartbeat) (r1 : Nat) : Dev :=
  if h.echoSend = 0 ∧ h.echoArr = 0 then d
  else
    let there := sgn 64 (unsgn 64 ((h.echoArr : Int) - (h.echoSend : Int)))
    let back := sgn 64 (unsgn 64 ((r1 : Int) - (h.send : Int)))
    let th := (there - back) / 2 - sgn 32 (d.lv A.ZYN_ASYM F.ZYN_ASYM_ASYM)
    let d := { d with zyn := { d.zyn with ofs := (th :: d.zyn.ofs).take 16, rtt := ((there + back) / (nsTU : Int)).toNat % 2 ^ 32 } }
    d.offsetLimit th

/-- HEARTBEAT_RECEIVE: a flit's bytes at stamp `t`. A valid HEARTBEAT acknowledges (R409) and gives the sample, the channels both sides drive in two successive heartbeats (R423), the end of SUSPECT
before t_k or of SEVERED (R417). -/
def heartbeatReceive (bytes : List Byte) (t : Nat) (d : Dev) : Dev :=
  if d.zyn.link ≠ .up ∨ d.pairEn = false then d
  else match heartbeatOf bytes with
  | none => d
  | some h =>
    let d := ((d.advanceTo t).ackTo (flitField bytes 4 2)).offsetSample h (shortOf t)
    let both := d.zyn.driving.filter (fun pc => h.driving.contains pc)
    let d := { d with zyn := { d.zyn with hb := some h, hbArr := t, wireSilent := false, conflictNow := both,
                                          conflict := both.filter (d.zyn.conflictNow.contains ·) } }
    match d.zyn.pair with
    | .suspect =>
      if d.now < d.zyn.tk then
        let n := d.im A.ZYN_SUSPECT ⟨16, 16⟩
        let d := { d with zyn := { d.zyn with misses := 0 } }.setIm A.ZYN_SUSPECT ⟨16, 16⟩ (sat 16 (n + 1))
        (d.house pgZYN 0x3304 0).pairGo .joined
      else d
    | .severed =>
      let d := ({ d with zyn := { d.zyn with misses := 0 } } : Dev).pairGo .joined
      d.sendFlit (.pinState d.pinState)
    | _ => d

/-! ## Joining (R417, R433) -/

/-- Ends a join with a result: 0x3308. -/
def Dev.joinResult (d : Dev) (r : Nat) : Dev := { d with zyn := { d.zyn with joinResult := r } }.house pgZYN 0x3308 r

/-- A join that fails returns to the state before it. -/
def Dev.joinFail (d : Dev) (r : Nat) : Dev :=
  let d := { d with zyn := { d.zyn with twinReq := none, joinBoth := false, joinOk := false, tj := none, twinPins := [] } }
  (d.pairGo d.zyn.prev).joinResult r

/-- Both requests are held: side A's proposal governs; a boundary that has passed ends the join with EPOCH. -/
def Dev.joinHeld (d : Dev) : Dev :=
  match d.zyn.twinReq with
  | none => d
  | some (ej, _) =>
    let e := if d.pwr.side then ej else d.zyn.joinEj
    let d := { d with zyn := { d.zyn with joinEj := e, joinBoth := true } }
    if laterMod 32 d.sq.num e then d else d.joinFail 2

/-- ZYN_CTL.JOIN -/
def Dev.doJoin (d : Dev) : Dev :=
  match d.zyn.pair with
  | .solo | .alone =>
    if d.pairEn = false then d.joinResult 6
    else if d.zyn.link ≠ .up then d.joinResult 1
    else
      let ej := (d.sq.num + 2) % 2 ^ 32
      let req := d.zyn.twinReq.filter (fun x => decide (d.now ≤ x.2 + 1000 * usTU))
      let d := { d with zyn := { d.zyn with prev := d.zyn.pair, joinAt := d.now, joinEj := ej, twinReq := req, joinBoth := false,
                                            joinOk := false, tj := none, twinPins := [] } }
      ((d.sendFlit (.joinReq ej)).pairGo .joining).joinHeld
  | _ => d

/-- JOIN_REQ_RECEIVE: taken in JOINING, otherwise held for 1 ms. -/
def Dev.joinReqIn (d : Dev) (ej : Nat) : Dev :=
  let d := if d.zyn.joinBoth then d else { d with zyn := { d.zyn with twinReq := some (ej, d.now) } }
  if d.zyn.pair = .joining ∧ d.zyn.joinBoth = false then d.joinHeld else d

/-- JOIN_DEADLINE: no JOIN_REQ of the twin within 1 ms. -/
def joinDeadline (d : Dev) : Dev :=
  if d.zyn.pair ≠ .joining ∨ d.zyn.joinBoth then d
  else (d.advanceTo (d.zyn.joinAt + 1000 * usTU)).joinFail 5

/-- The check at the boundary `B` that begins E_j, by the last heartbeat held: both sides run, both number the boundary alike
with their grids within TOFS_LIM after θ, and |θ| is within it. -/
def Dev.joinCheck (d : Dev) : Nat :=
  match d.zyn.hb with
  | none => 2
  | some h =>
    let ours := (d.sq.marks.find? (fun m => m.num % 2 ^ 32 == h.epoch)).map (·.beg)
    let near := h.epoch = d.sq.num % 2 ^ 32 ∨ h.epoch = (d.sq.num - 1) % 2 ^ 32
    match ours with
    | none => 2
    | some b =>
      if d.h.run = false ∨ h.run = false ∨ ¬ near then 2
      else if d.tofsLim < (d.theta.natAbs : Int) then 3
      else if d.tofsLim < (((unshort d.now h.grid : Int) - d.theta - (b : Int)).natAbs : Int) then 3
      else 0

/-- What the boundary at `B` does to a join: at the boundary that begins E_j each side checks and sends JOIN_OK. -/
def Dev.joinBoundary (d : Dev) (B : Nat) : Dev :=
  if d.zyn.pair ≠ .joining ∨ d.zyn.joinBoth = false ∨ d.sq.num % 2 ^ 32 ≠ d.zyn.joinEj then d
  else
    let r := d.joinCheck
    if r ≠ 0 then d.joinFail r
    else { d with zyn := { d.zyn with tj := some (B + 20 * usTU) } }.sendFlit (.joinOk d.pinState)

/-- JOIN_OK_RECEIVE: held for t_j. -/
def Dev.joinOkIn (d : Dev) (items : List PinItem) : Dev :=
  if d.zyn.pair = .joining then { d with zyn := { d.zyn with joinOk := true, twinPins := items } } else d

/-! ## Digests (R428-R430) -/

/-- The block words of a paired channel that rule 0x43 compares: +0x000 to +0x04C and +0x100 to +0x10C without PCH_LATO and
PCH_LATI. -/
def pairWords (pc : Nat) : List Nat :=
  (((List.range 20).map (4 * ·)) ++ [0x100, 0x104, 0x108, 0x10C]).map (A.PCH_MODE pc + ·) |>.filter (fun a =>
    a != A.PCH_LATO pc && a != A.PCH_LATI pc)

/-- The trip, axis and group entries of a pin tile that name a paired channel. -/
def pairEntries (w : View) (q : Nat) : List Nat :=
  let p (l : List Nat) : Bool := l.any (fun pc => roleOf w pc != 0)
  let trips := ((List.range 4).map (4 * q + ·)).filter (fun i => p (tripPcs w i))
  let axes := ((List.range 8).map (8 * q + ·)).filter (fun a =>
    p ([stepPin w a, dirPin w a, lposPin w a, lnegPin w a, homePin w a].filterMap id ++ drivePcs w a))
  let grps := (tileGrps w q).filter (fun g => p (grpPcs w g))
  trips.flatMap (fun i => [A.TRIP_CFG i, A.TRIP_BLK i, A.TRIP_MASK i 0, A.TRIP_MASK i 1]) ++
  axes.flatMap (fun a => [A.AX_PINS a, A.AX_OPT a, A.AX_PHOME a, A.AX_HMAX a, A.AX_HPOS a, A.AX_TIME a, A.AX_DRV a 0, A.AX_DRV a 1]) ++
  grps.flatMap (fun g => A.GRP_CFG g :: [A.GRP_MEM g, A.GRP_HOLDP g])

/-- The registers of a group of rules 0x40 to 0x43 (R427), in ascending BAR0 order. -/
def groupRegs (w : View) : Nat → List Nat
  | 0 => [A.HCFG_MODE]
  | 1 => [A.HEPC_CFG, A.HEPC_NUM, A.HEPC_DEN, A.HSNP_CFG, A.HCOM_CFG]
  | 2 => (List.range 16).map A.ZYN_PROLE
  | _ => sortNat (((List.range 256).filter (fun pc => roleOf w pc != 0)).flatMap pairWords ++ (List.range 4).flatMap (pairEntries w))

/-- Exchanges PRIMARY and SECONDARY in a word of roles. -/
def swapRoles (v : Nat) : Nat :=
  ((List.range 16).map (fun i => let r := v / 4 ^ i % 4; (if r = 1 then 2 else if r = 2 then 1 else r) * 4 ^ i)).foldl (· + ·) 0

/-- The value of a register as a group digest takes it: the whole register (R428 takes the bytes of the registers concerned, so
HSNP_CFG counts with PIN_LIMIT) but for HCFG_MODE.SETTLING, which is no setting; reserved bits 0, and side B's roles swapped. -/
def groupWord (sideB : Bool) (w : View) (a : Nat) : Nat :=
  let v := (w a).toNat
  if a = A.HCFG_MODE then v % 2 ^ 31
  else if sideB && decide (A.ZYN_PROLE 0 ≤ a) && decide (a ≤ A.ZYN_PROLE 15) then swapRoles v
  else v

/-- The CRC-64 over the little-endian bytes of registers. -/
def regsCrc (sideB : Bool) (w : View) (regs : List Nat) : Nat := crcOf 3 (regs.flatMap (fun a => leBytes 4 (groupWord sideB w a)))

/-- The four group digests under settings. -/
def groupDigests (sideB : Bool) (w : View) : List Nat := (List.range 4).map (fun g => regsCrc sideB w (groupRegs w g))

/-- The holder of a register of group 0x43. -/
def regHolder (w : View) (a : Nat) : Nat :=
  match descAt false a with
  | some (r, ix) => match domOfId w (pageOf a) r.id ix with | .dom x => x | _ => houseDom
  | none => houseDom

/-- The 257 domain digests of the settings in force (R428). -/
def Dev.domainDigests (d : Dev) : List Nat :=
  let w := d.live
  let g := (groupRegs w 3).map (fun a => (regHolder w a, a))
  let house := sortNat (groupRegs w 0 ++ groupRegs w 1 ++ groupRegs w 2 ++ (g.filter (fun x => x.1 == houseDom)).map (·.2))
  ((List.range 256).map (fun r => regsCrc d.pwr.side w ((g.filter (fun x => x.1 == r)).map (·.2)))) ++ [regsCrc d.pwr.side w house]

/-- The device digest (R428). -/
def deviceDigest (doms : List Nat) : Nat := crcOf 3 (doms.flatMap (leBytes 8))

/-- Compares both sides' digests of an epoch when both are held: ZYN_DIVMAP and DIVERGED (R429). -/
def Dev.compareDigests (d : Dev) (e : Nat) : Dev :=
  match Tab.get? d.zyn.digests e, Tab.get? d.zyn.twinDigests e with
  | some a, some b =>
    let map := (List.range 257).filter (fun i => a.getD i 0 != b.getD i 0)
    if map = d.zyn.divmap then d
    else { d with zyn := { d.zyn with divmap := map, diverged := !map.isEmpty } }.house pgZYN 0x3306
      (map.headD 0 + b2n (!map.isEmpty) * 512)
  | _, _ => d

/-- The four newest entries of a table of epochs. -/
def newest (t : Tab (List Nat)) : Tab (List Nat) := t.drop (t.length - 4)

/-- What the boundary does with the digests of the epoch that begins: kept, and sent in DIGEST flits. -/
def Dev.sendDigests (d : Dev) (doms : List Nat) : Dev :=
  let e := d.sq.num % 2 ^ 32
  let d := { d with zyn := { d.zyn with digests := newest (Tab.set d.zyn.digests e doms) } }
  (d.sendFlit (.digest e doms)).compareDigests e

/-- The twin record (R430): 16 bytes with ALIVE = E, DOMAIN 0x100, the mark and the check value. -/
def twinRecord (e : Nat) : List Byte :=
  let b := leBytes 4 e ++ leBytes 2 0x100 ++ leBytes 2 0x4752
  b ++ leBytes 4 (crcOf 1 b) ++ leBytes 4 0

/-- DIGEST_RECEIVE: compared, and the twin record written when the house holds the bank. -/
def Dev.digestIn (d : Dev) (e : Nat) (doms : List Nat) : Dev × List MemOp :=
  let d := { d with zyn := { d.zyn with twinDigests := newest (Tab.set d.zyn.twinDigests e doms) } }
  let d := d.compareDigests e
  let a := d.lv A.ZYN_TREC F.ZYN_TREC_ADDR * 16
  if d.lvb A.ZYN_TREC F.ZYN_TREC_EN = false then (d, [])
  else if d.bankHolder (bankOfByte a) = houseDom then (d, [.store a (twinRecord e)])
  else (d.err 0x20000, [])

/-- JOIN_INSTANT: at t_j both sides install the pin state and become JOINED; the PRIMARY drives what neither side drives; the
digests are compared. Without the twin's JOIN_OK the join ends with TIMEOUT. -/
def joinInstant (d : Dev) : Dev :=
  match d.zyn.tj with
  | none => d
  | some t =>
    if d.zyn.pair ≠ .joining then d
    else
      let d := d.advanceTo t
      if d.zyn.joinOk = false then d.joinFail 5
      else
        let d := d.install d.zyn.twinPins
        let d := { d with zyn := { d.zyn with twinReq := none, joinBoth := false, joinOk := false, tj := none, twinPins := [], misses := 0 } }
        let d := (d.pairGo .joined).joinResult 0
        let pcs := d.pairedPcs.filter (fun pc => roleOf d.live pc == 1 && !d.zyn.driving.contains pc && !d.twinDrives pc)
        (d.takeDrive ((d.extend pcs).filter (fun pc => !d.zyn.driving.contains pc && !d.twinDrives pc)) t).compareDigests (d.sq.num % 2 ^ 32)

/-! ## Commits across the link (R120, R426, R427) -/

/-- The matching commit of a domain and target, when it is twinned. -/
def Dev.matching (d : Dev) (dom target : Nat) : Option Commit :=
  let c := d.commitOf dom
  if c.st ≠ .idle ∧ c.twin ∧ c.target % 2 ^ 32 = target % 2 ^ 32 then some c else none

/-- Ends a commit on the twin's word: nothing is sent back. -/
def Dev.endQuiet (d : Dev) (dom status : Nat) : Dev := (d.setCommit dom { d.commitOf dom with twin := false }).endCommit dom status

/-- The lowest-addressed field of a twin rule's group. -/
def Dev.groupField (d : Dev) (dom rule : Nat) : Nat := ((groupRegs (d.resView dom) (rule - 0x40)).head?).getD (A.PCH_MODE 0)

/-- A twin rule has failed: CHECK_FAIL with the rule and the field named (R426). -/
def Dev.twinFailEnd (d : Dev) (dom rule : Nat) : Dev :=
  let a := d.groupField dom rule
  (d.setCommit dom { d.commitOf dom with firstRule := rule, failCount := 1, flog := [(rule, a)] }).endQuiet dom 1

/-- Side A holds both PREPAREDs: it compares the group digests and sends DECIDE, or TWIN_FAIL with the lowest rule broken. -/
def Dev.decideCommit (d : Dev) (dom : Nat) : Dev :=
  let c := d.commitOf dom
  match c.prepared with
  | some (t :: _ :: ds) =>
    if d.pwr.side ∨ c.st ≠ .agreeing ∨ c.decided ∨ t % 2 ^ 32 ≠ c.target % 2 ^ 32 then d
    else
      let own := groupDigests d.pwr.side (d.resView dom)
      match (List.range 4).find? (fun g => own.getD g 0 != ds.getD g 0) with
      | some g => (d.sendFlit (.twinFail dom c.target (0x40 + g))).twinFailEnd dom (0x40 + g)
      | none => (d.setCommit dom { c with decided := true }).sendFlit (.decide dom c.target)
  | _ => d

/-- A check has passed with TWIN = 1 (R114, R120): PREPARED, or at once TWIN_NO_AGREE while the pair is not JOINED or the link
not UP (R46). -/
def Dev.prepare (d : Dev) (dom : Nat) : Dev :=
  let d := d.setCommit dom { d.commitOf dom with st := .agreeing }
  if d.joined = false ∨ d.zyn.link ≠ .up then d.endCommit dom 2
  else
    let c := d.commitOf dom
    (d.sendFlit (.prepared dom c.target c.id (groupDigests d.pwr.side (d.resView dom)))).decideCommit dom

/-- PREPARED_RECEIVE: held until the lock instant of its target. -/
def Dev.preparedIn (d : Dev) (dom target id : Nat) (ds : List Nat) : Dev :=
  (d.setCommit dom { d.commitOf dom with prepared := some (target :: id :: ds) }).decideCommit dom

/-- The commit is agreed: CHECKED (R114, R120). -/
def Dev.agree (d : Dev) (dom : Nat) : Dev := d.setCommit dom { d.commitOf dom with st := .checked }

/-- DECIDE_RECEIVE on side B. -/
def Dev.decideIn (d : Dev) (dom target : Nat) : Dev :=
  match d.matching dom target with
  | some c => if d.pwr.side && c.st == .agreeing then (d.agree dom).sendFlit (.decideAck dom target) else d
  | none => d

/-- DECIDE_ACK_RECEIVE on side A, before the lock instant. -/
def Dev.decideAckIn (d : Dev) (dom target : Nat) : Dev :=
  match d.matching dom target with
  | some c => if !d.pwr.side && c.st == .agreeing && c.decided && !(c.target == d.sq.num + 1 && d.lockPassed) then d.agree dom else d
  | none => d

/-- REFUSED or WITHDRAWN of the twin: the matching commit ends with TWIN_NO_AGREE unless it is LOCKED (R114, R120). -/
def Dev.noAgreeIn (d : Dev) (dom target : Nat) : Dev :=
  match d.matching dom target with
  | some c => if c.st = .locked then d else d.endQuiet dom 2
  | none => d

/-- TWIN_FAIL on side B: CHECK_FAIL with the same code. -/
def Dev.twinFailIn (d : Dev) (dom target rule : Nat) : Dev :=
  match d.matching dom target with
  | some c => if d.pwr.side ∧ c.st ≠ .locked then d.twinFailEnd dom rule else d
  | none => d

/-- ABORT before the target boundary: POWER_FAIL_ABORT. -/
def Dev.abortIn (d : Dev) (dom target : Nat) : Dev :=
  match d.matching dom target with
  | some _ => d.endQuiet dom 5
  | none => d

/-! ## Cross-feed, faults, the mailbox (R425, R431, R432) -/

/-- XFEED_RECEIVE: path B of the channel when its PORT is 0xFE, otherwise counted in ZYN_XFNOSINK. -/
def Dev.xfeedIn (d : Dev) (fc : Nat) (f : Frame) : Dev :=
  let w := d.live
  if w.f (A.FCH_MODE fc) F.FCH_MODE_DIR = 1 ∧ fcMode w fc F.FCH_MODE_MERGE = 1 ∧ w.f (A.FCH_KEYP fc 1) F.FCH_KEYP_PORT = 0xFE then
    d.inject fc 1 none f.t f.bytes false
  else d.incIm A.ZYN_XFNOSINK F.ZYN_XFNOSINK_COUNT 1

/-- FAULT_RECEIVE: the originating device counts the late fault (R382, R432). -/
def Dev.faultIn (d : Dev) (m : Nat) : Dev := (if m < 7 then d.incIm (A.HLFL_ORIG m) F.HLFL_ORIG_COUNT 1 else d).setBlocked true

/-- LEAVE -/
def Dev.leavePair (d : Dev) (send : Bool) : Dev :=
  match d.zyn.pair with
  | .joined | .suspect | .severed => (if send then d.sendFlit .leave else d).pairGo .solo
  | _ => d

/-- A write of ZYN_CTL: more than one of bits [4:0] discards it. -/
def writeZynCtl (v : Word) (d : Dev) : Dev :=
  let bits := v.toNat % 32
  if bits ∉ [0, 1, 2, 4, 8, 16] then d.err 0x20000
  else
    let d := d.setIm A.ZYN_CTL F.ZYN_CTL_FOLLOW (fget v F.ZYN_CTL_FOLLOW)
    match bits with
    | 1 => d.doJoin
    | 2 => d.leavePair true
    | 4 => if d.zyn.pair = .solo ∨ d.zyn.pair = .alone then { d with zyn := { d.zyn with takeAt := some (wholeUs d.now 4) } } else d.err 0x20000
    | 8 => d.startHandover 1 d.now (fun _ => true)
    | 16 =>
      let l := d.extend (d.zyn.driving.filter (fun pc => roleOf d.live pc == 2))
      d.startHandover 2 d.now (fun pc => l.contains pc)
    | _ => d

/-- A command bit of ZYN_CTL, FOLLOW staying as it is. -/
def zynCmd (m bit : Nat) (d : Dev) : Dev :=
  d.hostWrite m A.ZYN_CTL (writeZynCtl (BitVec.ofNat 32 (bit + d.im A.ZYN_CTL F.ZYN_CTL_FOLLOW * 256)))

/-- A write of a master's ZYN_MGO (R431): a GO while its read is BUSY is discarded. -/
def writeZynMgo (m : Nat) (v : Word) (d : Dev) : Dev :=
  let w := fget v F.ZYN_MGO_WRITE = 1
  let r := fget v F.ZYN_MGO_READ = 1
  if (w ∨ r) ∧ (Tab.get? d.zyn.mbox m).isSome then d.err 0x23000
  else
    let acc (wr : Bool) : AccessFlit :=
      ⟨m, if m < 6 then Tab.get d.late.num 0 m else 0, d.per A.ZYN_MADDR m F.ZYN_MADDR_SPACE == 1, d.per A.ZYN_MADDR m F.ZYN_MADDR_ADDR,
        d.perW A.ZYN_MDATA m, wr⟩
    let d := if w then d.sendFlit (.access (acc true)) else d
    if r then
      let d := { d with zyn := { d.zyn with mbox := Tab.set d.zyn.mbox m ⟨d.now + 100 * usTU⟩ } }
      ((d.setPer A.ZYN_MSTAT m F.ZYN_MSTAT_STATE 1).setPer A.ZYN_MSTAT m F.ZYN_MSTAT_RESULT 0).sendFlit (.access (acc false))
    else d

/-- RESPONSE_RECEIVE: completes the master's read. -/
def Dev.responseIn (d : Dev) (m result : Nat) (data : Word) : Dev :=
  if (Tab.get? d.zyn.mbox m).isNone then d else (d.setPerW A.ZYN_MRDATA m data).mboxEnd m result

/-- MAILBOX_TIMEOUT -/
def mailboxTimeout (m : Nat) (d : Dev) : Dev :=
  match Tab.get? d.zyn.mbox m with
  | none => d
  | some x => (d.advanceTo x.deadline).mboxEnd m 3

/-! ## What the registers show -/

def Dev.zynStat (d : Dev) : Nat :=
  let z := d.zyn
  linkCode z.link + pairCode z.pair * 4 + b2n z.diverged * 32 + b2n z.ofsOver * 64 + b2n z.sideConflict * 128 + b2n z.ringTko * 256 +
    b2n z.ho.isSome * 512 + d.im A.ZYN_STAT F.ZYN_STAT_FOLLOW_FAIL * 1024 + z.lanes * 65536 + z.joinResult * 2 ^ 24

/-- Bit word `i` of a set of numbers. -/
def bitWord (l : List Nat) (i : Nat) : Nat := (l.filter (fun x => x / 32 == i)).foldl (fun n x => setBit n (x % 32)) 0

/-! ## The boundary (R417, R419, R420) -/

/-- What the boundary at `B` does to the pair, the settings having been `ow`: PAIR_EN, roles that become paired, the ring's
origin under a takeover. `ring` tells that a commit changed HRING_CFG. -/
def Dev.zynApply (d : Dev) (B : Nat) (ow : View) (ring : Bool) : Dev :=
  let was := ow.b A.ZYN_CFG F.ZYN_CFG_PAIR_EN
  let d := if was ∧ d.pairEn = false then (d.linkLost 0).pairGo .solo
    else if !was && d.pairEn && d.zynRuns then d.linkTo .training d.zyn.lanes else d
  let fresh := (List.range 256).filter (fun pc => roleOf ow pc == 0 && d.paired pc)
  let gone := (List.range 256).filter (fun pc => roleOf ow pc != 0 && !d.paired pc)
  let d := fresh.foldl (fun d pc => (d.causeOne 256 B pc).drivePin pc (B + lambdaTU)) d
  let d := { d with zyn := { d.zyn with driving := d.zyn.driving.filter (fun pc => !gone.contains pc) } }
  let d := gone.foldl (fun d pc => (d.clearCauses [pc] 256).drivePin pc (B + lambdaTU)) d
  if d.zyn.ringTko = false then d
  else if ring then { d with zyn := { d.zyn with ringTko := false, ringRole := none } }
  else
    { d with zyn := { d.zyn with ringRole := some (d.zyn.ringRole.getD (d.lv A.HRING_CFG F.HRING_CFG_ROLE)) }
             regs := { d.regs with live := Tab.set d.regs.live A.HRING_CFG (fput (d.lvW A.HRING_CFG) F.HRING_CFG_ROLE 1) } }

/-! ## The commands -/

/-- ZYN_LINK_UP -/
def execZynLinkUp (twinSideB : Bool) (ack lanes : Nat) (s : State) : Res := onDev (zynLinkUp twinSideB ack lanes) s
/-- ZYN_LINK_DOWN -/
def execZynLinkDown (lanes : Nat) (s : State) : Res := onDev (zynLinkDown lanes) s
/-- LINK_DOWN_FLUSH -/
def execLinkDownFlush (s : State) : Res := onDev linkDownFlush s
/-- HEARTBEAT_SEND -/
def execHeartbeatSend (s : State) : Res := onDev heartbeatSend s
/-- HEARTBEAT_TICK -/
def execHeartbeatTick (s : State) : Res := onDev heartbeatTick s
/-- HEARTBEAT_RECEIVE -/
def execHeartbeatReceive (bytes : List Byte) (t : Nat) (s : State) : Res := onDev (heartbeatReceive bytes t) s
/-- HB_WIRE_SILENT -/
def execHbWireSilent (s : State) : Res := onDev hbWireSilent s
/-- NAK_RECEIVE -/
def execNakReceive (seq : Nat) (s : State) : Res := onDev (nakReceive seq) s
/-- RESPONSE_RECEIVE -/
def execResponseReceive (seq ack m result : Nat) (data : Word) (s : State) : Res :=
  onDev (fun d => d.seqIn seq ack (fun d => d.responseIn m result data)) s
/-- PREPARED_RECEIVE -/
def execPreparedReceive (seq ack dom target id : Nat) (digests : List Nat) (s : State) : Res :=
  onDev (fun d => d.seqIn seq ack (fun d => d.preparedIn dom target id digests)) s
/-- DECIDE_RECEIVE -/
def execDecideReceive (seq ack dom target : Nat) (s : State) : Res := onDev (fun d => d.seqIn seq ack (fun d => d.decideIn dom target)) s
/-- DECIDE_ACK_RECEIVE -/
def execDecideAckReceive (seq ack dom target : Nat) (s : State) : Res := onDev (fun d => d.seqIn seq ack (fun d => d.decideAckIn dom target)) s
/-- REFUSED_RECEIVE -/
def execRefusedReceive (seq ack dom target : Nat) (s : State) : Res := onDev (fun d => d.seqIn seq ack (fun d => d.noAgreeIn dom target)) s
/-- WITHDRAWN_RECEIVE -/
def execWithdrawnReceive (seq ack dom target : Nat) (s : State) : Res := onDev (fun d => d.seqIn seq ack (fun d => d.noAgreeIn dom target)) s
/-- TWIN_FAIL_RECEIVE -/
def execTwinFailReceive (seq ack dom target rule : Nat) (s : State) : Res :=
  onDev (fun d => d.seqIn seq ack (fun d => d.twinFailIn dom target rule)) s
/-- ABORT_RECEIVE -/
def execAbortReceive (seq ack dom target : Nat) (s : State) : Res := onDev (fun d => d.seqIn seq ack (fun d => d.abortIn dom target)) s
/-- DIGEST_RECEIVE -/
def execDigestReceive (seq ack epoch : Nat) (doms : List Nat) (s : State) : Res :=
  onMem (fun d _ => if d.seqOk seq then (d.seqTake ack).digestIn epoch doms else (d.seqIn seq ack id, [])) s
/-- PIN_RECEIVE -/
def execPinReceive (seq ack at_ : Nat) (item : PinItem) (s : State) : Res := onDev (fun d => d.seqIn seq ack (fun d => d.mirrorIn at_ item)) s
/-- MIRROR_APPLY -/
def execMirrorApply (s : State) : Res := onDev mirrorApply s
/-- XFEED_RECEIVE -/
def execXfeedReceive (seq ack fc : Nat) (f : Frame) (s : State) : Res := onDev (fun d => d.seqIn seq ack (fun d => d.xfeedIn fc f)) s
/-- FAULT_RECEIVE -/
def execFaultReceive (seq ack m _num _cause _addr : Nat) (s : State) : Res := onDev (fun d => d.seqIn seq ack (fun d => d.faultIn m)) s
/-- JOIN_REQ_RECEIVE -/
def execJoinReqReceive (seq ack ej : Nat) (s : State) : Res := onDev (fun d => d.seqIn seq ack (fun d => d.joinReqIn ej)) s
/-- JOIN_OK_RECEIVE -/
def execJoinOkReceive (seq ack : Nat) (items : List PinItem) (s : State) : Res := onDev (fun d => d.seqIn seq ack (fun d => d.joinOkIn items)) s
/-- PIN_STATE_RECEIVE -/
def execPinStateReceive (seq ack : Nat) (items : List PinItem) (s : State) : Res := onDev (fun d => d.seqIn seq ack (fun d => d.install items)) s
/-- LEAVE_RECEIVE -/
def execLeaveReceive (seq ack : Nat) (s : State) : Res := onDev (fun d => d.seqIn seq ack (fun d => d.leavePair false)) s
/-- HANDOVER_RECEIVE -/
def execHandoverReceive (seq ack th : Nat) (mask : List Nat) (s : State) : Res := onDev (fun d => d.seqIn seq ack (fun d => d.handoverIn th mask)) s
/-- HANDOVER_ACK_RECEIVE -/
def execHandoverAckReceive (seq ack th : Nat) (s : State) : Res := onDev (fun d => d.seqIn seq ack (fun d => d.handoverAckIn th)) s
/-- ZYN_COUNT_READ: w numbers HBMISS, NAK, XFDROP, XFNOSINK, SUSPECT, MIRLATE. -/
def execZynCountRead (m w : Nat) (s : State) : Res := onDev (fun d => d.hostReadRC m (A.ZYN_HBMISS + 4 * (w % 6)) 0xFFFFFFFF) s
/-- JOIN -/
def execJoin (m : Nat) (s : State) : Res := onDev (zynCmd m 1) s
/-- JOIN_DEADLINE -/
def execJoinDeadline (s : State) : Res := onDev joinDeadline s
/-- JOIN_INSTANT -/
def execJoinInstant (s : State) : Res := onDev joinInstant s
/-- LEAVE -/
def execLeave (m : Nat) (s : State) : Res := onDev (zynCmd m 2) s
/-- TAKE -/
def execTake (m : Nat) (s : State) : Res := onDev (zynCmd m 4) s
/-- TAKE_APPLY -/
def execTakeApply (s : State) : Res := onDev takeApply s
/-- YIELD_ALL -/
def execYieldAll (m : Nat) (s : State) : Res := onDev (zynCmd m 8) s
/-- HANDBACK -/
def execHandback (m : Nat) (s : State) : Res := onDev (zynCmd m 16) s
/-- HANDOVER_INSTANT -/
def execHandoverInstant (s : State) : Res := onDev handoverInstant s
/-- TAKEOVER -/
def execTakeover (s : State) : Res := onDev takeover s
/-- CONFLICT_RELEASE -/
def execConflictRelease (s : State) : Res := onDev conflictRelease s
/-- MAILBOX_WRITE -/
def execMailboxWrite (m : Nat) (s : State) : Res := onDev (fun d => d.hostWrite m A.ZYN_MGO (writeZynMgo m 1#32)) s
/-- MAILBOX_READ -/
def execMailboxRead (m : Nat) (s : State) : Res := onDev (fun d => d.hostWrite m A.ZYN_MGO (writeZynMgo m 2#32)) s
/-- MAILBOX_TIMEOUT -/
def execMailboxTimeout (m : Nat) (s : State) : Res := onDev (mailboxTimeout m) s
/-- SEQUENCED_FLIT_DISCARD -/
def execSequencedFlitDiscard (seq kind : Nat) (s : State) : Res := onDev (flitDiscard seq kind) s

end Sys2Proof.Machine
end

