-- ==== Sys2Proof/Machine/Power.lean ====
section
/-! DEFINITION. Clock sources and the MPLL (R437-R441), power requests (R445), core voltage and temperature (R449-R453), the start
governor (R454-R457), device, quadrant and tile resets (R458-R463), OTP programming (R472), supplies (R480, R484). -/
namespace Sys2Proof.Machine

/-! ## Clock sources (R438, R439) -/

/-- A clock source: 0-3 REFCLK0-3, 4 OCXO, 5 EXT10M, 6 SYNCE. -/
def Dev.clkOf (d : Dev) (i : Nat) : ClkSrc := Tab.get d.pwr.clk {} i
def Dev.setClk (d : Dev) (i : Nat) (c : ClkSrc) : Dev := { d with pwr := { d.pwr with clk := Tab.set d.pwr.clk i c } }

/-- READY of the sources 0 to 5, bit by bit (0x3509, R473). -/
def Dev.readyBits (d : Dev) : Nat := (List.range 6).foldl (fun n i => if (d.clkOf i).ready then setBit n i else n) 0

/-- The MPLL's source lost READY: it coasts at 200 MHz (R441). -/
def Dev.mpllCoast (d : Dev) : Dev :=
  if d.pwr.coast then d
  else { d with pwr := { d.pwr with coast := true, mfreq := 8, glideTo := none } }.house pgHCLK 0x3508 1

/-- A source is measured anew; a change of READY is told, and the TPLL and the MPLL act on it. -/
def Dev.clkUpdate (d : Dev) (i : Nat) (c : ClkSrc) : Dev :=
  let was := (d.clkOf i).ready
  let d := d.setClk i c
  if c.ready = was then d
  else
    let d := if i < 6 then d.house pgHCLK 0x3509 d.readyBits else d
    let d := if 4 ≤ i then (if c.ready then sourceReadyGain (i - 3) d else sourceReadyLoss (i - 3) d) else d
    if c.ready = false ∧ d.pwr.msrc = i + 1 ∧ i < 4 then d.mpllCoast else d

/-- CLOCK_GATE: one 1 ms gate measured a source `ppm` from its nominal frequency; the first gate has none before it. -/
def clockGate (i : Nat) (ppm : Int) (first : Bool) (d : Dev) : Dev :=
  if i = 4 ∧ d.pwr.ocxoDone = false then d
  else
    let c := d.clkOf i
    let near := match c.last with
      | some l => first || decide ((ppm - l).natAbs ≤ d.im A.HCLK_CHK F.HCLK_CHK_STAB)
      | none => true
    let ok := decide (ppm.natAbs ≤ d.im A.HCLK_CHK F.HCLK_CHK_ACC * 1000) && near
    let good := if ok then min 8 (c.good + 1) else 0
    d.clkUpdate i ⟨good, some ppm, ok && (c.ready || good == 8)⟩

/-- CLOCK_EDGE_LOSS -/
def clockEdgeLoss (i : Nat) (d : Dev) : Dev := d.clkUpdate i {}

/-- OCXO_DELAY_END -/
def ocxoDelayEnd (d : Dev) : Dev :=
  if d.pwr.ocxoWait then { d with pwr := { d.pwr with ocxoWait := false, ocxoDone := true } } else d

/-! ## The MPLL (R440, R441) -/

/-- An MPLL source is READY. -/
def Dev.mpllReady (d : Dev) (src : Nat) : Bool := src == 0 || (decide (src ≤ 4) && (d.clkOf (src - 1)).ready)

/-- A write of HCLK_MSEL. -/
def writeMsel (v : Word) (d : Dev) : Dev :=
  let src := fget v F.HCLK_MSEL_MSRC
  let fq := fget v F.HCLK_MSEL_MFREQ
  if d.mpllReady src = false ∨ fq < 8 ∨ 32 < fq then d.setIm A.HCLK_STAT F.HCLK_STAT_SEL_REFUSED 1
  else
    let was := d.pwr.coast
    let d := (d.setImmW A.HCLK_MSEL (v &&& 0x13F7#32))
    let d : Dev := { d with pwr := { d.pwr with msrc := src, coast := false, glideTo := if fq = d.pwr.mfreq then none else some fq } }
    if was then d.house pgHCLK 0x3508 0 else d

/-- MFREQ_GLIDE_END -/
def mfreqGlideEnd (d : Dev) : Dev :=
  match d.pwr.glideTo with
  | some f => { d with pwr := { d.pwr with mfreq := f, glideTo := none } }
  | none => d

/-- What HCLK_STAT shows. -/
def Dev.hclkStat (d : Dev) : Nat :=
  d.readyBits % 16 + (List.range 4).foldl (fun n q => if d.pwr.spllLock.getD q false then setBit n (4 + q) else n) 0 +
  b2n (decide ((d.immW A.HPCI_LINK).toNat ≠ 0)) * 2 ^ 8 + b2n d.pwr.coast * 2 ^ 9 + d.im A.HCLK_STAT F.HCLK_STAT_SEL_REFUSED * 2 ^ 10 +
  b2n d.pwr.ocxoWait * 2 ^ 11 + d.pwr.oscDly % 16 * 2 ^ 12 + d.pwr.mfreq * 2 ^ 16

/-- SPLL_LOCK_CHANGE (R437): the octets of the quadrant, and with SPLL0 the Zynjo link. -/
def spllLockChange (q : Nat) (locked : Bool) (d : Dev) : Dev :=
  let d := { d with pwr := { d.pwr with spllLock := d.pwr.spllLock.set q locked } }.linksRecheck
  if q ≠ 0 then d
  else if d.zynRuns = false then (if d.zyn.link = .down then d else d.linkLost 0)
  else if d.pairEn && d.zyn.link == .down then d.linkTo .training 0
  else d

/-! ## Operating modes (R49, R50) -/

/-- MODE_SETTLED -/
def modeSettled (d : Dev) : Dev :=
  if d.sq.modes = [] then d
  else
    let d := { d with sq := { d.sq with modes := [] },
                      regs := { d.regs with live := Tab.set d.regs.live A.HCFG_MODE (fput (d.lvW A.HCFG_MODE) F.HCFG_MODE_SETTLING 0) } }
    d.house pgHCOM 0x3110 (d.lv A.HCFG_MODE F.HCFG_MODE_MODE)

/-! ## Power states (R445) -/

/-- A transition is in progress. -/
def Dev.pwrBusy (d : Dev) : Bool := d.pwr.req.isSome || d.pwr.deepAt.isSome

/-- A write of HPWR_CTL. -/
def writeHpwrCtl (v : Word) (d : Dev) : Dev :=
  let s := fget v F.HPWR_CTL_SLEEP
  let p := fget v F.HPWR_CTL_DEEP
  let w := fget v F.HPWR_CTL_WAKE
  if s + p + w = 0 then d
  else if 1 < s + p + w ∨ d.pwrBusy then d.err 0x31000
  else if s = 1 then (if d.pwr.st = .run then { d with pwr := { d.pwr with req := some .sleep } } else d)
  else if p = 1 then { d with pwr := { d.pwr with req := some .deep } }
  else if d.pwr.st = .sleep then d.wakeSleep 2 else d

def pwrCode : PwrSt → Nat
  | .run => 0 | .sleep => 1 | .deep => 2

/-- What HPWR_CTL shows. -/
def Dev.hpwrCtl (d : Dev) : Nat := pwrCode d.pwr.st * 16 + b2n d.pwrBusy * 64

/-! ## Core voltage (R449, R450) -/

/-- The next request: the voltage asked for, kept within [VMIN, VMAX] and within 10 mV of the request before, which starts at
the 750 mV of R482. -/
def Dev.nextVreq (d : Dev) (want : Nat) : Nat :=
  let lo := d.lv A.HPWR_AVS F.HPWR_AVS_VMIN
  let hi := d.lv A.HPWR_AVS F.HPWR_AVS_VMAX
  let base := if d.pwr.vreq = 0 then 750 else d.pwr.vreq
  let goal := max lo (min hi want)
  if goal < base then max goal (base - 10) else min goal (base + 10)

/-- Sets AVS_FAULT, and emits 0x3520 when it was clear. -/
def Dev.avsFault (d : Dev) : Dev :=
  if d.im A.HPWR_VREQ F.HPWR_VREQ_AVS_FAULT = 1 then d
  else (d.setIm A.HPWR_VREQ F.HPWR_VREQ_AVS_FAULT 1).house pgHPWR 0x3520 1

/-- AVS_TICK: the transaction succeeded or not, the voltage the monitors ask for, the voltage read back, and whether a monitor
shows less margin than its floor. -/
def avsTick (ok : Bool) (want readBack : Nat) (slow : Bool) (d : Dev) : Dev :=
  let req := d.nextVreq want
  let off := decide (d.pwr.vreq ≠ 0) && ok && decide (d.pwr.vreq + 20 < readBack ∨ readBack + 20 < d.pwr.vreq)
  let fails := if ok then 0 else d.pwr.avsFails + 1
  let was := d.pwr.speedLow
  let d : Dev := { d with pwr := { d.pwr with vreq := req, vread := if ok then readBack else d.pwr.vread, avsFails := fails % 3, speedLow := slow } }
  let d := if off || decide (3 ≤ fails) then d.avsFault else d
  if slow = was then d else d.house pgHPWR 0x3520 (if slow then 2 else 3)

/-- What HPWR_VREQ and HPWR_THERM show. -/
def Dev.hpwrVreq (d : Dev) : Nat :=
  d.pwr.vreq + d.pwr.vread % 1024 * 2 ^ 16 + d.im A.HPWR_VREQ F.HPWR_VREQ_AVS_FAULT * 2 ^ 28 + b2n d.pwr.speedLow * 2 ^ 29
def Dev.hpwrTherm (d : Dev) : Nat :=
  unsgn 12 d.pwr.tj + b2n d.pwr.outOfSpec * 2 ^ 12 + d.im A.HPWR_THERM F.HPWR_THERM_WARN_SEEN * 2 ^ 13

/-! ## The start governor (R454-R457) -/

/-- The modelled step of an activation in 0.01 A. -/
def govStep : Nat → Nat
  | 1 => 250 | 2 => 20 | 3 => 30 | 4 => 5 | 5 => 100 | 6 => 5 | _ => 0

/-- A unit's tracking begins anew when its activation starts (R444). -/
def Dev.auRestart (d : Dev) (u : Nat) : Dev :=
  let x := d.auOf u
  if x.st = .off then d
  else
    let was := x.st
    let d := d.setAu u { x with c := 0, edges := [], runLen := 0, qual := false, stall := false, suspect := none, sinceSubst := none, neg := false }
    if was = .sync then d.auState u .seek 0 d.now else d

/-- The channels of pin bank `b`. -/
def bankPcs (b : Nat) : List Nat := (List.range 15).map (64 * (b / 4) + 15 * (b % 4) + ·)

/-- What starts with an activation. -/
def Dev.govEffect (d : Dev) (order idx : Nat) : Dev :=
  match order with
  | 4 => (bankPcs idx).foldl (fun d pc => d.drivePin pc d.now) d
  | 5 => if 128 ≤ idx ∧ d.pairEn ∧ d.zynRuns ∧ d.zyn.link = .down then d.linkTo .training 0 else d
  | 6 => d.auRestart idx
  | _ => d

/-- The head request starts at tick `t` when its step fits. -/
def Dev.govRun (d : Dev) (t : Nat) : Nat → Dev
  | 0 => d
  | n + 1 =>
    match d.pwr.govQ with
    | [] => d
    | r :: rest =>
      let budget := d.lv A.HGOV_CFG F.HGOV_CFG_BUDGET * 10
      let step := govStep r.order
      let big := decide (budget < step)
      let sum := (d.pwr.govLog.map (·.2)).foldl (· + ·) 0
      if sum + step ≤ budget ∨ (big ∧ d.pwr.govLog = []) then
        let d : Dev := { d with pwr := { d.pwr with govQ := rest, govLog := d.pwr.govLog ++ [(t, step)], active := d.pwr.active ++ [(r.order, r.index)] } }
        let d := if big then d.incIm A.HGOV_STAT F.HGOV_STAT_OVERSIZE 1 else d
        let late := t - r.tk
        let d := if late = 0 then d
          else (d.incIm A.HGOV_DSUM F.HGOV_DSUM_DSUM late).setIm A.HGOV_DMAX F.HGOV_DMAX_DMAX (max late (d.im A.HGOV_DMAX F.HGOV_DMAX_DMAX))
        (d.govEffect r.order r.index).govRun t n
      else d

/-- GOVERNOR_TICK -/
def governorTick (d : Dev) : Dev :=
  let t := d.pwr.tick + 1
  let d : Dev := { d with pwr := { d.pwr with tick := t, govLog := d.pwr.govLog.filter (fun x => decide (t < x.1 + 10)) } }
  let d := d.govRun t d.pwr.govQ.length
  let late := d.pwr.govQ.filter (fun r => r.tk == t)
  match late with
  | [] => d
  | r :: _ =>
    let d := d.incIm A.HGOV_STAT F.HGOV_STAT_DEFERRED late.length
    if d.pwr.govDefEpoch = d.sq.num + 1 then d
    else { d with pwr := { d.pwr with govDefEpoch := d.sq.num + 1 } }.house pgHGOV 0x3528 r.order

/-- GOVERNOR_COUNT_READ: word 0 HGOV_STAT, 1 HGOV_DMAX, 2 HGOV_DSUM. -/
def governorCountRead (m w : Nat) (d : Dev) : Dev := d.hostReadRC m (A.HGOV_STAT + 4 * (w % 3)) 0xFFFFFFFF

/-! ## Device reset (R458, R459, R484) -/

/-- What stands outside the device and is not reset: the levels on its input balls, and the banks that are not supplied. -/
def Dev.wires (d : Dev) : Dev :=
  { pins := (d.pins.filter (fun e => e.2.inLevel || d.bankLost e.1)).map (fun e => (e.1, { inLevel := e.2.inLevel, inSafe := d.bankLost e.1 }))
    trips := (d.trips.filter (fun e => e.2.level)).map (fun e => (e.1, { level := true }))
    au := d.au.map (fun e => (e.1, { lvA := e.2.lvA, lvB := e.2.lvB, lvZ := e.2.lvZ })) }

/-- The device enters device reset: everything takes its reset value but for the cellar, the flash, the OTP, the pins' own
levels, the supplies and the log of outputs. -/
def Dev.enterReset (d : Dev) (cause : Nat) : Dev :=
  let d := (d.pins.filter (fun e => e.2.oe)).foldl (fun d e => d.emit (.driver e.1 d.now false)) d
  let d := if d.pwr.hallwayOpen then d.emit (.hallway false) else d
  let w := d.wires
  let imm := if d.im A.HCOM_PFW F.HCOM_PFW_SEEN = 1 then [(A.HCOM_PFW, 2#32)] else []
  { w with
    regs := { imm := imm }
    sq := { pfwLow := d.sq.pfwLow, pfwActive := d.sq.pfwActive, pfwEnd := d.sq.pfwEnd - d.now, flashA := d.sq.flashA, flashB := d.sq.flashB }
    pwr := { inReset := true, hallwayOpen := false, cause := cause, cellar := d.pwr.cellar, banksOff := d.pwr.banksOff
             supplyLow := d.pwr.supplyLow, thermalHold := d.pwr.thermalHold, otp := d.pwr.otp, otpBad := d.pwr.otpBad
             otpNew := d.pwr.otpNew, otpFail := d.pwr.otpFail, tj := d.pwr.tj }
    out := d.out, free := d.free }

/-- A device reset with a cause: the memories are not guaranteed; the model clears them (log entry 3). -/
def deviceReset (cause : Nat) (d : Dev) : Dev × List MemOp := (d.enterReset cause, [.clear])

/-- A collapse of the supplies during the program of an OTP word: the word fails (R123). -/
def Dev.otpCollapse (d : Dev) : Dev :=
  match d.pwr.otpCmd with
  | some (w, _) => { d with pwr := { d.pwr with otpCmd := none, otpFail := w :: d.pwr.otpFail } }
  | none => d

/-- POWER_ON_RESET: the cellar too. -/
def powerOnReset (d : Dev) : Dev × List MemOp :=
  let d := d.otpCollapse.enterReset 0
  ({ d with regs := {}, sq := { d.sq with pfwLow := false, pfwActive := false, pfwEnd := 0 }
            pwr := { d.pwr with cellar := 0, thermalHold := false } }, [.clear])

/-- SUPPLY_FAIL: a supply below its threshold. The reset table of R458 gives this reset no cause: CAUSE is a free value. -/
def supplyFail (rail : Nat) (d : Dev) : Dev × List MemOp :=
  let fr := d.fresh
  let d := fr.2.otpCollapse.enterReset (fr.1.toNat % 16)
  ({ d with pwr := { d.pwr with supplyLow := rail :: d.pwr.supplyLow.filter (· != rail) } }, [.clear])

/-- THERMAL_SAMPLE (R451-R453): the highest reading in 0.25 °C. -/
def thermalSample (tj : Int) (d : Dev) : Dev × List MemOp :=
  if d.pwr.inReset then
    ({ d with pwr := { d.pwr with tj := tj, thermalHold := d.pwr.thermalHold && decide (500 < tj) } }, [])
  else if d.pwr.st = .deep then (d, [])
  else
    let heat := d.lv A.HCFG_MODE F.HCFG_MODE_MODE == 3
    let warn : Int := (d.lv A.HPWR_TWARN F.HPWR_TWARN_WARN * 4 : Nat)
    let was := d.pwr.tj
    let d : Dev := { d with pwr := { d.pwr with tj := tj } }
    let arg (k : Nat) : Nat := k + unsgn 12 tj * 256
    let d := if was < warn ∧ warn ≤ tj then (d.setIm A.HPWR_THERM F.HPWR_THERM_WARN_SEEN 1).house pgHPWR 0x3518 (arg 3) else d
    let d := if heat = false ∧ 500 < tj ∧ d.pwr.outOfSpec = false then
        { d with pwr := { d.pwr with outOfSpec := true } }.house pgHPWR 0x3518 (arg 1)
      else if tj ≤ 488 ∧ d.pwr.outOfSpec then { d with pwr := { d.pwr with outOfSpec := false } }.house pgHPWR 0x3518 (arg 2)
      else d
    if 620 ≤ tj ∨ (heat = false ∧ 560 ≤ tj) then
      let r := deviceReset 2 d
      ({ r.1 with pwr := { r.1.pwr with thermalHold := true } }, r.2)
    else (d, [])

/-! ## Tile and quadrant resets (R460, R461) -/

/-- The tiles of quadrant `q`. -/
def quadTiles (q : Nat) : List Nat := (List.range 64).map (64 * q + ·) ++ [256 + q]

/-- The packets in flight in a tile's datapath are refused: those that wait in its best-effort queue first. -/
def Dev.dropTile (d : Dev) (T : Nat) : Dev × List MemOp :=
  let run (be : Bool) (l : List InPkt) (r : Dev × List MemOp) : Dev × List MemOp :=
    l.foldl (fun r pk => let x := r.1.inItsEpoch pk (fun d => if be then d.settleWaiting pk else d.ingress pk 0); (x.1, r.2 ++ x.2)) r
  run false (Tab.get d.tileIn [] T) (run true (Tab.get d.tileBe [] T) ({ d with tileIn := Tab.del d.tileIn T, tileBe := Tab.del d.tileBe T }, []))

/-- The packets an egress channel holds are released as refusals. -/
def Dev.dropEgress (d : Dev) (fc : Nat) : Dev :=
  let o := d.foutOf fc
  let d := d.setFout fc { o with inq := [], held := [], ready := [] }
  (o.inq ++ o.held.map (·.p) ++ o.ready.map (·.p)).foldl (fun d p => d.egRefuse fc p 0x04 p.stamp) d

/-- The quadrant controller's states return to IDLE; one that waited sends its message first when a function is enabled. -/
def Dev.qirqIdle (d : Dev) (q : Nat) : Dev :=
  d.irq.foldl (fun d e =>
    let dom := e.1 / 8 % 257
    if e.1 / 8 / 257 ≠ q then d
    else
      let w := d.irqOf q dom (e.1 % 8)
      let d := if w.st == .waiting || w.st == .holdPend then
          (match d.nextFn q dom with | some f => d.irqSend q dom (e.1 % 8) f | none => d)
        else d
      d.setIrq q dom (e.1 % 8) { d.irqOf q dom (e.1 % 8) with st := .idle }) d

/-- A quadrant reset arrives. -/
def Dev.quadReset (d : Dev) (q : Nat) : Dev × List MemOp :=
  if d.pwr.qbusy.contains q then (d, [])
  else
    let d : Dev := { d with pwr := { d.pwr with qbusy := d.pwr.qbusy ++ [q] } }
    let d := (quadTiles q).foldl (fun d T => d.tileReset T) d
    let r := ((List.range 64).map (64 * q + ·)).foldl (fun r T => let x := r.1.dropTile T; (x.1, r.2 ++ x.2)) (d, [])
    let d := r.1
    let d : Dev := { d with fin := d.fin.map (fun e => if e.1 / 8192 = q then (e.1, { e.2.restart with ssrc := none }) else e)
                            finOld := d.finOld.map (fun e => if e.1 / 8192 = q then (e.1, { e.2.restart with ssrc := none }) else e) }
    let d := (d.fout.filter (fun e => e.1 / 8192 == q)).foldl (fun d e => d.dropEgress e.1) d
    let d := (d.ports.filter (fun e => e.1 / 32 == q && e.2.up)).foldl (fun d e => d.setLink e.1 0) d
    let d := ((List.range 8).map (8 * q + ·)).foldl (fun d c => if (d.dmaOf c).busy then d.dmaFault c 0x08 else d) d
    let d := ((List.range 4).map (4 * q + ·)).foldl (fun d c => if (d.cvuOf c).st = .idle then d else d.cvuFault c 0x08) d
    (d.qirqIdle q, r.2)

/-- A write of HRST_CTL. -/
def writeHrstCtl (v : Word) (d : Dev) : Dev × List MemOp :=
  if fget v F.HRST_CTL_DEVICE = 1 then deviceReset 3 d
  else
    let mask := fget v F.HRST_CTL_QUAD
    ((List.range 4).filter (bitOf mask)).foldl (fun r q => let x := r.1.quadReset q; (x.1, r.2 ++ x.2)) (d, [])

/-- A host write whose action also writes the memories. -/
def Dev.hostWriteM (d : Dev) (m a : Nat) (act : Dev → Dev × List MemOp) : Dev × List MemOp :=
  if (d.post m).meet m a = .act then act ((d.post m).postAccepted m) else (d.hostWrite m a id, [])

/-- QUAD_RESET_COMPLETE: the tiles are OFFLINE. -/
def quadResetComplete (q : Nat) (d : Dev) (m : Mem) : Dev × List MemOp :=
  if d.pwr.qbusy.contains q = false then (d, [])
  else
    let r := (quadTiles q).foldl (fun r T => let x := r.1.tileOff T m; (x.1, r.2 ++ x.2)) (d, [])
    ({ r.1 with pwr := { r.1.pwr with qbusy := r.1.pwr.qbusy.filter (· != q) } }.house pgHRST 0x3502 (1 + q * 256), r.2)

/-- A write of HRST_TILE. -/
def writeHrstTile (v : Word) (d : Dev) : Dev :=
  let T := fget v F.HRST_TILE_T
  if fget v F.HRST_TILE_GO = 1 ∧ T < 260 then d.tileReset T else d

/-- TILE_RESET_COMPLETE: the engine enters OFFLINE; a tile of a quadrant under reset waits for the quadrant. -/
def tileResetComplete (T : Nat) (d : Dev) (m : Mem) : Dev × List MemOp :=
  if (d.engOf T).resetting = false ∨ d.pwr.qbusy.contains (tileQuad T) then (d, [])
  else
    let r := d.tileOff T m
    (r.1.house pgHRST 0x3502 (2 + T * 256), r.2)

/-- What HRST_STAT shows. -/
def Dev.hrstStat (d : Dev) : Nat := d.pwr.cause % 16 + d.pwr.qbusy.foldl (fun n q => setBit n (8 + q)) 0

/-! ## OTP programming (R472) -/

/-- The word is blank: it reads 0, is valid, and nothing has been programmed into it since. -/
def Dev.otpBlank (d : Dev) (w : Nat) : Bool :=
  d.otpValid w && Tab.get d.pwr.otp 0 w == 0 && (Tab.get? d.pwr.otpNew w).isNone && !(d.pwr.otpFail.contains w)

/-- A write of HOTP_CMD. -/
def writeHotpCmd (v : Word) (d : Dev) : Dev :=
  let d := d.setImmW A.HOTP_CMD (d.immW A.HOTP_CMD &&& ~~~(v &&& 0xE00#32))
  if fget v F.HOTP_CMD_PROG = 0 then d
  else
    let w := d.im A.HOTP_ADDR F.HOTP_ADDR_ADDR
    if d.pwr.otpCmd.isSome || !d.otpBlank w || (bitOf (d.otpWord 0) 1 && w != 0) || d.sq.pfwActive then
      (d.setIm A.HOTP_CMD F.HOTP_CMD_REFUSED 1).house pgHOTP 0x3501 (2 + w * 256)
    else { d with pwr := { d.pwr with otpCmd := some (w, d.immW A.HOTP_DATA) } }

/-- OTP_PROGRAM_END: the word read back valid or not. -/
def otpProgramEnd (valid : Bool) (d : Dev) : Dev :=
  match d.pwr.otpCmd with
  | none => d
  | some (w, v) =>
    if valid then
      ({ d with pwr := { d.pwr with otpCmd := none, otpNew := Tab.set d.pwr.otpNew w v } }.setIm A.HOTP_CMD F.HOTP_CMD_DONE 1).house pgHOTP
        0x3501 (1 + w * 256)
    else
      ({ d with pwr := { d.pwr with otpCmd := none, otpFail := w :: d.pwr.otpFail } }.setIm A.HOTP_CMD F.HOTP_CMD_FAIL 1).house pgHOTP
        0x3501 (4 + w * 256)

/-- What HOTP_CMD, HOTP_W and HOTP_VALID show. -/
def Dev.hotpCmd (d : Dev) : Nat := (d.immW A.HOTP_CMD &&& 0xE00#32).toNat + b2n d.pwr.otpCmd.isSome * 256
def Dev.hotpW (d : Dev) (w : Nat) : Nat := if 13 ≤ w ∧ w ≤ 20 then 0 else d.otpWord w
def Dev.hotpValid (d : Dev) (i : Nat) : Nat := (List.range 32).foldl (fun n j => if d.otpValid (32 * i + j) then setBit n j else n) 0

/-! ## Pin bank supplies (R484) -/

/-- An enabled trip of a bank that is not supplied counts as asserted from `t`. -/
def Dev.tripForced (d : Dev) (i t : Nat) : Dev :=
  let x := d.tripOf i
  if d.lvb (A.TRIP_CFG i) F.TRIP_CFG_EN = false ∨ x.asserted then d
  else (d.setTrip i { x with held := none }).tripQualified i t

/-- A channel whose bank lost its supply holds the safe state, without a cause bit (R46; DEDUCED, log entry 91): its driver is
released, it stamps nothing. -/
def Dev.pinLost (d : Dev) (pc t : Nat) : Dev :=
  let c := d.pcOf pc
  let d := if drivenMode (d.pcMode pc) ∧ c.causes = 0 then d.enterSafe pc 0 t t else d
  let d := (d.setPc pc { d.pcOf pc with held := none, ended := none, chat := none, trs := [] }).safeNow pc t
  (tileGrps d.live (pc / 64)).foldl (fun d g => d.demandsEnd g t (fun m => hsPin d.live g != pc && m.k != pc % 64)) d

/-- A channel whose bank is supplied again leaves safe state when no cause holds it there (R46, R260). -/
def Dev.pinBack (d : Dev) (pc t : Nat) : Dev :=
  let c := d.pcOf pc
  if c.causes ≠ 0 then d.drivePin pc t
  else
    let d := d.setPc pc { c with resume := some (t + pinLead) }
    if drivenMode (d.pcMode pc) then d.pcPulse pc 0x21 0 t else d

/-- An angle unit in SYNC with an encoder pin in a bank that is lost loses synchronisation (R46). R293 numbers no cause for this loss:
LOSS_CAUSE is 0 (DESIGN CHOICE, log entry 91). -/
def Dev.encLost (d : Dev) (t : Nat) : Dev :=
  (List.range 8).foldl (fun d u => if (d.auOf u).st = .sync ∧ d.encSupplied u = false then (d.setAu u (d.auOf u).cut).auLoss u 0 t else d) d

/-- PIN_BANK_SUPPLY_LOSS -/
def pinBankSupplyLoss (b : Nat) (d : Dev) : Dev × List MemOp :=
  if d.pwr.banksOff.contains b then (d, [])
  else
    let d : Dev := { d with pwr := { d.pwr with banksOff := b :: d.pwr.banksOff } }
    if d.halted then ((bankPcs b).foldl (fun d pc => d.setPc pc { d.pcOf pc with inSafe := true }) d, [])
    else
      let t := d.now
      let d := ((bankPcs b).foldl (fun d pc => d.pinLost pc t) d).encLost t
      (d.tripForced b t, [])

/-- PIN_BANK_SUPPLY_RETURN: drivers may drive again, and a trip follows its own input again. -/
def pinBankSupplyReturn (b : Nat) (d : Dev) : Dev × List MemOp :=
  if d.pwr.banksOff.contains b = false then (d, [])
  else
    let d : Dev := { d with pwr := { d.pwr with banksOff := d.pwr.banksOff.filter (· != b) } }
    if d.halted then ((bankPcs b).foldl (fun d pc => d.setPc pc { d.pcOf pc with inSafe := (d.pcOf pc).causes != 0 }) d, [])
    else
      let d := (bankPcs b).foldl (fun d pc => d.pinBack pc d.now) d
      let x := d.tripOf b
      let on := d.lvb (A.TRIP_CFG b) F.TRIP_CFG_EN && x.level == d.lvb (A.TRIP_CFG b) F.TRIP_CFG_POL
      (if on then d else d.setTrip b { x with asserted := false, held := none }, [])

/-! ## The commands -/

/-- MODE_SETTLED -/
def execModeSettled (s : State) : Res := onDev modeSettled s
/-- MPLL_SELECT -/
def execMpllSelect (m : Nat) (v : Word) (s : State) : Res := onDev (fun d => d.hostWrite m A.HCLK_MSEL (writeMsel v)) s
/-- MFREQ_GLIDE_END -/
def execMfreqGlideEnd (s : State) : Res := onDev mfreqGlideEnd s
/-- CLOCK_GATE -/
def execClockGate (src : Nat) (ppm : Int) (first : Bool) (s : State) : Res := onDev (clockGate src ppm first) s
/-- CLOCK_EDGE_LOSS -/
def execClockEdgeLoss (src : Nat) (s : State) : Res := onDev (clockEdgeLoss src) s
/-- OCXO_DELAY_END -/
def execOcxoDelayEnd (s : State) : Res := onDev ocxoDelayEnd s
/-- SLEEP_REQUEST -/
def execSleepRequest (m : Nat) (s : State) : Res := onDev (fun d => d.hostWrite m A.HPWR_CTL (writeHpwrCtl 1#32)) s
/-- DEEP_REQUEST -/
def execDeepRequest (m : Nat) (s : State) : Res := onDev (fun d => d.hostWrite m A.HPWR_CTL (writeHpwrCtl 2#32)) s
/-- WAKE_REQUEST -/
def execWakeRequest (m : Nat) (s : State) : Res := onDev (fun d => d.hostWrite m A.HPWR_CTL (writeHpwrCtl 4#32)) s
/-- AVS_TICK -/
def execAvsTick (ok : Bool) (want readBack : Nat) (slow : Bool) (s : State) : Res := onDev (avsTick ok want readBack slow) s
/-- THERMAL_SAMPLE -/
def execThermalSample (tj : Int) (s : State) : Res := onAny (fun d _ => thermalSample tj d) s
/-- GOVERNOR_TICK -/
def execGovernorTick (s : State) : Res := onDev governorTick s
/-- GOVERNOR_COUNT_READ -/
def execGovernorCountRead (m w : Nat) (s : State) : Res := onDev (governorCountRead m w) s
/-- POWER_ON_RESET -/
def execPowerOnReset (s : State) : Res := onAny (fun d _ => powerOnReset d) s
/-- RST_N_ASSERT -/
def execRstNAssert (s : State) : Res := onAny (fun d _ => deviceReset 1 d) s
/-- DEVICE_RESET_CMD -/
def execDeviceResetCmd (m : Nat) (s : State) : Res := onMem (fun d _ => d.hostWriteM m A.HRST_CTL (writeHrstCtl 1#32)) s
/-- QUAD_RESET_CMD -/
def execQuadResetCmd (m mask : Nat) (s : State) : Res :=
  onMem (fun d _ => d.hostWriteM m A.HRST_CTL (writeHrstCtl (BitVec.ofNat 32 (mask % 16 * 16)))) s
/-- QUAD_RESET_COMPLETE -/
def execQuadResetComplete (q : Nat) (s : State) : Res := onMem (quadResetComplete q) s
/-- TILE_RESET_CMD -/
def execTileResetCmd (m T : Nat) (s : State) : Res :=
  onDev (fun d => d.hostWrite m A.HRST_TILE (writeHrstTile (BitVec.ofNat 32 (T % 512 + 2 ^ 16)))) s
/-- TILE_RESET_COMPLETE -/
def execTileResetComplete (T : Nat) (s : State) : Res := onMem (tileResetComplete T) s
/-- OTP_PROGRAM -/
def execOtpProgram (m : Nat) (s : State) : Res := onDev (fun d => d.hostWrite m A.HOTP_CMD (writeHotpCmd 1#32)) s
/-- OTP_PROGRAM_END -/
def execOtpProgramEnd (valid : Bool) (s : State) : Res := onDev (otpProgramEnd valid) s
/-- SUPPLY_FAIL -/
def execSupplyFail (rail : Nat) (s : State) : Res := onAny (fun d _ => supplyFail rail d) s
/-- PIN_BANK_SUPPLY_LOSS -/
def execPinBankSupplyLoss (bank : Nat) (s : State) : Res := onAny (fun d _ => pinBankSupplyLoss bank d) s
/-- PIN_BANK_SUPPLY_RETURN -/
def execPinBankSupplyReturn (bank : Nat) (s : State) : Res := onAny (fun d _ => pinBankSupplyReturn bank d) s
/-- SPLL_LOCK_CHANGE -/
def execSpllLockChange (q : Nat) (locked : Bool) (s : State) : Res := onDev (spllLockChange q locked) s

end Sys2Proof.Machine
end

