-- ==== Sys2Proof/Machine/Boot.lean ====
section
/-! DEFINITION. The release of device reset and the boot steward (R464-R469). The steward hands its images to the loader one by
one: it places the next at a LOAD_START once the tile before has come online, and goes on at each LOAD_END. -/
namespace Sys2Proof.Machine

/-! ## The directory (R466, R467) -/

/-- An entry covers a tile. -/
def dirCovers (e : DirEntry) (T : Nat) : Bool :=
  match e.scope with
  | 0 => decide (T < 256)
  | 1 => decide (256 ≤ T)
  | 2 => e.tile == T
  | _ => false

/-- Bytes of an image area; what no piece gives reads as erased flash. -/
def areaBytes (area : List (Nat × List Byte)) (off len : Nat) : List Byte :=
  match area.find? (fun p => p.1 == off && decide (len ≤ p.2.length)) with
  | some p => p.2.take len
  | none => (List.range len).map (fun i =>
      match area.find? (fun p => decide (p.1 ≤ off + i) && decide (off + i < p.1 + p.2.length)) with
      | some p => p.2.getD (off + i - p.1) 0xFF
      | none => 0xFF)

/-- The directory and image area A or B. -/
def dirOf (fl : BootFlash) (b : Bool) : Option (Nat × List DirEntry) := if b then fl.dirB else fl.dirA
def areaOf (fl : BootFlash) (b : Bool) : List (Nat × List Byte) := if b then fl.areaB else fl.areaA

/-- The loads of one tile: the last image entry that covers it, then the patch entries in directory order. -/
def tileLoads (area : List (Nat × List Byte)) (es : List DirEntry) (T : Nat) : List (Nat × Bool × List Byte) :=
  let mine := es.filter (fun e => dirCovers e T)
  match (mine.filter (fun e => e.typ == 1)).getLast? with
  | none => []
  | some i => (T, false, areaBytes area i.offset i.length) ::
      (mine.filter (fun e => e.typ == 2)).map (fun e => (T, true, areaBytes area e.offset e.length))

/-- Every load a directory asks for: PT0 comes last (R468). -/
def dirLoads (fl : BootFlash) (b : Bool) : List (Nat × Bool × List Byte) :=
  match dirOf fl b with
  | none => []
  | some (_, es) => ((List.range 256) ++ [257, 258, 259, 256]).flatMap (tileLoads (areaOf fl b) es)

/-- The directory a boot begins with: the valid one with the later SEQ. -/
def firstDir (fl : BootFlash) : Option Bool :=
  match fl.dirA, fl.dirB with
  | some a, some b => some (laterMod 32 a.1 b.1)
  | some _, none => some false
  | none, some _ => some true
  | none, none => none

/-! ## The steward (R465, R468, R469) -/

/-- Ends the boot. -/
def Dev.bootEnd (d : Dev) (result : Nat) : Dev :=
  { d with pwr := { d.pwr with steward := false, bootResult := result, bootQ := [], bootWait := false, bootWake := false } }.house pgHBOOT
    0x3500 (result + d.pwr.bootWarn * 256)

/-- The steward works from flash. -/
def Dev.flashBoot (d : Dev) : Bool := d.pwr.steward && d.pwr.bootFlash.isSome

/-- A boot from flash fails: mode 0b011 goes on as 0b010, mode 0b000 ends with the result. -/
def Dev.bootFail (d : Dev) (result : Nat) : Dev :=
  if d.pwr.bootMode = 3 then
    { d with pwr := { d.pwr with bootWarn := setBit d.pwr.bootWarn 4, bootQ := [], bootWait := false, bootFlash := none } }
  else d.bootEnd result

/-- Begins with a directory. -/
def Dev.bootDir (d : Dev) (fl : BootFlash) (b : Bool) : Dev :=
  { d with pwr := { d.pwr with bootB := b, bootSeq := match dirOf fl b with | some x => x.1 | none => 0
                               bootQ := dirLoads fl b, bootDone := [], bootWait := false } }

/-- Begins the boot. -/
def Dev.bootStart (d : Dev) : Dev :=
  if 4 ≤ d.pwr.bootMode then d.bootEnd 1
  else match d.pwr.bootFlash with
    | none => d
    | some fl =>
      if fl.ok = false then d.bootFail 2
      else match firstDir fl with
        | none => d.bootFail 3
        | some b => d.bootDir fl b

/-- A load of the steward failed: the tiles loaded are reset, and the other directory is tried once. -/
def Dev.bootRetry (d : Dev) : Dev :=
  let d := d.pwr.bootDone.eraseDups.foldl (fun d T => d.tileReset T) d
  let d : Dev := { d with pwr := { d.pwr with bootDone := [], bootWait := false } }
  match d.pwr.bootFlash with
  | none => d
  | some fl =>
    if bitOf d.pwr.bootWarn 1 ∨ (dirOf fl (!d.pwr.bootB)).isNone then d.bootFail 4
    else { d with pwr := { d.pwr with bootWarn := setBit d.pwr.bootWarn 1 } }.bootDir fl (!d.pwr.bootB)

/-- The saved settings go to the landing (R126): warning 2 without a valid slot, 3 when one slot is valid and a save has been
made to the other. -/
def Dev.bootSettings (d : Dev) : Dev :=
  if d.pwr.bootWake then d
  else
    let one := (d.sq.flashA.any (·.valid)) != (d.sq.flashB.any (·.valid))
    match d.flashInUse with
    | none => { d with pwr := { d.pwr with bootWarn := setBit d.pwr.bootWarn 2 } }
    | some (_, f) =>
      let d := if one && decide (2 ≤ f.seq) then { d with pwr := { d.pwr with bootWarn := setBit d.pwr.bootWarn 3 } } else d
      { d with regs := { d.regs with staged := Tab.ovr d.regs.staged f.words } }

/-- The steward places its next image and queues the load, once the tiles before are online. -/
def Dev.bootPump (d : Dev) : Dev × List MemOp :=
  if d.flashBoot = false ∨ d.pwr.bootWait then (d, [])
  else if d.pwr.bootDone.any (fun T => (d.engOf T).ldResult == 0x0A) then (d.bootRetry, [])
  else if d.pwr.bootDone.any (fun T => (d.engOf T).inInit) then (d, [])
  else match d.pwr.bootQ with
    | [] => (d.bootRetry, [])
    | (T, p, bs) :: _ =>
      let d := if T = 256 ∧ p = false then d.bootSettings else d
      let d := d.setIm (A.TENG_LDADDR T) F.TENG_LDADDR_ADDR 0
      let d := if (d.engOf T).st = .offline then d else d.tileReset T
      let d := d.setEng T { d.engOf T with ldQueued := true, ldPatch := p }
      ({ d with loadQ := d.loadQ.filter (· != T) ++ [T], pwr := { d.pwr with bootWait := true } }, [.store 0 bs])

/-- What the steward makes of the end of a load of tile `T`. -/
def Dev.bootAfter (d : Dev) (T : Nat) : Dev :=
  let passed := (d.engOf T).inInit
  if d.flashBoot = false then (if d.pwr.steward && passed && T == 256 then d.bootEnd 0 else d)
  else match d.pwr.bootQ with
    | [] => d
    | (T', _, _) :: rest =>
      if d.pwr.bootWait = false ∨ T' ≠ T then d
      else if passed = false then d.bootRetry
      else
        let d : Dev := { d with pwr := { d.pwr with bootQ := rest, bootWait := false, bootDone := d.pwr.bootDone ++ [T] } }
        if T = 256 ∧ rest = [] then d.bootEnd 0 else d

/-- LOAD_START, with the steward's part. -/
def loadStartAll (d : Dev) : Dev × List MemOp :=
  let r := d.bootPump
  (loadStart r.1, r.2)

/-- LOAD_END, with the steward's part. -/
def loadEndAll (T : Nat) (d : Dev) (m : Mem) : Dev × List MemOp :=
  let was := (d.engOf T).st == .loading
  let r := loadEnd T d m
  if was then (r.1.bootAfter T, r.2) else r

/-- What HBOOT_STAT shows. -/
def Dev.hbootStat (d : Dev) : Nat :=
  (if d.pwr.steward then 0xFF else d.pwr.bootResult) + d.pwr.bootWarn % 256 * 2 ^ 8 + b2n d.pwr.bootB * 2 ^ 16 +
  b2n (!d.pwr.steward) * 2 ^ 17 + d.pwr.bootMode % 8 * 2 ^ 18

/-! ## The release of device reset (R464, R480) -/

/-- A word of a register whose reset value OTP gives (R456, HPWR_AVS): staged and live. -/
def Dev.resetSetting (d : Dev) (a : Nat) (f : Fld) (v : Nat) : Dev :=
  { d with regs := { d.regs with staged := Tab.set d.regs.staged a (fput (d.stg a) f v), live := Tab.set d.regs.live a (fput (d.lvW a) f v) } }

/-- DEVICE_RESET_RELEASE: the straps are sampled, OTP is read, the hallway opens, the store groups are activated and the steward
runs. After a thermal trip the release waits for the temperature (R453). -/
def deviceResetRelease (st : Straps) (otp : List Word) (bad : List Nat) (flash : BootFlash) (d : Dev) : Dev :=
  if d.pwr.inReset = false ∨ d.pwr.thermalHold then d
  else
    let fuses := Tab.ovr ((otp.take 64).zipIdx.map (fun x => (x.2, x.1))) d.pwr.otpNew
    let d : Dev := { d with pwr := { d.pwr with
      inReset := false, hallwayOpen := true, supplyLow := [], side := st.sideB, bootMode := st.bootMode % 8, oscDly := st.oscDly % 16
      celRc := st.celRc, ocxoWait := true, otp := fuses, otpBad := bad ++ d.pwr.otpFail, otpNew := [], otpFail := []
      bootWarn := b2n (!(bad ++ d.pwr.otpFail).isEmpty)
      bootFlash := if st.bootMode % 8 = 0 ∨ st.bootMode % 8 = 3 then some flash else none } }
    let d := d.emit (.hallway true)
    let w24 := d.otpWord 24 % 65536
    let w25 := d.otpWord 25 % 1024
    let d := d.resetSetting A.HGOV_CFG F.HGOV_CFG_BUDGET (if w24 = 0 then 400 else w24)
    let d := d.resetSetting A.HPWR_AVS F.HPWR_AVS_VMAX (if w25 = 0 then 850 else w25)
    let d := (List.range 4).foldl (fun d q => d.govReq 1 q) d
    d.bootStart

/-! ## The commands -/

/-- LOAD_START -/
def execLoadStart (s : State) : Res := onMem (fun d _ => loadStartAll d) s
/-- LOAD_END -/
def execLoadEnd (T : Nat) (s : State) : Res := onMem (loadEndAll T) s
/-- DEVICE_RESET_RELEASE -/
def execDeviceResetRelease (st : Straps) (otp : List Word) (otpBad : List Nat) (flash : BootFlash) (s : State) : Res :=
  onAny (fun d _ => (deviceResetRelease st otp otpBad flash d, [])) s

end Sys2Proof.Machine
end

