-- ==== Sys2Proof/Machine/Ranges.lean ====
section
/-! DEFINITION. Rule 0x01 FIELD_RANGE word by word (R116): the ranges and reserved encodings that the register tables
state for the staged fields. The rules that span several registers stand in Rules.lean. -/
namespace Sys2Proof.Machine

/-- A staged word of the house pages breaks the range of one of its fields. -/
def houseWordBad (id : RegId) (v : Word) : Bool :=
  let g (f : Fld) : Nat := fget v f
  match id with
  | .HCAP_CFG => g F.HCAP_CFG_THRESH == 0
  | .HREF_IN => decide (13 < g F.HREF_IN_FMT)
  | .HREF_OUT => decide (13 < g F.HREF_OUT_FMT)
  | .HREF_PPS => g F.HREF_PPS_WIDTH == 0
  | .HRING_CFG => g F.HRING_CFG_ROLE == 3
  | .HOWN_CFG => g F.HOWN_CFG_LAPSE_N == 0
  | .QIRQ_DOM => decide (2040 < g F.QIRQ_DOM_VBASE)
  | .HIRQ_DOM => decide (2040 < g F.HIRQ_DOM_VBASE)
  | .HCLK_GATE_RUN => g F.HCLK_GATE_RUN_PCIE == 0
  | .HPWR_AVS =>
    decide (g F.HPWR_AVS_VMIN < 600) || decide (g F.HPWR_AVS_VMAX < g F.HPWR_AVS_VMIN) || decide (850 < g F.HPWR_AVS_VMAX)
  | .HPWR_TWARN => decide (150 < g F.HPWR_TWARN_WARN)
  | .ZYN_CFG => g F.ZYN_CFG_TOFS_LIM == 0 || decide (5000 < g F.ZYN_CFG_TKO_DLY)
  | .ZYN_PROLE => (List.range 16).any (fun i => fget v ⟨2 * i, 2⟩ == 3)
  | .HRAS_TURN => decide (g F.HRAS_TURN_TURN0 < 1000) || decide (g F.HRAS_TURN_TURN1 < 1000)
  | .POOL_CFG =>
    g F.POOL_CFG_EN == 1 && (decide (0x100 < g F.POOL_CFG_DOM) || g F.POOL_CFG_COUNT == 0 ||
      decide (512 < g F.POOL_CFG_FIRST + g F.POOL_CFG_COUNT))
  | .PRT_HCFG => g F.PRT_HCFG_THRESH == 0 || decide (256 < g F.PRT_HCFG_THRESH)
  | .PRT_SUB => g F.PRT_SUB_MEDIA == 3 || decide (g F.PRT_SUB_MAXLEN < 64) || decide (2048 < g F.PRT_SUB_MAXLEN)
  | _ => false

/-- A staged word of a flow channel block breaks a range; `dir` is the resulting DIR, `ess` the resulting ESS. -/
def flowWordBad (id : RegId) (dir ess : Nat) (v : Word) : Bool :=
  let g (f : Fld) : Nat := fget v f
  match id with
  | .FCH_MODE =>
    g F.FCH_MODE_DIR == 3 || g F.FCH_MODE_ESS == 7 || (dir == 1 && g F.FCH_MODE_MPATH == 3) || (dir == 2 && g F.FCH_MODE_PACE == 3)
  | .FCH_RTP => g F.FCH_RTP_RTP_CLK == 3
  | .FCH_MERGE =>
    let w := g F.FCH_MERGE_WIN
    decide (ess ≤ 5) && (w % 64 != 0 || decide (w < 64) || decide ((if ess = 0 then 32768 else 16384) < w))
  | .FCH_CMAX => g F.FCH_CMAX_CMAX == 0 || g F.FCH_CMAX_VRX_FULL == 0
  | .FCH_HIST => g F.FCH_HIST_HW == 0
  | .FCH_EBPS => decide (g F.FCH_EBPS_LMAX < 64) || decide (2048 < g F.FCH_EBPS_LMAX)
  | _ => false

/-- A staged word of a pin channel, a timer, a trip, an axis or a group breaks a range. -/
def pinWordBad (id : RegId) (v : Word) : Bool :=
  let g (f : Fld) : Nat := fget v f
  match id with
  | .PCH_MODE => decide (12 < g F.PCH_MODE_MODE)
  | .PCH_PNUM1 => g F.PCH_PNUM1_PDEN == 0
  | .PCH_PWM => g F.PCH_PWM_RFR_N == 0
  | .PCH_DUTY0 => decide (2 ^ 24 < g F.PCH_DUTY0_DUTY)
  | .PCH_IN => g F.PCH_IN_EDGE == 0
  | .PCH_LIM => g F.PCH_LIM_CHAT_N != 0 && g F.PCH_LIM_CHAT_W == 0
  | .PCH_GHOLD => decide (2 ^ 24 < g F.PCH_GHOLD_HOLD_DUTY)
  | .TMR_CFG => g F.TMR_CFG_DIR == 3 || g F.TMR_CFG_START == 3
  | .TMR_TICK => g F.TMR_TICK_TICK == 0
  | _ => false

/-- A staged word of an angle unit, a room, a pantry window, a tile, a DMA channel or a check unit breaks a range. -/
def otherWordBad (id : RegId) (v : Word) : Bool :=
  let g (f : Fld) : Nat := fget v f
  match id with
  | .AU_GEOM => decide (g F.AU_GEOM_NT < 2) || decide (1024 < g F.AU_GEOM_NT)
  | .AU_TRK => g F.AU_TRK_TOL == 0 || g F.AU_TRK_DIRQ == 0 || g F.AU_TRK_SUBST_WIN == 0
  | .AU_STALL => g F.AU_STALL_STALL_T == 0
  | .AU_GEAR => g F.AU_GEAR_GNUM == 0 || g F.AU_GEAR_GDEN == 0
  | .AU_EXP => g F.AU_EXP_FMT == 0 || decide (13 < g F.AU_EXP_FMT)
  | .AU_HOLD => decide (g F.AU_HOLD_HOLD_MAX < 10) || decide (10000 < g F.AU_HOLD_HOLD_MAX)
  | .AU_RTP => decide (g F.AU_RTP_PT < 96)
  | .TENG_CFG => decide (g F.TENG_CFG_SLICE < 64) || decide (g F.TENG_CFG_WAIT_MAX < 16)
  | .TPAN_WIN => decide (511 < g F.TPAN_WIN_BASE + g F.TPAN_WIN_SIZE)
  | .CVU_CFG => g F.CVU_CFG_SPACE == 3 || decide (259 < g F.CVU_CFG_T) || g F.CVU_CFG_TRIG == 3 || g F.CVU_CFG_N == 0
  | .CVU_LEN => decide (g F.CVU_LEN_LEN < 8) || decide (2 ^ 29 < g F.CVU_LEN_LEN)
  | _ => false

/-- The DIR and the ESS under a view of the channel whose block holds an address; 0 for other pages. -/
def dirEssAt (w : View) (a : Nat) : Nat × Nat :=
  match pageOf a with
  | .fch T j =>
    let fc := fcOfSlot T j ((a % 0x800 - 0x40) / 0xB0)
    (fcDir w fc, fcEss w fc)
  | _ => (0, 0)

/-- A staged word breaks rule 0x01 by itself. The words whose layout depends on the direction of their channel are judged
in the layout of the resulting DIR, and not at all while the channel is OFF. -/
def wordBad (w : View) (a : Nat) (v : Word) : Bool :=
  let de := dirEssAt w a
  match descAt (de.1 == 2) a with
  | some (r, _) =>
    match pageOf a with
    | .fch _ _ => (r.id == .FCH_MODE || de.1 == 1 || de.1 == 2) && flowWordBad r.id de.1 de.2 v
    | .pch _ _ | .ttmr _ => pinWordBad r.id v
    | .au _ | .teng _ | .tpan _ | .cvu _ => otherWordBad r.id v
    | _ => houseWordBad r.id v
  | none => false

end Sys2Proof.Machine
end

