-- ==== Sys2Proof/Machine/Rules.lean ====
section
/-! DEFINITION. The check rules of R116 that span several registers, one definition per group of rules; each answers its
failures as (code, BAR0 address of the field named). -/
namespace Sys2Proof.Machine

/-- A reading of a bank: an unlisted word has its reset value. -/
def viewOf (bank : Tab Word) : View := fun a => (Tab.get? bank a).getD (resetWord false a)

/-- What a check looks at: the device, the commit's domain, its pending bank, and the whole settings that would result. -/
structure Cx where
  d : Dev
  dom : Nat
  bank : Tab Word
  res : Tab Word

def Cx.w (x : Cx) : View := viewOf x.res
/-- The settings of a flow channel block, by block offset. -/
def Cx.fw (x : Cx) (fc : Nat) : Tab Word := blockWords x.res fc
/-- The settings of a pin channel block. -/
def Cx.pw (x : Cx) (pc : Nat) : Tab Word := pinWords x.res pc
def Cx.house (x : Cx) : Bool := x.dom == houseDom
/-- The ingress and the egress channels that would result, and the pin channels in use. -/
def Cx.ins (x : Cx) : List Nat := (activeFcs x.w (bankKeys x.res)).filter (fun fc => fcDir x.w fc == 1)
def Cx.egs (x : Cx) : List Nat := (activeFcs x.w (bankKeys x.res)).filter (fun fc => fcDir x.w fc == 2)
def Cx.pcs (x : Cx) : List Nat := activePcs x.w (bankKeys x.res)
/-- A channel is the commit's own. -/
def Cx.mineFc (x : Cx) (fc : Nat) : Bool := fcHolder x.w fc == x.dom
def Cx.minePc (x : Cx) (pc : Nat) : Bool := pcHolder x.w pc == x.dom

abbrev Fails := List (Nat × Nat)

/-- The rule fails at an address. -/
def failIf (c : Bool) (rule a : Nat) : Fails := if c then [(rule, a)] else []

/-! ## The house: rules 0x02, 0x03, 0x07 (R82, R116, R456) -/

/-- P in TU × DEN, for the resulting settings, with DEN. -/
def Cx.period (x : Cx) : Nat × Nat := periodOf x.w

def Cx.hearth (x : Cx) : Fails :=
  let w := x.w
  let p := x.period
  let prog := w.b A.HEPC_CFG F.HEPC_CFG_MODE
  let rate := w.f A.HEPC_CFG F.HEPC_CFG_RATE
  let bad := if prog then p.1 == 0 || p.2 == 0 else w.f A.HEPC_CFG F.HEPC_CFG_FRAMES == 0 || rate == 0 || decide (13 < rate)
  let drain := w.f A.HSNP_CFG F.HSNP_CFG_DRAIN
  let guard_ := w.f A.HCOM_CFG F.HCOM_CFG_GUARD
  let slew := w.f A.HTIM_SLEW F.HTIM_SLEW_RATE
  let bud := w.f A.HGOV_CFG F.HGOV_CFG_BUDGET
  failIf (bad || decide (p.1 * 1000 < p.2) || decide (p.2 < p.1)) 0x02 A.HEPC_CFG ++
  failIf (decide (slew < 1) || decide (500 < slew)) 0x02 A.HTIM_SLEW ++
  failIf (w.b A.HTIM_UTC F.HTIM_UTC_LI61 && w.b A.HTIM_UTC F.HTIM_UTC_LI59) 0x02 A.HTIM_UTC ++
  failIf (decide (drain < 2) || decide (200 < drain) || w.f A.HSNP_CFG F.HSNP_CFG_PIN_LIMIT == 0) 0x03 A.HSNP_CFG ++
  failIf (!bad && decide (p.1 * 1000000 < 5 * drain * p.2)) 0x03 A.HEPC_CFG ++
  failIf (decide (guard_ < 10) || decide (500 < guard_)) 0x03 A.HCOM_CFG ++
  failIf (decide (bud < 10) || decide (2000 < bud) ||
    (x.d.sq.firstApplied && bud != x.d.lv A.HGOV_CFG F.HGOV_CFG_BUDGET)) 0x07 A.HGOV_CFG

/-! ## Shares, windows, budgets: rules 0x01, 0x11, 0x12, 0x16 (R342, R344, R370) -/

/-- Tiles with a share word in the settings. -/
def shareTiles (keys : List Nat) : List Nat :=
  (keys.filterMap (fun a => match pageOf a with
    | .hras j => if j < 5 then some (62 * j + (a % 0x800 - 0x40) / 0x20) else none
    | _ => none)).eraseDups

/-- Some two members of a list, in order, are related. -/
def anyPair {α : Type} (r : α → α → Bool) : List α → Bool
  | [] => false
  | a :: t => t.any (r a) || anyPair r t

/-- Two ranges [a, a + n) and [b, b + m) meet. -/
def meets (a n b m : Nat) : Bool := decide (a < b + m) && decide (b < a + n) && decide (0 < n) && decide (0 < m)

/-- t7 of the resulting mode in 0.01 ns, and T_x in ns (R344, R349). -/
def Cx.heat (x : Cx) : Bool := x.w.f A.HCFG_MODE F.HCFG_MODE_MODE == 3
def Cx.t7 (x : Cx) : Nat := if x.heat then 540 else 320
def Cx.tx (x : Cx) : Nat := if x.heat then 2200 else 1300

/-- The floor throughput W of a tile (R344). -/
def Cx.floorWords (x : Cx) : Nat := x.period.1 * 1000000000 * 100 / (max 1 x.period.2 * x.t7)

/-- The overdraft bound V of a tile (R344). -/
def Cx.overdraft (x : Cx) (T : Nat) : Nat :=
  let wm := max (x.w.f (A.TENG_CFG T) F.TENG_CFG_WAIT_MAX) (8 * x.tx)
  2 * x.w.f (A.TENG_CFG T) F.TENG_CFG_SLICE + max 16 ((wm * 100 + x.t7 - 1) / x.t7)

def Cx.shares (x : Cx) : Fails :=
  (shareTiles (bankKeys x.res)).flatMap (fun T =>
    let w := x.w
    let l := sharesOf w T
    let win (s : Share) : Nat × Nat := (w.f (A.TPAN_WIN T s.s) F.TPAN_WIN_BASE, w.f (A.TPAN_WIN T s.s) F.TPAN_WIN_SIZE)
    let wide (s : Nat) : Bool := decide (chansOf T < w.f (A.HRAS_SHA T s) F.HRAS_SHA_K0 + w.f (A.HRAS_SHA T s) F.HRAS_SHA_KN)
    failIf ([0, 1, 2, 3].any wide || anyPair (fun a b => a.room == b.room) l) 0x01 (A.HRAS_SHA T 0) ++
    failIf (anyPair (fun a b => meets a.k0 a.kn b.k0 b.kn) l) 0x11 (A.HRAS_SHA T 0) ++
    failIf (anyPair (fun a b => meets (win a).1 (win a).2 (win b).1 (win b).2) l) 0x11 (A.HRAS_SHA T 0) ++
    failIf (decide (T < 256) && decide (256 < (l.map (fun s => s.dpw + 1)).foldl (· + ·) 0)) 0x12 (A.HRAS_SHA T 0) ++
    failIf (decide (0 < x.period.1) && decide (x.floorWords < (l.map (·.budget)).foldl (· + ·) 0)) 0x16 (A.HRAS_SHB T 0))

/-- The room half of rule 0x16 on room `r`, and rule 0x10 for a demand without a share. -/
def Cx.demandsOf (x : Cx) (r : Nat) : Fails :=
  (List.range 260).flatMap (fun T =>
    let a := A.ROOM_DEMAND r T
    let dem := x.w.f a F.ROOM_DEMAND_DEMAND
    match roomShare x.w T r with
    | some s => failIf (decide (s.budget < dem + x.overdraft T)) 0x16 (A.HRAS_SHB T s.s)
    | none => failIf (dem != 0) 0x10 a)

/-- The rooms whose demands a commit is checked against: its own room; for a house commit every room that has stated one (R118). -/
def Cx.demands (x : Cx) : Fails :=
  if x.house then
    ((bankKeys x.res).filterMap (fun a => match pageOf a with
      | .room r 1 => if a % 0x1000 < 0x450 ∧ x.w a ≠ 0 then some r else none
      | _ => none)).eraseDups.flatMap x.demandsOf
  else x.demandsOf x.dom

/-! ## Port contracts: rules 0x01, 0x17 (R350) -/

/-- The enabled contracts: entry, room, port. -/
def contractsOf (w : View) (keys : List Nat) : List (Nat × Nat × Nat) :=
  ((keys.filterMap (fun a => match pageOf a with
    | .hras 5 => some ((a % 0x800 - 0x40) / 8)
    | .hras 6 => some (248 + (a % 0x800 - 0x40) / 8)
    | _ => none)).eraseDups.filter (fun i => w.b (A.HRAS_CON0 i) F.HRAS_CON0_EN)).map (fun i =>
      (i, w.f (A.HRAS_CON0 i) F.HRAS_CON0_ROOM, w.f (A.HRAS_CON0 i) F.HRAS_CON0_PORT))

def Cx.contracts (x : Cx) : Fails :=
  let w := x.w
  let l := contractsOf w (bankKeys x.res)
  l.flatMap (fun c => failIf (!(isSub w c.2.2) || w.f (A.HRAS_CON0 c.1) F.HRAS_CON0_BURST == 0) 0x01 (A.HRAS_CON0 c.1)) ++
  l.flatMap (fun c => failIf (l.any (fun e => decide (c.1 < e.1) && e.2 == c.2)) 0x01 (A.HRAS_CON0 c.1)) ++
  (l.map (·.2.2)).eraseDups.flatMap (fun p =>
    let on := l.filter (fun c => c.2.2 == p)
    let sum (f : Fld) : Nat := (on.map (fun c => w.f (A.HRAS_CON1 c.1) f)).foldl (· + ·) 0
    let rate := laneWidth w (p / 8) * 5000
    failIf (decide (rate < sum F.HRAS_CON1_IN) || decide (rate < sum F.HRAS_CON1_OUT)) 0x17 (A.HRAS_CON1 ((on.map (·.1)).headD 0)))

/-! ## Egress loads: rules 0x12 to 0x15, 0x17, 0x18 (R38, R47, R195, R342, R350) -/

/-- A scheduled egress channel that is bound to a source. -/
def Cx.sched (x : Cx) : List Nat := x.egs.filter (fun fc => fcMode x.w fc F.FCH_MODE_CLASS == 0 && egWants (x.fw fc))

def Cx.bps (x : Cx) (fc : Nat) : Nat := ef (x.fw fc) 0x74 F.FCH_EBPS_PEAK_BPS
def Cx.pps (x : Cx) (fc : Nat) : Nat := ef (x.fw fc) 0x70 F.FCH_EPPS_PEAK_PPS
def Cx.srcOf (x : Cx) (fc : Nat) : Nat := egSrc (x.fw fc)

/-- The scheduled flows of a list of egress channels as (tile, channel, Mbit/s, packets per second): each egress channel on
its tile, and each source on its own with the larger peak of its readers. -/
def Cx.loads (x : Cx) (l : List Nat) : List (Nat × Nat × Nat × Nat) :=
  l.map (fun fc => (fc / 128, fc, x.bps fc, x.pps fc)) ++
  (l.map x.srcOf).eraseDups.map (fun s =>
    let rs := l.filter (fun fc => x.srcOf fc == s)
    (s / 128, s, (rs.map x.bps).foldl max 0, (rs.map x.pps).foldl max 0))

/-- Rule 0x12: a tile's load against its floors, or a room's against its share of them. -/
def Cx.tileFloor (x : Cx) : Fails :=
  let sel := if x.house then x.sched else x.sched.filter x.mineFc
  let lo := (x.loads sel).filter (fun e => x.house || fcHolder x.w e.2.1 == x.dom)
  let f : Nat × Nat := if x.heat then (60000, 24000000) else (100000, 40000000)
  (lo.map (·.1)).eraseDups.flatMap (fun T =>
    let on := lo.filter (fun e => e.1 == T)
    let b := (on.map (·.2.2.1)).foldl (· + ·) 0
    let p := (on.map (·.2.2.2)).foldl (· + ·) 0
    let n := if x.house then 256 else match roomShare x.w T x.dom with | some s => s.dpw + 1 | none => 0
    failIf (decide (f.1 * n < b * 256) || decide (f.2 * n < p * 256)) 0x12 (A.FCH_MODE ((on.map (·.2.1)).foldl min (128 * T + 127))))

/-- The crossings of a flow between quadrants, as (from, to, Mbit/s). -/
def crossing (a b n : Nat) : List (Nat × Nat × Nat) := if a = b then [] else [(a, b, n)]

/-- Rule 0x13: the spine into and out of each quadrant. R117 asks for two halves, and no rule allots the spine to rooms: the house half
judges the loads as they are scheduled, the room half a room's own load against the whole floor (DESIGN CHOICE, log entry 94). -/
def Cx.spine (x : Cx) : Fails :=
  let sel := if x.house then x.sched else x.sched.filter x.mineFc
  let srcs := (x.loads sel).drop sel.length
  let cr := srcs.flatMap (fun s =>
      ([0, 1].filterMap (fun p =>
        let port := x.w.f (A.FCH_KEYP s.2.1 p) F.FCH_KEYP_PORT
        if port < 128 ∧ (p = 0 ∨ fcMode x.w s.2.1 F.FCH_MODE_MERGE = 1) then some port else none)).flatMap (fun port =>
          crossing (port / 32) (s.1 / 64) s.2.2.1)) ++
    sel.flatMap (fun fc =>
      crossing (x.srcOf fc / 8192) (fc / 8192) (x.bps fc) ++ crossing (fc / 8192) (egPort (x.fw fc) / 32) (x.bps fc))
  let lim : Nat := if x.heat then 2000000 else 3200000
  (List.range 4).flatMap (fun q =>
    failIf (decide (lim < ((cr.filter (fun c => c.1 == q)).map (·.2.2)).foldl (· + ·) 0) ||
      decide (lim < ((cr.filter (fun c => c.2.1 == q)).map (·.2.2)).foldl (· + ·) 0)) 0x13 (A.FCH_MODE (sel.foldl min 32767)))

/-- Rules 0x14 and 0x15: the network cap of the mode, cut-through outside LOW_LATENCY. The halves of R117 are those of the spine
(DESIGN CHOICE, log entry 94). -/
def Cx.netCap (x : Cx) : Fails :=
  let sel := if x.house then x.sched else x.sched.filter x.mineFc
  let cap := match x.w.f A.HCFG_MODE F.HCFG_MODE_MODE with | 0 => 6400000 | 1 => 4800000 | 2 => 6400000 | _ => 4000000
  let cut := (x.egs.filter (fun fc => x.house || x.mineFc fc)).filter (fun fc => fcMode x.w fc F.FCH_MODE_CUT == 1)
  failIf (decide (cap < (sel.map x.bps).foldl (· + ·) 0)) 0x14 A.HCFG_MODE ++
  (if x.w.f A.HCFG_MODE F.HCFG_MODE_MODE = 2 then [] else cut.map (fun fc => (0x15, A.FCH_MODE fc)))

/-- The room half of rule 0x17. -/
def Cx.portUse (x : Cx) : Fails :=
  let sel := x.sched.filter x.mineFc
  let con := contractsOf x.w (bankKeys x.res)
  (sel.map (fun fc => egPort (x.fw fc))).eraseDups.flatMap (fun p =>
    let on := sel.filter (fun fc => egPort (x.fw fc) == p)
    let sum := (on.map x.bps).foldl (· + ·) 0
    match con.find? (fun c => c.2.1 == x.dom && c.2.2 == p) with
    | some c => failIf (decide (x.w.f (A.HRAS_CON1 c.1) F.HRAS_CON1_OUT * 10 < sum)) 0x17 (A.HRAS_CON1 c.1)
    | none => [(0x17, A.FCH_ESRC (on.foldl min 32767))])

/-- b_c and τ_c of a scheduled channel, τ in TU as a fraction (R195). -/
def Cx.burst (x : Cx) (fc : Nat) : Nat × Nat × Nat :=
  let ws := x.fw fc
  let s := x.srcOf fc
  let ess := fcEss x.w fc
  if fcMode x.w fc F.FCH_MODE_CUT = 1 then
    let cm := x.w.f (A.FCH_CMAX s) F.FCH_CMAX_CMAX
    (cm, cm * (x.w.f (A.FCH_TDRAIN s) F.FCH_TDRAIN_NS * 65536 + x.w.f (A.FCH_FRAC s) F.FCH_FRAC_TDRAIN_FR), 1)
  else if ess = 2 ∨ ess = 3 then (1, (tper ws).1 * secTU, (tper ws).2)
  else (egG ws, egG ws * egTrs ws, 1)

/-- Rule 0x18 on one sub-port, in the halves of the spine (DESIGN CHOICE, log entry 94). Octet times are bits × TU per second over the sub-port's rate. -/
def Cx.calendarOn (x : Cx) (on : List Nat) (p : Nat) : Bool :=
  let r := laneWidth x.w (p / 8) * 50000000000
  let bits (l : Nat) : Nat := (l + 20) * 8 * secTU
  let lmax (fc : Nat) : Nat := ef (x.fw fc) 0x74 F.FCH_EBPS_LMAX
  let u := on.foldl (fun (a : Nat × Nat) fc =>
    let b := x.burst fc
    (a.1 * (r * b.2.1) + b.1 * bits (lmax fc) * b.2.2 * a.2, a.2 * (r * b.2.1))) (0, 1)
  let bp := (on.map (fun fc => (x.burst fc).1 * bits (lmax fc))).foldl (· + ·) 0 + bits 2048
  decide (u.1 * 100 ≤ u.2 * 95) && decide (0 < u.2) &&
    on.all (fun fc => decide (bp ≤ ef (x.fw fc) 0x78 F.FCH_ESLIP_SLIP_LIM * nsTU * r))

def Cx.calendar (x : Cx) : Fails :=
  let sel := (if x.house then x.sched else x.sched.filter x.mineFc).filter (fun fc => decide (egPort (x.fw fc) < 128))
  (sel.map (fun fc => egPort (x.fw fc))).eraseDups.flatMap (fun p =>
    let on := sel.filter (fun fc => egPort (x.fw fc) == p)
    failIf (!(x.calendarOn on p)) 0x18 (A.FCH_MODE (on.foldl min 32767)))

/-! ## The store: rules 0x10, 0x11, 0x19 (R197, R365) -/

/-- Channels whose live or resulting SRC names a source (R185, R197). -/
def Cx.readers (x : Cx) (s : Nat) : List Nat :=
  let lv := activeFcs x.d.live (bankKeys x.d.regs.live)
  let names (ws : Tab Word) : Bool := egWants ws && egSrc ws == s
  (x.egs ++ lv).eraseDups.filter (fun fc => names (x.fw fc) || names (blockWords x.d.regs.live fc))

/-- The buffers one reader asks of its source. -/
def Cx.readerBufs (x : Cx) (s fc : Nat) : Nat :=
  let one (ws : Tab Word) : Nat :=
    if egWants ws && egSrc ws == s then
      let paced := ef ws 0 F.FCH_MODE_CLASS == 0 && ef ws 0 F.FCH_MODE_CUT == 0
      let dd : Int := if paced then ((egDelay ws / nsTU : Nat) : Int) else 0
      let tr : Int := if paced then ((egTrof ws / nsTU : Nat) : Int) else 0
      let ns : Int := dd + max 0 (tr - sgn 32 (x.w.f (A.FCH_TROFS s) F.FCH_TROFS_TROFFSET)) + 20000
      (ef ws 0x70 F.FCH_EPPS_PEAK_PPS * ns.toNat + 999999999) / 1000000000
    else 0
  max (one (x.fw fc)) (one (blockWords x.d.regs.live fc))

/-- N of a source (R197), with the buffers of its window bitmap (R365). -/
def Cx.needOf (x : Cx) (s : Nat) : Nat :=
  let w := x.w
  let a := if w.f (A.FCH_NPKT s) F.FCH_NPKT_NPACKETS = 0 then w.f (A.FCH_CMAX s) F.FCH_CMAX_CMAX else w.f (A.FCH_CMAX s) F.FCH_CMAX_VRX_FULL
  let m := if fcMode w s F.FCH_MODE_MERGE = 1 then (w.f (A.FCH_MERGE s) F.FCH_MERGE_WIN + 16383) / 16384 else 0
  a + ((x.readers s).map (x.readerBufs s)).foldl max 0 + m

/-- The pool a source names: quadrant and number. -/
def Cx.poolOf (x : Cx) (fc : Nat) : Nat × Nat := (fc / 8192, x.w.f (A.FCH_POOL fc) F.FCH_POOL_POOL)

/-- A pool's buffers: those of its banks that are not retiring. -/
def Cx.poolBufs (x : Cx) (q P : Nat) : Nat := 128 * ((poolBanks x.w q P).filter (fun b => !(x.d.bankOf b).retiring)).length

def Cx.store (x : Cx) : Fails :=
  let mine := x.ins.filter (fun fc => x.house || x.mineFc fc)
  ((mine.map x.poolOf).eraseDups).flatMap (fun qp =>
    let need := ((x.ins.filter (fun fc => x.poolOf fc == qp)).map x.needOf).foldl (· + ·) 0
    failIf (decide (x.poolBufs qp.1 qp.2 < need)) 0x19 (A.POOL_CFG qp.1 qp.2))

/-- The pool of a channel is enabled for the domain (R365). -/
def poolFor (w : View) (q P dom : Nat) : Bool := poolEn w q P && w.f (A.POOL_CFG q P) F.POOL_CFG_DOM == dom

/-- The pool pages of a house commit. An octet whose PRT_HCFG stands at its reset value is not judged (DEDUCED):
no setting of it names a pool, and it gets buffers only where pool 0 is the house's (Dev.allocBuf). -/
def Cx.pools (x : Cx) : Fails :=
  let ps := (poolKeys (bankKeys x.res)).filter (fun k => poolEn x.w k.1 k.2)
  ps.flatMap (fun k =>
    let a := A.POOL_CFG k.1 k.2
    let dom := x.w.f a F.POOL_CFG_DOM
    let banks := poolBanks x.w k.1 k.2
    failIf (banks.any (fun b => (x.d.bankOf b).holder != dom)) 0x10 a ++
    failIf (ps.any (fun k' => k'.1 == k.1 && decide (k.2 < k'.2) && (poolBanks x.w k'.1 k'.2).any banks.contains) ||
      banks.any (fun b => (x.d.bankOf b).retiring && (x.d.bankOf b).pool != some k.2)) 0x11 a) ++
  ((poolKeys (bankKeys x.res)).filter (fun k => poolEn x.d.live k.1 k.2)).flatMap (fun k =>
    let a := A.POOL_CFG k.1 k.2
    failIf (x.d.lv a F.POOL_CFG_DOM != x.w.f a F.POOL_CFG_DOM) 0x11 a) ++
  (octetsOf (bankKeys x.res)).flatMap (fun n =>
    let h := A.PRT_HCFG n
    failIf ((List.range 8).any (fun k => x.w.b (A.PRT_SUB n k) F.PRT_SUB_EN) && x.w h != resetWord false h &&
      (!(poolFor x.w (n / 4) (x.w.f h F.PRT_HCFG_RXPOOL) houseDom) || !(poolFor x.w (n / 4) (x.w.f h F.PRT_HCFG_TXPOOL) houseDom))) 0x10 h)

/-! ## Ports and pairing of a house commit: rules 0x01, 0x42, 0x45 -/

def Cx.ports (x : Cx) : Fails :=
  (octetsOf (bankKeys x.res)).flatMap (fun n => (List.range 8).flatMap (fun k =>
    failIf (x.w.b (A.PRT_SUB n k) F.PRT_SUB_EN && decide (8 ≤ k * laneWidth x.w n)) 0x01 (A.PRT_CFG n)))

/-- The enabled cross-feed entries: entry and channel. -/
def crossFeeds (w : View) : List (Nat × Nat) :=
  ((List.range 256).filter (fun i => w.b (A.ZYN_XF i) F.ZYN_XF_EN)).map (fun i => (i, w.f (A.ZYN_XF i) F.ZYN_XF_FC))

def Cx.pairing (x : Cx) : Fails :=
  let w := x.w
  let xf := crossFeeds w
  failIf (w.f A.ZYN_CFG F.ZYN_CFG_PAIR_EN == 0 && (!xf.isEmpty || (List.range 16).any (fun i => w (A.ZYN_PROLE i) != 0))) 0x01 A.ZYN_CFG ++
  failIf (decide (3600 < (xf.map (fun e => w.f (A.ZYN_XF e.1) F.ZYN_XF_RATE)).foldl (· + ·) 0)) 0x45 (A.ZYN_XF ((xf.map (·.1)).headD 0)) ++
  xf.flatMap (fun e => failIf (fcDir w e.2 != 1 || xf.any (fun e' => decide (e.1 < e'.1) && e'.2 == e.2)) 0x45 (A.ZYN_XF e.1))

/-- A group, axis or complementary pair mixes roles (R427). -/
def Cx.roles (x : Cx) : Fails :=
  let w := x.w
  let mixed (l : List Nat) : Bool := match l with | [] => false | a :: t => t.any (fun b => roleOf w b != roleOf w a)
  if (List.range 16).all (fun i => w (A.ZYN_PROLE i) == 0) then []
  else
    ((List.range 64).filter (fun g => w.b (A.GRP_CFG g) F.GRP_CFG_EN && (x.house || grpHolder w g == x.dom))).flatMap (fun g =>
      failIf (mixed (grpPcs w g)) 0x42 (A.ZYN_PROLE 0)) ++
    ((List.range 32).filter (fun a => w.b (A.AX_OPT a) F.AX_OPT_EN && (x.house || axisHolder w a == x.dom))).flatMap (fun a =>
      failIf (mixed ([stepPin w a, dirPin w a, lposPin w a, lnegPin w a, homePin w a].filterMap id ++ drivePcs w a)) 0x42 (A.ZYN_PROLE 0)) ++
    (x.pcs.filter (fun pc => w.f (A.PCH_MODE pc) F.PCH_MODE_MODE == 5 && (x.house || x.minePc pc))).flatMap (fun pc =>
      failIf (mixed [pc - 1, pc]) 0x42 (A.ZYN_PROLE 0))

/-! ## Ingress channels: rules 0x01, 0x10, 0x1A (R163, R365) -/

/-- Words of a path's key from KEYU on. -/
def keyRest (w : View) (fc p : Nat) : List Word :=
  [w (A.FCH_KEYU fc p), w (A.FCH_KEYS fc p)] ++ (List.range 4).map (fun i => w (A.FCH_KEYIP fc p i))

/-- A path's key (R163): a key with PORT = 0xFF names no packet and its address is not judged (DESIGN CHOICE, log entry 102). -/
def ingressPath (w : View) (fc p : Nat) : Fails :=
  let a := A.FCH_KEYP fc p
  let port := w.f a F.FCH_KEYP_PORT
  if port = 0xFF then []
  else if port = 0xFE then failIf (p == 0 || (w a).toNat / 256 != 0 || (keyRest w fc p).any (· != 0)) 0x01 a
  else failIf (!(isSub w port)) 0x01 a ++
    failIf (w.f a F.FCH_KEYP_IPV6 == 0 && [1, 2, 3].any (fun i => w (A.FCH_KEYIP fc p i) != 0)) 0x01 (A.FCH_KEYIP fc p 0)

def Cx.ingressOne (x : Cx) (fc : Nat) : Fails :=
  let w := x.w
  let merge := fcMode w fc F.FCH_MODE_MERGE = 1
  let bnone := w.f (A.FCH_KEYP fc 1) F.FCH_KEYP_PORT = 0xFF
  let ess := fcEss w fc
  let frac := A.FCH_FRAC fc
  let qp := x.poolOf fc
  ingressPath w fc 0 ++ ingressPath w fc 1 ++
  failIf ((merge && bnone) || (!merge && !bnone) || (merge && ess == 6)) 0x01 (A.FCH_MODE fc) ++
  failIf (w.f (A.FCH_TDRAIN fc) F.FCH_TDRAIN_NS == 0 && w.f frac F.FCH_FRAC_TDRAIN_FR == 0) 0x01 (A.FCH_TDRAIN fc) ++
  failIf (decide (ess ≤ 1) && w.f (A.FCH_NPKT fc) F.FCH_NPKT_NPACKETS != 0 && w.f (A.FCH_TRS fc) F.FCH_TRS_NS == 0 &&
    w.f frac F.FCH_FRAC_TRS_FR == 0) 0x01 (A.FCH_TRS fc) ++
  failIf (w.f (A.FCH_POL0 fc) F.FCH_POL0_CIR != 0 && decide (w.f (A.FCH_POL1 fc) F.FCH_POL1_CBS < 1522)) 0x01 (A.FCH_POL0 fc) ++
  failIf (!(poolFor w qp.1 qp.2 x.dom)) 0x10 (A.FCH_POOL fc)

/-- The fields rule 0x1A compares: port, VLAN, address, UDP port, SSRC. -/
def keySig (w : View) (fc p : Nat) : List Nat :=
  let a := A.FCH_KEYP fc p
  [w.f a F.FCH_KEYP_PORT, w.f a F.FCH_KEYP_VLAN_EN, if w.b a F.FCH_KEYP_VLAN_EN then w.f a F.FCH_KEYP_VID else 0, w.f a F.FCH_KEYP_IPV6,
    w.f (A.FCH_KEYU fc p) F.FCH_KEYU_UDP, w.f a F.FCH_KEYP_SSRC_EN, if w.b a F.FCH_KEYP_SSRC_EN then (w (A.FCH_KEYS fc p)).toNat else 0] ++
  (List.range 4).map (fun i => (w (A.FCH_KEYIP fc p i)).toNat)

/-- The keys of a channel that a port compares: signature and address. -/
def keysOf (w : View) (fc : Nat) : List (List Nat × Nat) :=
  (if fcMode w fc F.FCH_MODE_MERGE = 1 then [0, 1] else [0]).filterMap (fun p =>
    if w.f (A.FCH_KEYP fc p) F.FCH_KEYP_PORT < 128 then some (keySig w fc p, A.FCH_KEYP fc p) else none)

/-- Rule 0x1A: own keys against every key of the result and those of other domains' commits in CHECKED, AGREEING or LOCKED. -/
def Cx.classify (x : Cx) : Fails :=
  let own := (x.ins.filter x.mineFc).flatMap (keysOf x.w)
  let others := (x.ins.filter (fun fc => !(x.mineFc fc))).flatMap (keysOf x.w)
  let pend := (x.d.sq.commits.filter (fun e => e.1 != x.dom && (e.2.st == .checked || e.2.st == .agreeing || e.2.st == .locked))).flatMap
    (fun e =>
      let bank := Tab.get x.d.regs.pending [] e.1
      let w := x.d.pendView e.1
      ((activeFcs w (bankKeys x.d.regs.live ++ bankKeys bank)).eraseDups.filter (fun fc =>
        fcDir w fc == 1 && (blockWords bank fc).isEmpty == false)).flatMap (keysOf w))
  own.flatMap (fun k =>
    failIf ((own ++ others ++ pend).any (fun e => e.1 == k.1 && decide (k.2 < e.2))) 0x1A k.2) ++
  (others ++ pend).flatMap (fun k => failIf (own.any (fun e => e.1 == k.1 && decide (k.2 < e.2))) 0x1A k.2)

/-! ## Egress channels: rules 0x01, 0x10 (R184, R185, R205, R207, R218) -/

def Cx.egressOne (x : Cx) (fc : Nat) : Fails :=
  let w := x.w
  let ws := x.fw fc
  let ess := fcEss w fc
  let m (f : Fld) : Nat := ef ws 0 f
  let per := ef ws 0x58 F.FCH_EPER_PER
  let be := m F.FCH_MODE_CLASS == 1
  let cut := m F.FCH_MODE_CUT == 1
  let paced := !be && !cut
  let port := egPort ws
  let s := egSrc ws
  failIf (paced && (ess == 6 || !(decide (1 ≤ per) && decide (per ≤ 13) || decide (16 ≤ per) && decide (per ≤ 20)))) 0x01 (A.FCH_MODE fc) ++
  failIf (paced && (ess == 0 || ess == 1 || ess == 4 || ess == 5) && egTrs ws == 0) 0x01 (A.FCH_MODE fc) ++
  failIf (decide (2000000000 < ef ws 0x60 F.FCH_EDLY_NS)) 0x01 (A.FCH_EDLY fc) ++
  failIf (m F.FCH_MODE_GRP != 0 && m F.FCH_MODE_PACE != 2) 0x01 (A.FCH_MODE fc) ++
  failIf (!(isSub w port)) 0x01 (A.FCH_ESRC fc) ++
  failIf ((be || cut) && m F.FCH_MODE_REW_TS == 1) 0x01 (A.FCH_MODE fc) ++
  failIf (cut && (be || ess == 6 || per != 0 || (ew ws 0x5C) != 0 || (ew ws 0x60) != 0 || (ew ws 0x64) != 0 || egTrs ws != 0 ||
    m F.FCH_MODE_GRP != 0 || ef ws 0x58 F.FCH_EPER_SW_WAIT != 0)) 0x01 (A.FCH_MODE fc) ++
  failIf (!be && ef ws 0x78 F.FCH_ESLIP_SLIP_LIM == 0) 0x01 (A.FCH_ESLIP fc) ++
  failIf (egWants ws && (fcDir w s != 1 || fcHolder w s != x.dom)) 0x10 (A.FCH_ESRC fc) ++
  failIf (egWants ws && decide (255 < (x.readers s).length)) 0x01 (A.FCH_ESRC fc)

def Cx.flows (x : Cx) : Fails :=
  (x.ins.filter x.mineFc).flatMap x.ingressOne ++ (x.egs.filter x.mineFc).flatMap x.egressOne ++
  (if x.house then
    (x.ins.filter (fun fc => !(x.mineFc fc))).flatMap (fun fc => ingressPath x.w fc 0 ++ ingressPath x.w fc 1) ++
    (x.egs.filter (fun fc => !(x.mineFc fc))).flatMap (fun fc => failIf (!(isSub x.w (egPort (x.fw fc)))) 0x01 (A.FCH_ESRC fc))
  else [])

/-! ## Migrations: rule 0x01 (R354) -/

def Cx.migrations (x : Cx) : Fails :=
  let w := x.w
  let lv := x.d.live
  let ch := (List.range 64).filter (fun i =>
    w.b (A.ROOM_MIG x.dom i) F.ROOM_MIG_EN && w (A.ROOM_MIG x.dom i) != lv (A.ROOM_MIG x.dom i))
  let ends (i : Nat) : Nat × Nat := (w.f (A.ROOM_MIG x.dom i) F.ROOM_MIG_OLD, w.f (A.ROOM_MIG x.dom i) F.ROOM_MIG_NEW)
  let all := ch.flatMap (fun i => [(ends i).1, (ends i).2])
  ch.flatMap (fun i =>
    let o := (ends i).1
    let n := (ends i).2
    let od := fcDir lv o
    let same := (0 :: (List.range 23).map (fun k => 0x10 + 4 * k)).all (fun off => w (A.FCH_MODE n + off) == lv (A.FCH_MODE o + off))
    let ok := x.mineFc o && x.mineFc n && (od == 1 || od == 2) && fcDir lv n == 0 && fcDir w o == 0 && fcDir w n == od &&
      all.count o == 1 && all.count n == 1 &&
      (if od = 1 then same && x.egs.all (fun e => !(egWants (x.fw e) && egSrc (x.fw e) == o))
       else egSrc (x.fw n) == egSrc (blockWords x.d.regs.live o))
    failIf (!ok) 0x01 (A.ROOM_MIG x.dom i))

/-! ## Pin channels: rules 0x01, 0x10, 0x1B (R252, R256, R284) -/

/-- The pin channel of a staged address. -/
def pcBlock (a : Nat) : Option Nat :=
  match pageOf a with
  | .pch q j =>
    let o := a % 0x1000
    let pc := pcOfSlot q j ((o - 0x40) / 0x140)
    if j < 15 ∧ 0x40 ≤ o ∧ o < 0x7C0 ∧ pc < 64 * (q + 1) then some pc else none
  | _ => none

/-- The pin channels whose words the settings list, in any mode. -/
def Cx.listed (x : Cx) : List Nat := ((bankKeys x.res).filterMap pcBlock).eraseDups

def Cx.pm (x : Cx) (pc : Nat) : Nat := x.w.f (A.PCH_MODE pc) F.PCH_MODE_MODE

/-- Minimum spacing in 1/16 ns. -/
def spacing16 (pc : Nat) : Nat := pinSpacing pc / 4096

def Cx.periodic (x : Cx) (pc : Nat) : Fails :=
  let ws := x.pw pc
  let mode := x.pm pc
  let num := pinPnum ws
  let den := pinPden ws
  let least := (if 60 ≤ pc % 64 then 8 else 32) * nsTU
  let a := pf ws 0x20 F.PCH_CMPA_NS * nsTU + pf ws 0x28 F.PCH_CMPFR_A_FR
  let b := pf ws 0x24 F.PCH_CMPB_NS * nsTU + pf ws 0x28 F.PCH_CMPFR_B_FR
  let sp := pinSpacing pc
  failIf (decide (num < least * den)) 0x01 (A.PCH_MODE pc + 0x10) ++
  failIf (decide (num ≤ pinPhase ws * den)) 0x01 (A.PCH_MODE pc + 0x10) ++
  failIf (mode == 2 && !(decide (a < b) && decide (b * den < num) && decide (sp ≤ b - a) && decide ((sp + (b - a)) * den ≤ num))) 0x01
    (A.PCH_MODE pc + 0x10)

def Cx.pwmRules (x : Cx) (pc : Nat) : Fails :=
  let ws := x.pw pc
  let g := pf ws 0 F.PCH_MODE_LOADGRP
  let mates := (x.pcs.filter (fun k => k / 64 == pc / 64 && decide (pc < k) && x.pm k == 4 && pcHolder x.w k == pcHolder x.w pc &&
    pf (x.pw k) 0 F.PCH_MODE_LOADGRP == g))
  failIf (g != 0 && mates.any (fun k => [0x10, 0x14, 0x18, 0x1C].any (fun o => Sys2Proof.Machine.pw (x.pw k) o != Sys2Proof.Machine.pw ws o) ||
    pf (x.pw k) 0 F.PCH_MODE_ALIGN != pf ws 0 F.PCH_MODE_ALIGN)) 0x01 (A.PCH_MODE pc)

/-- The bullets of R252 that hold in any mode: MINPW and the refresh window. -/
def Cx.widths (x : Cx) (pc : Nat) : Fails :=
  let ws := x.pw pc
  let rfrw := pf ws 0x34 F.PCH_PWMW_RFR_W
  let minpw := pf ws 0x34 F.PCH_PWMW_MINPW
  failIf (decide (minpw < spacing16 pc)) 0x01 (A.PCH_MODE pc + 0x34) ++
  failIf (pf ws 0x30 F.PCH_PWM_RFR_EN == 1 && (decide (rfrw < minpw + pf ws 0x30 F.PCH_PWM_DT) ||
    decide (pinPnum ws < 2 * sixteenth rfrw * pinPden ws))) 0x01 (A.PCH_MODE pc + 0x10)

/-- The partners a channel names: its PWM leader, its trigger's leader, its gate (R252). -/
def Cx.partners (x : Cx) (pc : Nat) : List (Nat × Nat) :=
  let ws := x.pw pc
  let q := pc / 64
  match x.pm pc with
  | 5 => if pc % 2 = 1 then [(pc - 1, A.PCH_MODE pc)] else []
  | 7 => if pf ws 0x48 F.PCH_IN_GATE_EN = 1 then [(64 * q + pf ws 0x48 F.PCH_IN_GATE, A.PCH_IN pc)] else []
  | 9 => [(64 * q + pf ws 0x44 F.PCH_TOUT_LEADER, A.PCH_TOUT pc)]
  | _ => []

/-- Rule 0x10 on what holder `h` has on a pin tile: partners, pins of axes and groups, the channels a room's trip masks (R252, R256). -/
def Cx.links (x : Cx) (sel : Nat → Bool) : Fails :=
  let w := x.w
  let off (h : Nat) (l : List Nat) : Bool := l.any (fun k => pcHolder w k != h)
  (x.pcs.filter (fun pc => sel (pcHolder w pc))).flatMap (fun pc =>
    (x.partners pc).flatMap (fun p => failIf (off (pcHolder w pc) [p.1]) 0x10 p.2)) ++
  ((List.range 32).filter (fun a => sel (axisHolder w a) && w.b (A.AX_OPT a) F.AX_OPT_EN)).flatMap (fun a =>
    failIf (off (axisHolder w a) ([stepPin w a, dirPin w a, lposPin w a, lnegPin w a, homePin w a].filterMap id ++ drivePcs w a)) 0x10 (A.AX_PINS a)) ++
  ((List.range 64).filter (fun g => sel (grpHolder w g) && w.b (A.GRP_CFG g) F.GRP_CFG_EN)).flatMap (fun g =>
    failIf (off (grpHolder w g) (grpPcs w g)) 0x10 (A.GRP_CFG g)) ++
  ((List.range 16).filter (fun i => sel (tripHolder w i) && tripHolder w i != houseDom)).flatMap (fun i =>
    failIf (off (tripHolder w i) (tripPcs w i)) 0x10 (A.TRIP_MASK i 0))

/-- A partner on the tile held by another domain. -/
def Cx.foreign (x : Cx) (k : Nat) : Bool := pcHolder x.w k != x.dom

def Cx.pinOne (x : Cx) (pc : Nat) : Fails :=
  let ws := x.pw pc
  let w := x.w
  let mode := x.pm pc
  let q := pc / 64
  let safe := w.f (A.PCH_SAFE pc) F.PCH_SAFE_SAFE
  let ld := 64 * q + pf ws 0x44 F.PCH_TOUT_LEADER
  let wd := pf ws 0x44 F.PCH_TOUT_WIDTH * nsTU
  let axes := tileAxes w q
  let grps := tileGrps w q
  let count (l : List (Option Nat)) : Nat := (l.filter (· == some pc)).length
  (if mode = 2 ∨ mode = 4 then x.periodic pc else []) ++ (if mode = 4 then x.pwmRules pc else []) ++
  failIf (mode == 5 && (pc % 2 == 0 || x.pm (pc - 1) != 4)) 0x01 (A.PCH_MODE (if pc % 2 = 0 then pc else pc - 1)) ++
  failIf (mode == 9 && (x.pm ld != 4 || decide (wd < pinSpacing pc) || decide (pinPnum (x.pw ld) < wd * pinPden (x.pw ld)))) 0x01
    (A.PCH_TOUT pc) ++
  failIf ((mode == 4 || mode == 5 || mode == 10 || mode == 12) && (safe == 1 || safe == 3)) 0x01 (A.PCH_MODE pc) ++
  failIf (mode == 10 && count (axes.flatMap (fun a => [stepPin w a, dirPin w a])) != 1) 0x1B (A.PCH_MODE pc) ++
  failIf (mode == 11 && count (axes.flatMap (fun a => [lposPin w a, lnegPin w a, homePin w a])) != 1) 0x1B (A.PCH_MODE pc) ++
  failIf (mode == 12 && count (grps.flatMap (fun g => (grpPcs w g).map some)) != 1) 0x1B (A.PCH_MODE pc)

def Cx.axisOne (x : Cx) (a : Nat) : Fails :=
  let w := x.w
  let outs := [stepPin w a, dirPin w a].filterMap id
  let lims := [lposPin w a, lnegPin w a, homePin w a].filterMap id
  let drv := drivePcs w a
  failIf (outs.any (fun pc => x.pm pc != 10) || lims.any (fun pc => x.pm pc != 11) || drv.any (fun pc => !(drivenMode (x.pm pc)))) 0x1B (A.AX_PINS a)

/-- The step widths of an axis, enabled or not (R284). -/
def Cx.axisWidths (x : Cx) (a : Nat) : Fails :=
  let w := x.w
  let sw := w.f (A.AX_TIME a) F.AX_TIME_SWIDTH
  let sp := (match stepPin w a with | some pc => pinSpacing pc | none => 4 * nsTU) / nsTU
  failIf (decide (sw < sp)) 0x01 (A.AX_TIME a) ++
  failIf (decide (w.f (A.AX_PHOME a) F.AX_PHOME_PHOME < sw + sp)) 0x01 (A.AX_PHOME a)

def Cx.groupOne (x : Cx) (g : Nat) : Fails :=
  let w := x.w
  let ms := (grpMembers w g).map (·.2)
  let hs := hsPin w g
  failIf (ms.isEmpty || ms.contains hs || (hs :: ms).any (fun pc => x.pm pc != 12)) 0x1B (A.GRP_CFG g) ++
  failIf (w.f (A.GRP_HOLDP g) F.GRP_HOLDP_HOLD_P == 0) 0x01 (A.GRP_HOLDP g)

def Cx.tripOne (x : Cx) (i : Nat) : Fails :=
  let w := x.w
  failIf (w.f (A.TRIP_BLK i) F.TRIP_BLK_BLANK_W != 0 && w.f (A.TRIP_CFG i) F.TRIP_CFG_BLANK_EDGE == 0) 0x01 (A.TRIP_CFG i)

/-- Timers whose words a bank lists. -/
def timersOf (keys : List Nat) : List (Nat × Nat) :=
  (keys.filterMap (fun a => match pageOf a with
    | .ttmr T => let o := a % 0x800; if 0x40 ≤ o ∧ o < 0x140 then some (T, (o - 0x40) / 0x20) else none
    | _ => none)).eraseDups

def Cx.timers (x : Cx) : Fails :=
  (timersOf (bankKeys x.bank)).flatMap (fun t =>
    let c := tmrCfg x.w t.1 t.2
    let w := x.w
    let init := w.f (A.TMR_INIT0 t.1 t.2) F.TMR_INIT0_INIT + w.f (A.TMR_HI t.1 t.2) F.TMR_HI_INIT * 2 ^ 32
    let cmp := w.f (A.TMR_CMP0 t.1 t.2) F.TMR_CMP0_CMP + w.f (A.TMR_CMP1 t.1 t.2) F.TMR_CMP1_CMP * 2 ^ 32
    failIf (c.top == 0 || decide (c.top < init) || decide (c.top < cmp)) 0x01 (A.TMR_TOP0 t.1 t.2))

def Cx.pins (x : Cx) : Fails :=
  let w := x.w
  let own (h : Nat) : Bool := h == x.dom
  (x.pcs.filter x.minePc).flatMap x.pinOne ++ (x.listed.filter x.minePc).flatMap x.widths ++
  x.links (fun h => x.house || h == x.dom) ++ ((List.range 32).filter (fun a => own (axisHolder w a))).flatMap x.axisWidths ++
  ((List.range 32).filter (fun a => own (axisHolder w a) && w.b (A.AX_OPT a) F.AX_OPT_EN)).flatMap x.axisOne ++
  ((List.range 64).filter (fun g => own (grpHolder w g) && w.b (A.GRP_CFG g) F.GRP_CFG_EN)).flatMap x.groupOne ++
  ((List.range 16).filter (fun i => own (tripHolder w i))).flatMap x.tripOne ++ x.timers

/-! ## Angle units: rules 0x01, 0x10, 0x1B, 0x1C (R288, R289, R292, R299, R304, R305) -/

/-- The encoder pins of a unit. -/
def encPins (w : View) (u : Nat) : List Nat :=
  [w.f (A.AU_CFG u) F.AU_CFG_PIN_A, w.f (A.AU_CFG u) F.AU_CFG_PIN_B] ++
  (if w.b (A.AU_CFG u) F.AU_CFG_Z_EN then [w.f (A.AU_CFG u) F.AU_CFG_PIN_Z] else [])

/-- The output pins of a unit. -/
def outPins (w : View) (u : Nat) : List Nat :=
  ([0, 1, 2, 3].filter (fun o => w.b (A.AU_OUT u o) F.AU_OUT_EN)).map (fun o => w.f (A.AU_OUT u o) F.AU_OUT_PIN)

def auOn (w : View) : List Nat := (List.range 8).filter (fun u => w.b (A.AU_CFG u) F.AU_CFG_EN)

/-- The tooth spans of a table (R292). -/
def spansOk (teeth : List Nat) (nt : Nat) : Bool :=
  (List.range nt).all (fun n =>
    let next := if n + 1 = nt then teeth.getD 0 0 + 2 ^ 32 else teeth.getD (n + 1) 0
    let span := next - teeth.getD n 0
    decide (2 ^ 31 ≤ span * nt) && decide (span * nt ≤ 2 ^ 33) && decide (teeth.getD n 0 ≤ next))

def Cx.auOne (x : Cx) (u : Nat) : Fails :=
  let w := x.w
  let flow := w.b (A.AU_EXP u) F.AU_EXP_FLOW_EN
  let fc := w.f (A.AU_EXP u) F.AU_EXP_FLOWCH
  let units := (captureSet w u).filter (· != u)
  let pair := w.b (A.AU_PAIR u) F.AU_PAIR_PAIR_EN
  let prt := w.f (A.AU_PAIR u) F.AU_PAIR_PARTNER
  let bank := w.f (A.AU_TTADDR u) F.AU_TTADDR_TT_ADDR / 64
  let pins := encPins w u ++ outPins w u
  let f := expPeriod w u
  let others := (auOn w).filter (· != u)
  let nt := w.f (A.AU_GEOM u) F.AU_GEOM_NT
  failIf (pins.any x.foreign || (flow && (fcHolder w fc != x.dom || units.any (fun k => auHolder w k != x.dom))) ||
    (pair && auHolder w prt != x.dom) || x.d.bankHolder bank != x.dom) 0x10 (A.AU_CFG u) ++
  failIf ((encPins w u).any (fun pc => x.pm pc != 8) || anyPair (· == ·) (encPins w u) ||
    others.any (fun k => (encPins w k).any (encPins w u).contains)) 0x1C (A.AU_CFG u) ++
  failIf ((outPins w u).any (fun pc => x.pm pc != 3) || anyPair (· == ·) (outPins w u) ||
    others.any (fun k => (outPins w k).any (outPins w u).contains)) 0x1B (A.AU_OUT u 0) ++
  failIf (decide (auC w u ≤ w.f (A.AU_ZCOUNT u) F.AU_ZCOUNT_ZCOUNT)) 0x01 (A.AU_GEOM u) ++
  failIf (pair && prt == u) 0x01 (A.AU_PAIR u) ++
  failIf (match Tab.get? (x.d.commitOf x.dom).teeth u with | some t => !(spansOk t nt) | none => false) 0x01 (A.AU_TTADDR u) ++
  failIf (flow && decide (f.1 * secTU ≤ (expOfs w u).natAbs * f.2)) 0x01 (A.AU_EXP u) ++
  failIf (flow && (fcDir w fc != 1 || fcEss w fc != 5 || fcMode w fc F.FCH_MODE_MERGE == 1 ||
    w.f (A.FCH_KEYP fc 0) F.FCH_KEYP_PORT != 0xFF ||
    others.any (fun k => w.b (A.AU_EXP k) F.AU_EXP_FLOW_EN && w.f (A.AU_EXP k) F.AU_EXP_FLOWCH == fc))) 0x01 (A.AU_EXP u)

def Cx.angles (x : Cx) : Fails := ((auOn x.w).filter (fun u => auHolder x.w u == x.dom)).flatMap x.auOne

/-! ## Images: rule 0x1D (R336) -/

/-- The tile's engine is in IDLE, RUN, WAIT, TRAP or HALTED with an image of its tile's kind (R336); the INIT routine runs in RUN
(R312). -/
def Dev.imageOk (d : Dev) (T : Nat) : Bool :=
  let e := d.engOf T
  !e.resetting && e.img.kind == (if T < 256 then 1 else 2) &&
    (match e.st with | .idle | .run | .wait | .trap | .halted => true | _ => false)

def Cx.images (x : Cx) : Fails :=
  let f := (x.ins ++ x.egs).filter (fun fc => x.house || x.mineFc fc)
  let p := x.pcs.filter (fun pc => x.house || x.minePc pc)
  ((f.map (· / 128)).eraseDups.flatMap (fun T =>
    failIf (!(x.d.imageOk T)) 0x1D (A.FCH_MODE ((f.filter (fun fc => fc / 128 == T)).foldl min (128 * T + 127))))) ++
  ((p.map (fun pc => 256 + pc / 64)).eraseDups.flatMap (fun T =>
    failIf (!(x.d.imageOk T)) 0x1D (A.PCH_MODE ((p.filter (fun pc => 256 + pc / 64 == T)).foldl min (64 * (T - 256) + 63)))))

/-! ## Withdrawn resources: rule 0x11 (R116) -/

/-- The resources a room uses under settings, each with its holder under an assignment and the field that assigns it. -/
def usesOf (bank : Tab Word) : List ((View → Nat) × Nat) :=
  let w := viewOf bank
  let keys := bankKeys bank
  (activeFcs w keys).map (fun fc => (fun v => fcHolder v fc, A.HRAS_SHA (fc / 128) 0)) ++
  (activePcs w keys).map (fun pc => (fun v => pcHolder v pc, A.HRAS_SHA (256 + pc / 64) 0)) ++
  ((List.range 16).filter (fun i => w.b (A.TRIP_CFG i) F.TRIP_CFG_EN)).map (fun i => (fun v => tripHolder v i, A.HRAS_RES (i / 2))) ++
  ((List.range 32).filter (fun a => w.b (A.AX_OPT a) F.AX_OPT_EN)).map (fun a => (fun v => axisHolder v a, A.HRAS_RES ((16 + a) / 2))) ++
  ((List.range 64).filter (fun g => w.b (A.GRP_CFG g) F.GRP_CFG_EN)).map (fun g => (fun v => grpHolder v g, A.HRAS_RES ((48 + g) / 2))) ++
  (auOn w).map (fun u => (fun v => auHolder v u, A.HRAS_RES ((112 + u) / 2))) ++
  ((List.range 16).filter (fun c => w.b (A.CVU_CFG c) F.CVU_CFG_TRIG || (List.range 16).any (fun i => w.b (A.CVU_GUARD c i) F.CVU_GUARD_EN))).map
    (fun c => (fun v => cvuHolder v c, A.HRAS_RES ((152 + c) / 2)))

/-- A house commit that takes from a room what its live settings or its pending commit use: resources, the share of a tile
it declares a demand on, the pool of a channel, the contract of a port it sends on. -/
def Cx.withdrawn (x : Cx) : Fails :=
  let lv := x.d.regs.live
  let rooms := (x.d.regs.pending.map (·.1)).filter (· != houseDom)
  let one (bank : Tab Word) (old : View) (r : Option Nat) : Fails :=
    let w := viewOf bank
    let mine (h : Nat) : Bool := h < 256 && (match r with | some k => h == k | none => true)
    (usesOf bank).flatMap (fun u => let h := u.1 old; failIf (mine h && u.1 x.w != h) 0x11 u.2) ++
    (bankKeys bank).flatMap (fun a => match pageOf a with
      | .room k 1 =>
        let T := (a % 0x1000 - 0x40) / 4
        failIf (mine k && a % 0x1000 < 0x450 && w a != 0 && (roomShare old T k).isSome && (roomShare x.w T k).isNone) 0x11 (A.HRAS_SHA T 0)
      | _ => []) ++
    ((activeFcs w (bankKeys bank)).filter (fun fc => mine (fcHolder old fc))).flatMap (fun fc =>
      let ws := blockWords bank fc
      let r := fcHolder old fc
      let has (v : View) (keys : List Nat) : Bool := (contractsOf v keys).any (fun c => c.2.1 == r && c.2.2 == egPort ws)
      if fcDir w fc = 1 then
        let P := w.f (A.FCH_POOL fc) F.FCH_POOL_POOL
        failIf (poolFor old (fc / 8192) P r && !(poolFor x.w (fc / 8192) P r)) 0x11 (A.POOL_CFG (fc / 8192) P)
      else failIf (egWants ws && has old (bankKeys lv ++ bankKeys bank) && !(has x.w (bankKeys x.res))) 0x11 (A.HRAS_CON0 0))
  one lv x.d.live none ++ rooms.flatMap (fun r => one (Tab.ovr lv (Tab.get x.d.regs.pending [] r)) x.d.live (some r))

end Sys2Proof.Machine
end

