-- ==== Sys2Proof/Machine/Checks.lean ====
section
/-! DEFINITION. The check of a commit as a whole: what it is checked against, its outcome (R114-R118, R427). -/
namespace Sys2Proof.Machine

/-- A register of rules 0x40 to 0x43 that the domain holds changes (R427). -/
def Cx.twinFields (x : Cx) : List Nat :=
  let regs := ((List.range 4).flatMap (groupRegs x.w) ++ groupRegs x.d.live 3).eraseDups
  sortNat (regs.filter (fun a => if (Tab.get? x.bank a).isSome then groupWord false x.w a != groupWord false x.d.live a else false))

/-- Rule 0x44: while JOINED, a commit without TWIN changes a field the twin rules compare, and its domain is not marked. -/
def Cx.twinRequired (x : Cx) : Fails :=
  if x.d.joined && !(x.d.commitOf x.dom).twin && !(x.d.zyn.divmap.contains x.dom) then
    match x.twinFields with | a :: _ => [(0x44, a)] | [] => []
  else []

/-- Rules 0x04 and 0x06, which name no field: no boundary can occur, a link fault awaits acknowledgement (R46, R116, R128). -/
def Cx.general (x : Cx) : Fails := failIf (!x.d.sq.armed) 0x04 0 ++ failIf x.d.sq.blocked 0x06 0

/-- The fields of the pending bank: each in range (0x01), each held by the domain in the resulting configuration (0x10). -/
def Cx.fields (x : Cx) : Fails :=
  x.bank.flatMap (fun e =>
    failIf (wordBad x.w e.1 e.2) 0x01 e.1 ++
    failIf (match domOfAddr x.d x.w e.1 with | .dom k => k != x.dom | _ => false) 0x10 e.1)

/-- Every rule of R116 on one resulting configuration. -/
def Cx.all (x : Cx) : Fails :=
  x.general ++ x.fields ++ x.flows ++ x.classify ++ x.pins ++ x.angles ++ x.images ++ x.tileFloor ++ x.spine ++ x.netCap ++ x.calendar ++
  x.store ++ x.roles ++ x.twinRequired ++ x.demands ++
  (if x.house then x.hearth ++ x.shares ++ x.contracts ++ x.pools ++ x.ports ++ x.pairing ++ x.withdrawn
   else x.portUse ++ x.migrations)

/-- The resulting settings a check uses: a room's over the house's that it relies on; the house's over the live settings of
every room, and again over those with every pending room commit laid over them (R118). -/
def Dev.results (d : Dev) (dom : Nat) : List (Tab Word) :=
  let own := Tab.get d.regs.pending [] dom
  let live := d.regs.live
  if dom = houseDom then
    let rooms := (d.regs.pending.filter (fun e => e.1 != houseDom)).foldl (fun t e => Tab.ovr t e.2) live
    if d.regs.pending.any (fun e => e.1 != houseDom) then [Tab.ovr live own, Tab.ovr rooms own] else [Tab.ovr live own]
  else
    let base := if (d.reliesOn dom (d.commitOf dom).target).isSome then Tab.ovr live (Tab.get d.regs.pending [] houseDom) else live
    [Tab.ovr base own]

/-- A failure placed by its address, then its rule. -/
def failInsert (x : Nat × Nat) : Fails → Fails
  | [] => [x]
  | y :: t => if x.2 < y.2 ∨ (x.2 = y.2 ∧ x.1 ≤ y.1) then x :: y :: t else y :: failInsert x t

/-- The failures of a domain's commit, in ascending address, each once. -/
def Dev.failures (d : Dev) (dom : Nat) : Fails :=
  (((d.results dom).flatMap (fun r => (Cx.mk d dom (Tab.get d.regs.pending [] dom) r).all)).foldr failInsert []).eraseDups

/-- Notes the failures of a check: FIRST_RULE the lowest code, FAIL_COUNT, the sixteen of the lowest addresses. -/
def Dev.noteFail (d : Dev) (dom : Nat) (fs : Fails) : Dev :=
  d.setCommit dom { d.commitOf dom with firstRule := (fs.map (·.1)).foldl min 0xFF, failCount := sat 8 fs.length, flog := fs.take 16 }

/-- CHECK_COMPLETE: a commit in CHECKING goes on to CHECKED, to AGREEING with TWIN = 1, or ends with CHECK_FAIL. A LOCK_INSTANT
that has passed came first. -/
def checkComplete (dom : Nat) (d : Dev) : Dev :=
  if (d.commitOf dom).st ≠ .checking then d
  else
    let fs := d.failures dom
    if fs.isEmpty then
      let c := d.commitOf dom
      let d := d.setCommit dom { c with st := .checked, relies := (d.reliesOn dom c.target).map (·.id), firstRule := 0, failCount := 0, flog := [] }
      if c.twin then d.prepare dom else d
    else (d.noteFail dom fs).endCommit dom 1

/-- CHECK_COMPLETE -/
def execCheckComplete (dom : Nat) (s : State) : Res := onDev (checkComplete dom) s

end Sys2Proof.Machine
end

