-- ==== Sys2Proof/Machine/Bus.lean ====
section
/-! DEFINITION. The register bus: what a read of any BAR0 word returns and does, what an admitted write does, and the
accesses of a master that name a register by its address: a posted write, a service-port frame, an ACCESS of the twin
(chapter Control Ports, Ownership and Register Pages, R20-R22, R133, R136-R139, R144-R146, R154-R158; R431, R432). -/
namespace Sys2Proof.Machine

/-! ## The page header -/

/-- TYPE and INSTANCE of a page (R158). -/
def pageId : PageKind → Nat × Nat
  | .house o => (if o < 16 then o + 1 else o + 2, 0)
  | .au u => (0x10, u) | .zyn j => (0x11, j) | .hras j => (0x18, j)
  | .qcfg q => (0x20, q) | .qirq q => (0x21, q) | .port n j => (0x22, 4 * n + j) | .dma c => (0x23, c) | .cvu c => (0x24, c)
  | .qmem q j => (0x25, 4 * q + j) | .qpool q j => (0x26, 2 * q + j)
  | .teng T => (0x30, 16 * T) | .tirq T => (0x31, 16 * T + 1) | .ttmr T => (0x32, 16 * T + 2) | .tpan T => (0x33, 16 * T + 3)
  | .fch T j => (0x34, 16 * T + j) | .pch q j => (0x35, 16 * (256 + q) + j)
  | .room r j => (0x40 + j, 4 * r + j)
  | .none | .window => (0, 0)

/-- The tile of a tile page. -/
def tileOfPage : PageKind → Option Nat
  | .teng T | .tirq T | .ttmr T | .tpan T | .fch T _ => some T
  | .pch q _ => some (256 + q)
  | _ => none

/-- The quadrant block of a page is in reset (R460). -/
def Dev.pageInReset (d : Dev) : PageKind → Bool
  | .qirq q => d.pwr.qbusy.contains q
  | .port n _ => d.pwr.qbusy.contains (n / 4)
  | .dma c => d.pwr.qbusy.contains (c / 8)
  | .cvu c => d.pwr.qbusy.contains (c / 4)
  | pk => match tileOfPage pk with
    | some T => (d.engOf T).resetting
    | none => false

/-- PG_STATE (R154, R313, R460): the epoch of the last apply, and whether the page is DEFAULT, LIVE, OFFLINE or RESET. -/
def Dev.pgState (d : Dev) (page : Nat) : Nat :=
  let pk := pageOf page
  let w := (d.immW (A.PG_STATE page)).toNat
  let offl := match tileOfPage pk with | some T => d.tileOffline T | none => false
  if d.pageInReset pk then w % 2 ^ 24 + 3 * 2 ^ 24 else if offl then w % 2 ^ 24 + 2 * 2 ^ 24 else w

/-- OWNER_VIEW as master `m` reads it (R154). -/
def Dev.ownerView (d : Dev) (m page : Nat) : Nat :=
  let dom := pageDom d.live (pageOf page)
  let o := d.ownEnt dom
  if dom = 0x1FF then dom
  else match d.ownerOf dom with
    | some x => dom + 2 ^ 9 + x * 2 ^ 10 + b2n (x == m) * 2 ^ 13 + o.prio % 16 * 2 ^ 16
    | none => dom

/-! ## Registers whose value is computed -/

def ownCode : OwnSt → Nat
  | .unowned => 0 | .electing => 1 | .owned => 2 | .offered => 3

/-- HOWN_STAT of a domain (R152). -/
def Dev.hownStat (d : Dev) (dom : Nat) : Nat :=
  let o := d.ownEnt dom
  let who := match o.st with
    | .unowned => (0, 0)
    | .electing => (leaderOf o.claims).getD (0, 0)
    | _ => (o.owner, o.prio)
  ownCode o.st + who.1 % 8 * 2 ^ 4 + who.2 % 16 * 2 ^ 8 + b2n (o.st == .offered) * (o.target % 8) * 2 ^ 12 + min o.stale 255 * 2 ^ 16

def commitCode : CommitSt → Nat
  | .idle => 0 | .checking => 1 | .checked => 2 | .agreeing => 3 | .locked => 4

def slotCode : SlotState → Nat
  | .empty => 0 | .filling => 1 | .published => 2

/-- HSNP_SLOTS (R97, R106). -/
def Dev.hsnpSlots (d : Dev) : Nat :=
  ((List.range 4).map (fun s => (slotCode (d.slotOf s).st + 4 * b2n (d.slotPinned s)) * 2 ^ (8 * s))).sum

/-- HSNP_PIN of a master, without its W1C bits' clearing (R106). -/
def Dev.hsnpPin (d : Dev) (m : Nat) : Nat :=
  let p := d.pinOf m
  b2n p.held * 4 + p.slot % 4 * 16 + b2n p.refused * 256 + b2n p.lapsed * 512

/-- HSRC_STAT (R63-R66). -/
def Dev.hsrcStat (d : Dev) : Nat :=
  tpllCode d.h.tpll + d.h.src * 16 + ((List.range 4).map (fun c => b2n (d.srcReady c) * 2 ^ (8 + c))).sum + b2n d.h.everLocked * 2 ^ 12 +
    b2n d.holdBase * 2 ^ 13 + d.im A.HSRC_STAT F.HSRC_STAT_SEL_REFUSED * 2 ^ 16

/-- What a room holds in the live assignment: ROOM_HOLD0 and ROOM_HOLD1 (R341-R350, R363). -/
def Dev.roomHold0 (d : Dev) (r : Nat) : Nat :=
  let ks (T : Nat) : Nat := match roomShare d.live T r with | some s => s.kn | none => 0
  min (((List.range 256).map ks).sum) 0xFFFF + ((List.range 4).map (fun q => ks (256 + q))).sum * 2 ^ 16
def Dev.roomHold1 (d : Dev) (r : Nat) : Nat :=
  ((List.range 260).filter (fun T => (roomShare d.live T r).isSome)).length + (d.banks.filter (fun e => e.2.holder == r)).length * 2 ^ 9 +
    ((contractsOf d.live (bankKeys d.regs.live)).filter (fun c => c.2.1 == r)).length * 2 ^ 21

/-- ROOM_BLEFT of tile `T` (R347). -/
def Dev.roomBleft (d : Dev) (r T : Nat) : Nat := if (roomShare d.live T r).isSome then unsgn 32 (d.budgetLeft T r) else 0

/-- QMEM_BANK of bank `b` (R363-R366). -/
def Dev.qmemBank (d : Dev) (b : Nat) : Nat :=
  let k := d.bankOf b
  let st := match k.st with | .held => 0 | .scrubbing => 1 | .testing => 2
  k.holder % 512 + b2n (k.pool.any (poolEn d.live (b / 512))) * 2 ^ 9 + b2n k.retiring * 2 ^ 10 + st * 2 ^ 11 + b2n k.refused * 2 ^ 30

/-- HCFG_DEVID (R24). -/
def Dev.hcfgDevid (d : Dev) : Nat := 0xA16416 + b2n d.pwr.side * 2 ^ 24 + d.pwr.bootMode % 8 * 2 ^ 25

/-- Registers whose value is not a stored word: what reader `m` gets from instance `ix` on page `pk`. -/
def Dev.shown (d : Dev) (m a : Nat) (pk : PageKind) (id : RegId) (ix : List Nat) : Option Nat :=
  let i := ix.headD 0
  let dsel := d.per A.HCOM_DSEL m F.HCOM_DSEL_DOMAIN
  let c := d.commitOf dsel
  match id, pk with
  | .PG_ID, pk => some ((pageId pk).2 + (pageId pk).1 * 2 ^ 16)
  | .PG_STATE, _ => some (d.pgState (pageBase a))
  | .OWNER_VIEW, _ => some (d.ownerView m (pageBase a))
  | .LH_ASSIGN, pk => some (pageDom d.live pk)
  | .HCFG_DEVID, _ => some d.hcfgDevid
  | .HCFG_SERIAL, _ => some (d.otpWord (21 + i))
  | .HTIM_STAT, _ => some ((d.immW a &&& 0x3C#32).toNat + b2n d.h.run + b2n d.corrBusy * 2)
  | .HSRC_STAT, _ => some d.hsrcStat
  | .HCAP_LEVEL, _ => some d.h.cap.length
  | .HREF_INSTAT, _ => some (let r := Tab.get d.h.refs {} i; b2n r.lock + (d.immW a &&& 2#32).toNat + r.det % 16 * 16)
  | .HRING_STAT, _ => some (b2n (d.h.linkUp.getD 0 false) + b2n (d.h.linkUp.getD 1 false) * 2 + (d.immW a &&& 0x3C#32).toNat)
  | .HSNP_CUR, _ => some (match d.sq.cur with | some s => s + 4 | none => 0)
  | .HSNP_CUREPOCH, _ => some (match d.sq.cur with | some s => (d.slotOf s).epoch % 2 ^ 32 | none => 0)
  | .HSNP_SLOTS, _ => some d.hsnpSlots
  | .HSNP_PIN, _ => some (d.hsnpPin m)
  | .HSNP_PINEPOCH, _ => some ((d.pinOf m).epoch % 2 ^ 32)
  | .HCOM_STAT, _ => some (commitCode c.st + c.lastStatus * 2 ^ 8 + c.lastId * 2 ^ 16)
  | .HCOM_LASTEPOCH, _ => some (c.lastEpoch % 2 ^ 32)
  | .HCOM_CHECK, _ => some (c.firstRule + min c.failCount 255 * 2 ^ 8)
  | .HCOM_FLOG0, _ => some (c.flog.getD i (0, 0)).1
  | .HCOM_FLOG1, _ => some (c.flog.getD i (0, 0)).2
  | .HCOM_PFW, _ => some (b2n d.sq.pfwActive + (d.immW a &&& 2#32).toNat)
  | .HCOM_SAVE, _ => some ((d.immW a &&& 0x1001C#32).toNat + b2n d.sq.saving * 2)
  | .HCOM_LFACK, _ => some (b2n d.sq.blocked * 2)
  | .HOWN_STAT, _ => some (d.hownStat (d.per A.HOWN_DSEL m F.HOWN_DSEL_DOMAIN))
  | .HLFL_LEVEL, _ => some d.late.log.length
  | .HLFL_SEQ, _ => some (Tab.get d.late.acc 0 i)
  | .FCH_CTL, .fch T j => some (readFchCtl (fcOfSlot T j i) d)
  | .PRT_HQSTAT, .port n _ => some ((d.hostqOf n).rx.length + (d.hostqOf n).tx.length * 2 ^ 16 + (d.immW a &&& 0x3000000#32).toNat)
  | .PCH_STAT, .pch q j => some (d.pchStat (pcOfSlot q j i))
  | .PCH_CNT0, .pch q j => some ((d.pcOf (pcOfSlot q j i)).cnt % 2 ^ 32)
  | .PCH_CNT1, .pch q j => some ((d.pcOf (pcOfSlot q j i)).cnt / 2 ^ 32 % 2 ^ 16)
  | .PCH_SAFEST, .pch q j => some (let x := d.pcOf (pcOfSlot q j i); x.cause % 512 + b2n x.chatter * 2 ^ 16)
  | .TMR_VAL0, .ttmr T => some (d.tmrVal T i).1
  | .TMR_VAL1, .ttmr T => some (d.tmrVal T i).2
  | .TRIP_CTL, .pch q _ => some (d.tripStat (4 * q + i))
  | .AX_STAT, .pch q _ => some (d.axStat (8 * q + i))
  | .AX_POS, .pch q _ => some (unsgn 32 (d.axOf (8 * q + i)).pos)
  | .GRP_STAT, .pch q _ => some (d.grpStat (16 * q + i))
  | .AU_STAT, .au u => some (d.auStat u)
  | .AU_CTL, .au u => some (b2n (d.auOf u).setc.isSome * 2)
  | .AU_QSTAT, .au u => some (d.auQstat u i)
  | .TENG_STAT, .teng T => some (d.tengStat T)
  | .TENG_IMG0, .teng T => some (d.tengImg0 T)
  | .TENG_IMG1, .teng T => some ((d.engOf T).img.version % 2 ^ 32)
  | .TENG_LDSTAT, .teng T => some (d.tengLdstat T)
  | .TENG_INBOX, .teng T => some (d.tengInbox T)
  | .ROOM_HOLD0, .room r _ => some (d.roomHold0 r)
  | .ROOM_HOLD1, .room r _ => some (d.roomHold1 r)
  | .ROOM_BLEFT, .room r _ => some (d.roomBleft r i)
  | .QMEM_BANK, .qmem q j => some (d.qmemBank (512 * q + 128 * j + i))
  | .POOL_FREE, .qpool q j => some (d.poolOf q (32 * j + i)).free.length
  | .DMA_STAT, .dma c => some (d.dmaStat c)
  | .DMA_CHK, .dma c => some ((d.dmaOf c).chk / 2 ^ (32 * i) % 2 ^ 32)
  | .DMA_BYTES, .dma c => some (sat 32 (d.dmaOf c).bytes)
  | .CVU_STAT, .cvu c => some (d.cvuStat c)
  | .CVU_VAL, .cvu c => some ((d.cvuOf c).val / 2 ^ (32 * i) % 2 ^ 32)
  | .CVU_GSTAT, .cvu c => some (let g := Tab.get (d.cvuOf c).guards (0, 0) i; g.1 + g.2 * 16)
  | .CVU_GALIVE, .cvu c => some (Tab.get (d.cvuOf c).galive 0 i % 2 ^ 32)
  | .ZYN_STAT, _ => some d.zynStat
  | .ZYN_OFS, _ => some (unsgn 32 (d.theta / 2 ^ (32 * i)))
  | .ZYN_RTT, _ => some d.zyn.rtt
  | .ZYN_TEPOCH, _ => some (match d.zyn.hb with | some h => h.epoch % 2 ^ 32 | none => 0)
  | .ZYN_DIVMAP, _ => some (bitWord d.zyn.divmap i)
  | .ZYN_DRV, _ => some (bitWord d.zyn.driving i)
  | .HCLK_STAT, _ => some d.hclkStat
  | .HPWR_CTL, _ => some d.hpwrCtl
  | .HPWR_VREQ, _ => some d.hpwrVreq
  | .HPWR_THERM, _ => some d.hpwrTherm
  | .HGOV_PEND, _ => some (d.pwr.govQ.length % 2 ^ 16)
  | .HRST_STAT, _ => some d.hrstStat
  | .HBOOT_STAT, _ => some d.hbootStat
  | .HBOOT_DSEQ, _ => some (d.pwr.bootSeq % 2 ^ 32)
  | .HOTP_W, _ => some (d.hotpW i)
  | .HOTP_VALID, _ => some (d.hotpValid i)
  | .HOTP_CMD, _ => some d.hotpCmd
  | _, _ => none

/-! ## Reads (R20-R22, R146) -/

/-- A read that answers a free value (log entry 2). -/
def Dev.freeRead (d : Dev) (sh : Nat) (base : Nat) : Dev × Nat :=
  let fr := d.fresh
  (fr.2, (base + fr.1.toNat) / 2 ^ sh % 2 ^ 32)

/-- The debug item that TENG_DBGSEL names, or a free value while the engine is not HALTED or for a reserved selection. -/
def Dev.readDbgv (d : Dev) (T hi : Nat) : Dev × Nat :=
  let e := d.engOf T
  let sel := d.im (A.TENG_DBGSEL T) F.TENG_DBGSEL_SEL
  if e.st == .halted && decide (sel ≤ 42) then (d, e.dbgItem sel / 2 ^ (32 * hi) % 2 ^ 32) else d.freeRead 0 0

/-- Reads that do more than return a value: latches, pops, counters a read clears. -/
def Dev.readAct (d : Dev) (m : Nat) (mem : Mem) (pk : PageKind) (id : RegId) (ix : List Nat) : Option (Dev × Nat) :=
  let i := ix.headD 0
  match id, pk with
  | .HTIM_NOW, _ => if i = 0 then some (readNow m d) else none
  | .HEPC_EPOCH, _ => some (readEpoch m d)
  | .HCAP_E, _ => if i = 3 then some (readCapE3 m d) else none
  | .HLFL_E0, _ => some (readHlflE0 m d)
  | .HSNP_STRADDLE, _ => some (readStraddle m d)
  | .PRT_HRX0, .port n _ => some (readHrx0 m n d)
  | .PRT_HALLOC, .port n _ => some (readHalloc m n d)
  | .PCH_CAP0, .pch q j => some (readPchCap0 m (pcOfSlot q j i) d)
  | .AU_POS0, .au u => some (readAuPos0 m u d)
  | .TPAN_PDATA0, .tpan T => some (readPdata0 m T mem d)
  | .TENG_DBGV0, .teng T => some (d.readDbgv T 0)
  | .TENG_DBGV1, .teng T => some (d.readDbgv T 1)
  | .HPWR_CELL0, _ => some (d.freeRead 0 d.pwr.cellar)
  | .HPWR_CELL1, _ => some (let r := d.freeRead 32 d.pwr.cellar; (r.1, r.2 % 2 ^ 16))
  | _, _ => none

/-- Per-master words that are latches of a read (R55, R75, R81, R211, R244, R296, R371, R383) or instances (R113, R145). -/
def latchReg : RegId → Bool
  | .HTIM_NOW | .HEPC_BND | .HEPC_NXT | .HCAP_E | .HLFL_E1 | .HLFL_E2 | .HLFL_E3 | .HLFL_E4 | .PRT_HRX1 | .PRT_HRX2 | .PCH_CAP1
  | .AU_POS1 | .AU_POS2 | .AU_POS3 => true
  | id => perMaster id

/-- Whether a channel block's live words have the egress layout (R161). -/
def Dev.egressLive (d : Dev) (a : Nat) : Bool :=
  match pageOf a with
  | .fch T j => d.lv (A.FCH_MODE (fcOfSlot T j ((a % 0x800 - 0x40) / 0xB0))) F.FCH_MODE_DIR == 2
  | _ => false

/-- A live copy, whose staged address is `a` (R21). -/
def Dev.liveCopy (d : Dev) (a : Nat) : Nat :=
  let eg := d.egressLive a
  match descAt eg a with
  | some (r, _) => if r.rws = 0 then 0 else
      ((Tab.get? d.regs.live a).getD (resetWord eg a) &&& BitVec.ofNat 32 (r.rws ||| (if a = A.HCFG_MODE then 2 ^ 31 else 0))).toNat
  | none => 0

/-- A staged word as read. -/
def Dev.stagedRead (d : Dev) (a rws : Nat) : Nat :=
  ((Tab.get? d.regs.staged a).getD (resetWord (d.egress a) a) &&& BitVec.ofNat 32 rws).toNat

/-- A read of one 32-bit word of BAR0 by reader `m`, a master or an engine: it is never refused (R135). -/
def Dev.busRead (d : Dev) (m a : Nat) (mem : Mem) : Dev × Nat :=
  let pk := pageOf a
  if pk = .window then
    let n := (a - 0x4000000) / 2 ^ 24
    (d.straddle m n 1, d.readSlot n (a % 2 ^ 24))
  else match descAt (d.egress a) a with
    | none => (d, if 0x840 ≤ a % 0x1000 then d.liveCopy (a - 0x800) else 0)
    | some (r, ix) =>
      if r.rws ≠ 0 then (d, d.stagedRead a r.rws)
      else if d.blockDown a r.id && !(headerReg r.id) then (d, 0)
      else match d.readAct m mem pk r.id ix with
        | some x => x
        | none => match d.shown m a pk r.id ix with
          | some v => (d, v)
          | none =>
            if latchReg r.id then (d, (d.perW a m).toNat)
            else if r.rc ≠ 0 then d.readRC m a r.rc
            else (d, (d.immW a).toNat)

/-! ## Writes (R20, R22) -/

/-- The landing takes a staged write (R109, R110). -/
def Dev.stage (d : Dev) (a rws : Nat) (v : Word) : Dev :=
  let mask := BitVec.ofNat 32 rws
  let old := (Tab.get? d.regs.staged a).getD (resetWord (d.egress a) a)
  { d with regs := { d.regs with staged := Tab.set d.regs.staged a ((old &&& ~~~mask) ||| (v &&& mask)) } }

/-- Immediate registers whose write acts. -/
def Dev.writeAct (d : Dev) (m a : Nat) (v : Word) (mem : Mem) (pk : PageKind) (id : RegId) (ix : List Nat) : Option (Dev × List MemOp) :=
  let i := ix.headD 0
  let on (d : Dev) : Option (Dev × List MemOp) := some (d, [])
  match id, pk with
  | .PG_CTRL, _ => on (writePgCtrl (pageBase a) v d)
  | .EV_STAT, _ | .EV_EN, _ | .EV_FORCE, _ => on (writeEv id m a v d)
  | .HTIM_CTRL, _ => on (writeHtimCtrl v d)
  | .HTIM_FTRIM, _ => on (writeFtrim v d)
  | .HSRC_CFG, _ => on (writeHsrcCfg v d)
  | .HSRC_SEL, _ => on (writeHsrcSel v d)
  | .HRCO_CTRL, _ => on (writeHrcoCtrl v d)
  | .HSNP_PIN, _ => on (writeHsnpPin m v d)
  | .HCOM_CMD, _ => on (writeHcomCmd m v mem d)
  | .HCOM_SAVE, _ => on (writeHcomSave v d)
  | .HCOM_LFACK, _ => on (writeHcomLfack v d)
  | .HOWN_REQ, _ => on (writeHownReq m v d)
  | .FCH_CTL, .fch T j => on (writeFchCtl (fcOfSlot T j i) v d)
  | .PRT_HFREE, _ => on (writeHfree v d)
  | .PRT_HTX1, .port n _ => on (writeHtx1 n v d)
  | .PCH_DUTY, .pch q j => on (writeDuty (pcOfSlot q j i) v d)
  | .PCH_EQ2, .pch q j => on (writeEq2 (pcOfSlot q j i) (fget v F.PCH_EQ2_LEVEL == 1) d)
  | .PCH_CTL, .pch q j => on (writePchCtl (pcOfSlot q j i) v d)
  | .TMR_ARM1, .ttmr T => on (writeTmrArm1 T i v d)
  | .TMR_CTL, .ttmr T => on (writeTmrCtl T i v d)
  | .TRIP_CTL, .pch q _ => on (writeTripCtl (4 * q + i) v d)
  | .AX_CMD, .pch q _ => on (writeAxCmd (8 * q + i) v d)
  | .AU_SETC1, .au u => on (writeAuSetc1 u v d)
  | .AU_CTL, .au u => on (writeAuCtl u v d)
  | .AU_Q2, .au u => on (writeAuQ2 u i v d)
  | .AU_QSTAT, .au u => on (writeAuQstat u i v d)
  | .TENG_LDCMD, .teng T => on (writeTengLdcmd T v d)
  | .TENG_DBG, .teng T => on (writeTengDbg T v d)
  | .TENG_DBGV0, .teng T => on (writeDbgv0 T v d)
  | .TENG_DBGV1, .teng T => on (writeDbgv1 T v d)
  | .QMEM_BANK, .qmem q j => on (writeQmemBank (512 * q + 128 * j + i) v d)
  | .QMEM_MTCMD, .qmem q _ => on (writeQmemMtcmd q v d)
  | .TPAN_PDATA1, .tpan T => some (d, [.pantry T (d.panAddr m T) (leBytes 4 (d.perW (A.TPAN_PDATA0 T) m).toNat ++ leBytes 4 v.toNat)])
  | .TPAN_MTCMD, .tpan T => on (writeTpanMtcmd T v d)
  | .DMA_CMD, .dma c => on (writeDmaCmd c v d)
  | .CVU_CMD, .cvu c => on (writeCvuCmd c v d)
  | .ZYN_CTL, _ => on (writeZynCtl v d)
  | .ZYN_MGO, _ => on (writeZynMgo m v d)
  | .HCLK_MSEL, _ => on (writeMsel v d)
  | .HPWR_CTL, _ => on (writeHpwrCtl v d)
  | .HRST_CTL, _ => some (writeHrstCtl v d)
  | .HRST_TILE, _ => on (writeHrstTile v d)
  | .HOTP_CMD, _ => on (writeHotpCmd v d)
  | _, _ => none

/-- What an admitted write of reader `m` does. -/
def Dev.busAct (d : Dev) (m a : Nat) (v : Word) (mem : Mem) : Dev × List MemOp :=
  match descAt (d.egress a) a with
  | none => (d, [])
  | some (r, ix) =>
    if r.rws ≠ 0 then (d.stage a r.rws v, [])
    else match d.writeAct m a v mem (pageOf a) r.id ix with
      | some x => x
      | none =>
        if perMaster r.id then (d.setPerW a m (plainWrite r (d.perW a m) v), [])
        else (d.setImmW a (plainWrite r (d.immW a) v), [])

/-- The pantry data register whose write stores a word, and its tile. -/
def Dev.pdata1At (d : Dev) (a : Nat) : Option Nat :=
  match pageOf a, descAt (d.egress a) a with
  | .tpan T, some (r, _) => if r.id = .TPAN_PDATA1 then some T else none
  | _, _ => none

/-- How a write of master `m` meets the word at `a` (R140-R144, R371, R381, R431). -/
def Dev.busMeet (d : Dev) (m a : Nat) : Meet :=
  match d.pdata1At a, pageOf a with
  | some T, _ => if d.panQual m T (d.panAddr m T) = false then .refuse else if d.panDown T then (if m = 6 then .nothing else .late) else .act
  | none, .zyn _ => if m = 7 then .refuse else d.meet m a
  | none, _ => d.meet m a

/-- One write word of a master, `num` being its posted number and `twinM` the twin's master for M7: the flag answers whether
any of it was refused by ownership. A write of M7 that fails here is reported back (R432). -/
def Dev.busWrite (d : Dev) (m twinM num a : Nat) (v : Word) (mem : Mem) : (Dev × List MemOp) × Bool :=
  match d.busMeet m a with
  | .act =>
    let part := match descAt (d.egress a) a with
      | some (r, _) => (r.id == .EV_STAT || r.id == .EV_EN || r.id == .EV_FORCE) && d.foreignBits m a r.id v
      | none => false
    (d.busAct m a v mem, part)
  | .nothing => ((d, []), false)
  | .refuse => ((d.refuse m, []), true)
  | .late =>
    let d := d.lateFault m twinM 1 (m = 7) false num a (quadOfPage (pageOf a))
    ((if m = 7 then d.sendFlit (.fault twinM num 1 a) else d, []), false)

/-- REGISTER_WRITE (R133, R140-R144, R382): a posted write of one word takes its number, and is accepted unless it was refused
whole. -/
def registerWrite (m a : Nat) (v : Word) (d : Dev) (mem : Mem) : Dev × List MemOp :=
  let d := d.post m
  let whole := d.busMeet m a == .refuse
  let r := d.busWrite m 0 (Tab.get d.late.num 0 m) a v mem
  (if whole then r.1.1 else r.1.1.postAccepted m, r.1.2)

/-! ## The service port (R136, R137) -/

/-- A frame's fields. -/
structure SvcCmd where
  op : Nat
  bar2 : Bool
  resv : Bool
  words : Nat
  addr : Nat
deriving DecidableEq, Repr

/-- The command of a frame: byte 0 and the address after it. -/
def svcCmd (bs : List Byte) : SvcCmd :=
  let c := byteAt bs 0
  ⟨c / 64, bitOf c 5, bitOf c 4, c % 16 + 1, be32 bs 1⟩

/-- The In bytes before the CRC. -/
def SvcCmd.len (c : SvcCmd) : Nat := if c.op = 1 then 5 + 4 * c.words else 5

/-- The command is refused for its form: BAD_CMD. -/
def SvcCmd.bad (c : SvcCmd) : Bool :=
  decide (2 ≤ c.op) || c.resv || decide (c.addr % 4 ≠ 0) || decide ((if c.bar2 then 2 ^ 29 else 2 ^ 27) < c.addr + 4 * c.words)

/-- The reply to a READ: STATUS, the words and their CRC. -/
def svcData (ws : List Nat) : List Byte :=
  let bs := 0 :: wordsBE ws
  bs ++ beBytes 2 (crcOf 2 bs)

/-- Reads successive words of BAR0: a snapshot window from one slot (R104, R133). -/
def Dev.readWords (d : Dev) (m a : Nat) (mem : Mem) : Nat → Dev × List Nat
  | 0 => (d, [])
  | n + 1 =>
    let r := d.busRead m a mem
    let t := r.1.readWords m (a + 4) mem n
    (t.1, r.2 :: t.2)

def Dev.svcRead (d : Dev) (c : SvcCmd) (mem : Mem) : Dev :=
  if c.bar2 then
    let banks := ((List.range c.words).map (fun i => bankOfByte (c.addr + 4 * i))).eraseDups
    if banks.all (d.qualifies 6) then d.emit (.svcReply (svcData ((List.range c.words).map (fun i => leNat (mem.bytes (c.addr + 4 * i) 4)))))
    else d.emit (.svcReply [3])
  else if pageOf c.addr = .window then
    let as := (List.range c.words).map (fun i => c.addr - 0x4000000 + 4 * i)
    ((as.map (· / 2 ^ 24)).eraseDups.foldl (fun d n => d.straddle 6 n 1) d).emit (.svcReply (svcData (as.map (fun a => d.readSlot (a / 2 ^ 24) (a % 2 ^ 24)))))
  else
    let r := d.readWords 6 c.addr mem c.words
    r.1.emit (.svcReply (svcData r.2))

/-- The words of a WRITE, in ascending order of address. -/
def svcWords (c : SvcCmd) (bs : List Byte) : List (Nat × Word) :=
  (List.range c.words).map (fun i => (c.addr + 4 * i, BitVec.ofNat 32 (be32 bs (5 + 4 * i))))

def Dev.svcWrite (d : Dev) (c : SvcCmd) (bs : List Byte) (mem : Mem) : Dev × List MemOp :=
  let ws := svcWords c bs
  if c.bar2 then
    let banks := (ws.map (fun x => bankOfByte x.1)).eraseDups
    if banks.all (d.qualifies 6) then (d.emit (.svcReply [0]), ws.map (fun x => .store x.1 (leBytes 4 x.2.toNat)))
    else ((d.refuse 6).emit (.svcReply [3]), [])
  else
    let r := ws.foldl (fun (r : (Dev × List MemOp) × Bool) x =>
      let y := r.1.1.busWrite 6 0 0 x.1 x.2 (mem.run r.1.2)
      ((y.1.1, r.1.2 ++ y.1.2), r.2 || y.2)) ((d, []), false)
    (r.1.1.emit (.svcReply [if r.2 then 3 else 0]), r.1.2)

/-- A frame fault: its STATUS is counted and pulsed (R159). -/
def Dev.svcFault (d : Dev) (status : Nat) : Dev :=
  let f := if status = 1 then F.HSVC_ERR_CRC_ERR else F.HSVC_ERR_BAD_CMD
  ((d.incIm A.HSVC_ERR f 1).house pgHSVC 0x340A status).emit (.svcReply [BitVec.ofNat 8 status])

/-- SVC_FRAME: the bytes the host sent, up to the rise of SVC_CS_N. A frame that ends before its CRC has no effect. -/
def svcFrame (bs : List Byte) (d : Dev) (mem : Mem) : Dev × List MemOp :=
  let c := svcCmd bs
  let n := c.len
  if bs.length < n + 2 then (d, [])
  else if be16 bs n ≠ crcOf 2 (bs.take n) then (d.svcFault 1, [])
  else if c.bad then (d.svcFault 2, [])
  else if c.op = 0 then (d.svcRead c mem, [])
  else d.svcWrite c bs mem

/-! ## The twin as a master (R139, R431) -/

/-- A byte's bank for one aligned word of the media store. -/
def Dev.m7Bank (d : Dev) (a : Nat) : Bool := decide (a + 4 ≤ 2 ^ 29) && d.qualifies 7 (bankOfByte a)

/-- An access of M7. -/
def Dev.accessIn (d : Dev) (x : AccessFlit) (mem : Mem) : Dev × List MemOp :=
  let a := x.addr / 4 * 4
  if x.write then
    if x.bar2 then (if d.m7Bank a then (d, [.store a (leBytes 4 x.data.toNat)]) else (d.refuse 7, []))
    else (d.busWrite 7 x.master x.num a x.data mem).1
  else if x.bar2 then
    (if d.m7Bank a then d.sendFlit (.response x.master 0 (BitVec.ofNat 32 (leNat (mem.bytes a 4)))) else d.sendFlit (.response x.master 1 0), [])
  else match pageOf a with
    | .zyn _ => (d.sendFlit (.response x.master 1 0), [])
    | _ =>
      let r := d.busRead 7 a mem
      (r.1.sendFlit (.response x.master 0 (BitVec.ofNat 32 r.2)), [])

/-- ACCESS_RECEIVE -/
def accessReceive (seq ack : Nat) (x : AccessFlit) (d : Dev) (mem : Mem) : Dev × List MemOp :=
  if d.zyn.link ≠ .up then (d, [])
  else if d.seqOk seq then (d.seqTake ack).accessIn x mem else (d.nak, [])

/-! ## The commands -/

/-- REGISTER_WRITE -/
def execRegisterWrite (m addr : Nat) (v : Word) (s : State) : Res := onMem (registerWrite m addr v) s
/-- SVC_FRAME -/
def execSvcFrame (bytes : List Byte) (s : State) : Res := onMem (svcFrame bytes) s
/-- SVC_FRAME_ABORT: raising SVC_CS_N before the last CRC bit discards the frame (R137). -/
def execSvcFrameAbort (s : State) : Res := onDev id s
/-- ACCESS_RECEIVE -/
def execAccessReceive (seq ack : Nat) (a : AccessFlit) (s : State) : Res := onMem (accessReceive seq ack a) s

end Sys2Proof.Machine
end

