-- ==== Sys2Proof/Machine/MicroBus.lean ====
section
/-! DEFINITION. Register accesses of a domain that are no master's: the microword's REGW and REGR, and what a DMA channel
reads and writes in BAR0 (R321, R374, R462). -/
namespace Sys2Proof.Machine

/-- Acts as the owner of domain `dom` and of no other (R321): reader `m` owns it while `f` runs. -/
def Dev.asOwner (d : Dev) (dom m : Nat) (f : Dev → Dev) : Dev :=
  let own : Tab Own := [(dom, { st := .owned, owner := m })]
  let r := f { d with own := own }
  if r.own == own then { r with own := d.own } else r

/-- A read of a BAR0 word for a domain by reader `m`: an owner's read in the domain, a non-owner's elsewhere (R146, R321). What
the registers show of owners is the device's own. -/
def Dev.domRead (d : Dev) (dom m a : Nat) (mem : Mem) : Dev × Nat :=
  match descAt (d.egress a) a with
  | some (r, _) =>
    if r.id = .OWNER_VIEW ∨ r.id = .HOWN_STAT then d.busRead m a mem
    else
      let own : Tab Own := [(dom, { st := .owned, owner := m })]
      let x := ({ d with own := own } : Dev).busRead m a mem
      ({ x.1 with own := d.own }, x.2)
  | none => d.busRead m a mem

/-- The immediate register at an address belongs to a block that is down (R313, R381). -/
def Dev.downAt (d : Dev) (a : Nat) : Bool :=
  match descAt (d.egress a) a with
  | some (r, _) => d.blockDown a r.id && !(headerReg r.id)
  | none => false

/-- A write of an admitted register for a domain by reader `m`. -/
def Dev.domWrite (d : Dev) (dom m a : Nat) (v : Word) (mem : Mem) : Dev × List MemOp :=
  match descAt (d.egress a) a with
  | some (r, _) =>
    if r.id = .EV_STAT ∨ r.id = .EV_EN ∨ r.id = .EV_FORCE then (d.asOwner dom m (writeEv r.id m a v), [])
    else d.busAct m a v mem
  | none => (d, [])

/-- REGW: a register of a block that is down is not written, ERR_CNT counts it and Z tells it. -/
def opRegw (T : Nat) (e : Eng) (w : Micro) (d : Dev) (m : Mem) : WordRes :=
  let a := mImm w
  if d.immAdmits e.dom a = false then .trap 6 a
  else if d.downAt a then .done (d.err (tengPage T)) (e.flagZ true) [] none
  else
    let r := d.domWrite e.dom (engineReader T) a (BitVec.ofNat 32 (e.rd (mSrb w)).toNat) m
    if r.1.pwr.inReset then .gone r.1 r.2 else .done r.1 ((r.1.engOf T).flagZ false) r.2 none

/-- REGR -/
def opRegr (T : Nat) (e : Eng) (w : Micro) (d : Dev) (m : Mem) : WordRes :=
  let r := d.domRead e.dom (engineReader T) (mImm w) m
  .done r.1 (e.wr (mDst w) (BitVec.ofNat 64 r.2)) [] (some (BitVec.ofNat 64 r.2))

/-! ## The commands -/

/-- REGW -/
def execRegw (T : Nat) (s : State) : Res := onMem (fun d m => d.runWord T 0x33 (opRegw T) m) s
/-- REGR -/
def execRegr (T : Nat) (s : State) : Res := onMem (fun d m => d.runWord T 0x34 (opRegr T) m) s

end Sys2Proof.Machine
end

