-- ==== Sys2Proof/Machine/DmaRun.lean ====
section
/-! DEFINITION. The DMA channels' programs (chapter Media Store, Pantries and DMA, R373-R379). A command names the instruction
that the channel executes; a move's bytes are copied when it completes, row by row. -/
namespace Sys2Proof.Machine

/-! ## Instructions (R375) -/

/-- The eight words of an instruction. -/
abbrev DmaInstr := List Nat

def DmaInstr.w (i : DmaInstr) (k : Nat) : Nat := i.getD k 0
def DmaInstr.op (i : DmaInstr) : Nat := i.w 0 % 16
def DmaInstr.kind (i : DmaInstr) : Nat := i.w 0 / 16 % 4

/-- Where the instruction in progress lies in the media store. -/
def Dev.dmaPc (d : Dev) (c : Nat) : Nat := d.im (A.DMA_PROG c) F.DMA_PROG_ADDR * 32 + 32 * (d.dmaOf c).index

def dmaFetch (mem : Mem) (a : Nat) : DmaInstr := (List.range 8).map (fun k => leNat (mem.bytes (a + 4 * k) 4))

/-- A word of an instruction is zero but for the bits `mask` lists. -/
def DmaInstr.only (i : DmaInstr) (k mask : Nat) : Bool := i.w k &&& (2 ^ 32 - 1 - mask) == 0
def DmaInstr.zero (i : DmaInstr) (ks : List Nat) : Bool := ks.all (fun k => i.w k == 0)

/-- The instruction is one of the table's, its unlisted bits 0 and its numbers in range; otherwise it is BAD_INSTR. -/
def DmaInstr.ok (i : DmaInstr) : Bool :=
  match i.op with
  | 1 => i.only 0 0xFFFF001F && decide (0 < i.w 0 / 65536) && i.only 1 0xFFFFFF && decide (0 < i.w 1)
  | 2 => i.only 0 0x3F && decide (0 < i.w 1) && i.only 2 0xFFFF && i.zero [3, 4, 5, 6, 7]
  | 3 => i.only 0 0x3F && decide (i.kind < 3) && (i.kind != 1 || i.only 1 0xFFFF) && i.zero [4, 5, 7]
  | 4 => i.only 0 0x7F && decide (i.w 0 / 16 % 8 < 6) && i.only 1 0xFFFFFF00 && i.zero [2, 3, 4, 5, 6, 7]
  | 5 => i.only 0 0x1F && i.zero [1, 4, 5, 6, 7]
  | _ => false

/-- The channel executes the instruction it stands at, when its OP is `op`: PROG when its bytes are not held by the domain,
BAD_INSTR when it is none. -/
def Dev.dmaExec (d : Dev) (c op : Nat) (mem : Mem) (f : DmaInstr → Dev → Dev × List MemOp) : Dev × List MemOp :=
  let x := d.dmaOf c
  if x.st ≠ .run ∨ x.regMode ∨ x.move.isSome then (d, [])
  else
    let a := d.dmaPc c
    if d.storeHeld x.dom a 32 = false then (d.dmaFault c 0x0A, [])
    else
      let i := dmaFetch mem a
      if i.ok = false then (d.dmaFault c 1, []) else if i.op = op then f i d else (d, [])

/-- The channel goes on at an instruction. -/
def Dev.dmaGoto (d : Dev) (c index : Nat) : Dev := d.setDma c { d.dmaOf c with st := .run, index := index }

def Dev.dmaNext (d : Dev) (c : Nat) : Dev := d.dmaGoto c ((d.dmaOf c).index + 1)

/-! ## Moves (R376, R377, R462) -/

/-- The move an instruction describes. -/
def DmaInstr.move (i : DmaInstr) : DmaMove :=
  { rows := i.w 0 / 65536, rowBytes := i.w 1, srcOff := i.w 2, srcSpace := i.w 3, dstOff := i.w 4, dstSpace := i.w 5
    srcStride := sgn 32 (i.w 6), dstStride := sgn 32 (i.w 7), nochk := bitOf (i.w 0) 4 }

/-- One side of a row meets a tile that is offline or a block that is down. -/
def Dev.rowDown (d : Dev) (space a n : Nat) : Bool :=
  match spaceOf space with
  | some (1, T) => d.tileDown T
  | some (2, _) => (List.range (n / 4)).any (fun i => d.downAt (a + 4 * i))
  | _ => false

/-- What a move has done so far: the device, the memories as they stand, the writes, the running check register. -/
structure MoveAcc where
  d : Dev
  mem : Mem
  ops : List MemOp
  crc : Nat
  fault : Nat
deriving DecidableEq, Repr

def MoveAcc.put (x : MoveAcc) (r : Dev × List MemOp) : MoveAcc := { x with d := r.1, mem := x.mem.run r.2, ops := x.ops ++ r.2 }

/-- Reads the bytes of a row. -/
def Dev.rowRead (d : Dev) (c dom space a n : Nat) (mem : Mem) : Dev × List Byte :=
  match spaceOf space with
  | some (0, _) => (d, mem.bytes a n)
  | some (1, T) => (d, mem.pbytes T a n)
  | _ => (List.range (n / 4)).foldl (fun (r : Dev × List Byte) i =>
      let v := r.1.domRead dom (dmaReader c) (a + 4 * i) mem
      (v.1, r.2 ++ leBytes 4 v.2)) (d, [])

/-- Writes the bytes of a row. -/
def MoveAcc.rowWrite (x : MoveAcc) (c dom space a : Nat) (bs : List Byte) : MoveAcc :=
  match spaceOf space with
  | some (0, _) => x.put (x.d, [.store a bs])
  | some (1, T) => x.put (x.d, [.pantry T a bs])
  | _ => (List.range (bs.length / 4)).foldl (fun (x : MoveAcc) i =>
      if x.d.pwr.inReset then x
      else x.put (x.d.domWrite dom (dmaReader c) (a + 4 * i) (BitVec.ofNat 32 (leNat ((bs.drop (4 * i)).take 4))) x.mem)) x

/-- Row `r` of a move. -/
def MoveAcc.row (x : MoveAcc) (c dom poly : Nat) (chk : Bool) (m : DmaMove) (r : Nat) : MoveAcc :=
  let s := (((m.srcOff : Int) + (r : Int) * m.srcStride) % 2 ^ 32).toNat
  let t := (((m.dstOff : Int) + (r : Int) * m.dstStride) % 2 ^ 32).toNat
  if x.fault ≠ 0 ∨ x.d.pwr.inReset then x
  else if x.d.rowDown m.srcSpace s m.rowBytes || x.d.rowDown m.dstSpace t m.rowBytes then { x with fault := 7 }
  else
    let rd := x.d.rowRead c dom m.srcSpace s m.rowBytes x.mem
    ({ x with d := rd.1, crc := if chk then crcRun poly x.crc rd.2 else x.crc }).rowWrite c dom m.dstSpace t rd.2

/-- The check value of a channel: with CHK_EN = 0 no rule gives one (free value, log entry 2). -/
def Dev.dmaValue (d : Dev) (c : Nat) : Nat × Dev :=
  if d.lvb (A.DMA_CFG c) F.DMA_CFG_CHK_EN then (crcOut (d.lv (A.DMA_CFG c) F.DMA_CFG_POLY) (d.dmaOf c).crc, d)
  else let fr := d.fresh; (fr.1.toNat, fr.2)

/-- The channel has done its work: DMA_CHK takes the check value of CHK_EN, DONE is pulsed, the channel stops. -/
def Dev.dmaDone (d : Dev) (c v : Nat) : Dev :=
  let x := d.dmaOf c
  let chk := if d.lvb (A.DMA_CFG c) F.DMA_CFG_CHK_EN then v else x.chk
  (d.setDma c { x with st := .idle, move := none, chk := chk }).dmaPulse c 6 (v % 2 ^ 24)

/-- DMA_MOVE -/
def dmaMove (c : Nat) (d : Dev) (mem : Mem) : Dev × List MemOp := d.dmaExec c 1 mem (fun i d => (d.startMove c i.move, []))

/-- DMA_MOVE_COMPLETE: the rows are copied in ascending order. -/
def dmaMoveComplete (c : Nat) (d : Dev) (mem : Mem) : Dev × List MemOp :=
  let x := d.dmaOf c
  match x.move with
  | none => (d, [])
  | some m =>
    let chk := d.lvb (A.DMA_CFG c) F.DMA_CFG_CHK_EN && !m.nochk
    let poly := d.lv (A.DMA_CFG c) F.DMA_CFG_POLY
    let r := (List.range m.rows).foldl (fun (a : MoveAcc) i => a.row c x.dom poly chk m i) ⟨d, mem, [], x.crc, 0⟩
    let d := r.d
    if d.pwr.inReset then (d, r.ops)
    else if r.fault ≠ 0 then (d.dmaFault c r.fault, r.ops)
    else if (d.dmaOf c).move.isNone then (d, r.ops)
    else
      let y := d.dmaOf c
      let d := d.setDma c { y with move := none, crc := r.crc, bytes := sat 32 (y.bytes + m.rows * m.rowBytes) }
      if x.regMode then (let v := d.dmaValue c; v.2.dmaDone c v.1, r.ops) else (d.dmaNext c, r.ops)

/-! ## The other instructions -/

/-- DMA_LOOP -/
def dmaLoop (c : Nat) (d : Dev) (mem : Mem) : Dev × List MemOp :=
  d.dmaExec c 2 mem (fun i d =>
    let x := d.dmaOf c
    let n := (Tab.get? x.ctrs i.kind).getD (i.w 1 - 1)
    if n = 0 then ((d.setDma c { x with ctrs := Tab.del x.ctrs i.kind }).dmaNext c, [])
    else ((d.setDma c { x with ctrs := Tab.set x.ctrs i.kind (n - 1) }).dmaGoto c (i.w 2), []))

/-- DMA_WAIT -/
def dmaWait (c : Nat) (d : Dev) (mem : Mem) : Dev × List MemOp :=
  d.dmaExec c 3 mem (fun i d =>
    let x : Dma := { d.dmaOf c with st := .wait }
    match i.kind with
    | 0 => (d.setDma c { x with waitT := some (unshort d.now (i.w 2 + i.w 3 * 2 ^ 32)) }, [])
    | 1 => (d.setDma c { x with waitId := some (i.w 1), waitTimeout := if i.w 6 = 0 then none else some (d.now + i.w 6 * usTU) }, [])
    | _ => (d.setDma c { x with waitT := some (d.now + i.w 1 * nsTU) }, []))

/-- DMA_WAIT_END: the instant, the pulse, or the timeout. -/
def dmaWaitEnd (c : Nat) (d : Dev) : Dev :=
  let x := d.dmaOf c
  if x.st ≠ .wait then d
  else match x.waitT, takeCopy (· == .dma c) d.fabric, x.waitTimeout with
    | some t, _, _ => ((d.advanceTo t).dmaUnwatch c).dmaNext c
    | none, some _, _ => (d.dmaUnwatch c).dmaNext c
    | none, none, some t => (d.advanceTo t).dmaFault c 6
    | none, none, none => d

/-- DMA_SIGNAL -/
def dmaSignal (c : Nat) (d : Dev) (mem : Mem) : Dev × List MemOp :=
  d.dmaExec c 4 mem (fun i d => ((d.dmaNext c).dmaPulse c (i.w 0 / 16 % 8) (i.w 1 / 256), []))

/-- DMA_END -/
def dmaEnd (c : Nat) (d : Dev) (mem : Mem) : Dev × List MemOp :=
  d.dmaExec c 5 mem (fun i d =>
    let v := d.dmaValue c
    let d := v.2
    if bitOf (i.w 0) 4 = false then (d.dmaDone c v.1, [])
    else
      let dom := (d.dmaOf c).dom
      let f := d.sideFault dom (i.w 2) (i.w 3) 0 1 8 true
      if f ≠ 0 then (d.dmaFault c f, [])
      else if d.rowDown (i.w 3) (i.w 2) 8 then (d.dmaFault c 7, [])
      else
        let r := (⟨d, mem, [], 0, 0⟩ : MoveAcc).rowWrite c dom (i.w 3) (i.w 2) (leBytes 8 v.1)
        if r.d.pwr.inReset then (r.d, r.ops) else (r.d.dmaDone c v.1, r.ops))

/-- What a boundary does to a channel whose domain it changes, the settings having been `ow` (R373). -/
def Dev.dmaApply (d : Dev) (c : Nat) (ow : View) : Dev :=
  if (d.dmaOf c).busy && dmaHolder ow c != dmaHolder d.live c then d.dmaFault c 0x0C else d

/-! ## The commands -/

/-- DMA_MOVE -/
def execDmaMove (c : Nat) (s : State) : Res := onMem (dmaMove c) s
/-- DMA_MOVE_COMPLETE -/
def execDmaMoveComplete (c : Nat) (s : State) : Res := onMem (dmaMoveComplete c) s
/-- DMA_LOOP -/
def execDmaLoop (c : Nat) (s : State) : Res := onMem (dmaLoop c) s
/-- DMA_WAIT -/
def execDmaWait (c : Nat) (s : State) : Res := onMem (dmaWait c) s
/-- DMA_WAIT_END -/
def execDmaWaitEnd (c : Nat) (s : State) : Res := onDev (dmaWaitEnd c) s
/-- DMA_SIGNAL -/
def execDmaSignal (c : Nat) (s : State) : Res := onMem (dmaSignal c) s
/-- DMA_END -/
def execDmaEnd (c : Nat) (s : State) : Res := onMem (dmaEnd c) s

end Sys2Proof.Machine
end

