-- ==== Sys2Proof/Machine/Closing.lean ====
section
/-! DEFINITION. What a boundary writes into the records of the epoch it ends: the values at END (R99, R100, R181, R216, R253,
R285, R310, R340, R359, R406), and what the epoch that begins shows from its first instant. -/
namespace Sys2Proof.Machine

/-! ## Values at END -/

/-- The slot header: BEGIN, END, MODE (R99). -/
def Dev.headerEnd (d : Dev) (B : Nat) : Dev :=
  let e := d.sq.num
  let beg := fullTime ((d.sq.marks.head?.map (·.beg)).getD 0)
  let fin := fullTime B
  d.accRun e 0 ([opOr 8 (d.lv A.HCFG_MODE F.HCFG_MODE_MODE * 4)] ++
    (List.range 3).map (fun i => opSet (0x20 + 4 * i) (beg.getD i 0)) ++ (List.range 3).map (fun i => opSet (0x2C + 4 * i) (fin.getD i 0)))

/-- The house record (R100). -/
def Dev.houseEnd (d : Dev) : Dev :=
  let refs := (List.range 4).map (fun n =>
    let r := Tab.get d.h.refs {} n
    opSet (0x28 + 32 * n) (b2n r.lock + r.det % 16 * 16))
  d.accRun d.sq.num recHouse ([(0x10, fun x => (if x.testBit 4 then 16 else 0) + tpllCode d.h.tpll + d.h.src * 4),
    opSet 0x14 (d.lvW A.HTIM_UTC).toNat, opSet 0x18 (d.immW A.HTIM_FTRIM).toNat] ++ refs)

/-- A quadrant record, with the last values of its check units (R406). -/
def Dev.quadEnd (d : Dev) (q : Nat) : Dev :=
  d.accRun d.sq.num (recQuad q) (opSet 0x0C q :: (List.range 4).flatMap (fun i =>
    let v := (d.cvuOf (4 * q + i)).val
    [opSet (0x740 + 48 * i + 8) v, opSet (0x740 + 48 * i + 12) (v / 2 ^ 32)]))

/-- The channel is the step pin of an axis, whose position its record shows (R285). -/
def Dev.stepAxis (d : Dev) (pc : Nat) : Option Nat := (tileAxes d.live (pc / 64)).find? (fun a => stepPin d.live a == some pc)

/-- A pin channel's record (R253, R285). -/
def Dev.pinEnd (d : Dev) (B pc : Nat) : Dev :=
  let d := d.safeTime pc B
  let c := d.pcOf pc
  let level := if c.oe then c.pin else c.inLevel
  let v := d.pcMode pc + b2n level * 16 + b2n c.runs * 32 + b2n (decide (60 ≤ pc % 64)) * 64
  let pos := match d.stepAxis pc with | some a => [opSet 0xDC (unsgn 32 (d.axOf a).pos)] | none => []
  d.accRun d.sq.num (recPin pc) ([opSet 0x0C v, opSet 0x48 c.cnt, opSet 0x4C (c.cnt / 2 ^ 32),
    (0xC8, fun x => x / 2 ^ 16 * 2 ^ 16 + c.cause % 512)] ++ pos)

/-- An angle unit's record (R310). -/
def Dev.auEnd (d : Dev) (B u : Nat) : Dev :=
  let p := (d.estimate u B).1
  d.accRun d.sq.num (recAU u) [opSet 0x0C (d.auStat u % 32 / 16 * 16 + d.auStat u % 4 + b2n (d.auOf u).neg * 4 + b2n (d.auOf u).qual * 8),
    opSet 0x30 (unsgn 32 (p / 2 ^ 32)), opSet 0x34 (unsgn 32 p)]

/-- A flow channel's record (R181, R216). -/
def Dev.fcEnd (d : Dev) (fc : Nat) : Dev :=
  let w := d.live
  if fcDir w fc ≠ 2 then d.accRun d.sq.num (recFc fc) (fcEndOps w fc (Tab.get d.fin {} fc))
  else
    let o := d.foutOf fc
    let live := d.lvE (A.FCH_MODE fc + 0x10) F.FCH_ESRC_SRC
    let ret := match o.retire with | some r => r.src * 2 ^ 16 + 2 ^ 31 | none => 0
    d.accRun d.sq.num (recFc fc) [
      opSet 0x0C (2 + fcEss w fc * 4 + fcMode w fc F.FCH_MODE_CLASS * 32 + fcMode w fc F.FCH_MODE_CUT * 64 +
        d.lvE (A.FCH_MODE fc + 0x10) F.FCH_ESRC_SRC_EN * 128),
      opSet 0x34 o.q, opSet 0x38 o.lastTs, opSet 0x3C (live + ret)]

/-- A tile's record (R340). -/
def Dev.tileEnd (d : Dev) (T : Nat) : Dev :=
  let e := d.engOf T
  (d.engEpochEnd T).accRun d.sq.num (recTile T) [
    (0x0C, fun x => x % 32 / 8 * 8 + engStCode e.st + e.img.kind * 32 + e.img.version % 2 ^ 16 * 2 ^ 16)]

/-- The inner accumulator of a room's BUDGET_LEFT on a tile at END. -/
def privLeft (r T : Nat) : Nat := 0x650000 + 260 * r + T

/-- The rooms' records: the owner, and BUDGET_LEFT on each tile (R359). -/
def Dev.roomsEnd (d : Dev) : Dev :=
  let d := (d.own.filter (fun e => decide (e.1 < 256))).foldl (fun d e =>
    match d.ownerOf e.1 with
    | some m => d.accRun d.sq.num (recRoom e.1) [opOr 0x0C (1 + m * 2)]
    | none => d) d
  (shareTiles (bankKeys d.regs.live)).foldl (fun d T => (sharesOf d.live T).foldl (fun d s =>
    d.accRun d.sq.num (privLeft s.room T) [(0, fun _ => unsgn 32 (sat32i (d.budgetLeft T s.room)))]) d) d

/-- Everything the records of the epoch in progress show at its end `B`. -/
def Dev.closeValues (d : Dev) (B : Nat) : Dev :=
  let d := d.headerEnd B |>.houseEnd
  let d := (List.range 4).foldl (fun d q => d.quadEnd q) d
  let d := (List.range 256).foldl (fun d pc => d.pinEnd B pc) d
  let d := (List.range 8).foldl (fun d u => d.auEnd B u) d
  let d := ((bankKeys d.regs.live).filterMap fcModeAt).foldl (fun d fc => d.fcEnd fc) d
  (List.range 260).foldl (fun d T => d.tileEnd T) d |>.roomsEnd

/-! ## What holds from the first instant of an epoch -/

/-- The header's flags: HOLDOVER, SETTLING, PFW_N (R99). -/
def Dev.openHeader (d : Dev) : Dev :=
  d.accRun d.sq.num 0 [opOr 8 (b2n (d.h.tpll == .holdover) * 2 ^ 8 + b2n (!d.sq.modes.isEmpty) * 2 ^ 4 + b2n d.sq.pfwLow * 2 ^ 10)]

/-- A tile: online, HALTED, STOPPED, the level of its inbox. -/
def Dev.openTile (d : Dev) (T : Nat) : Dev :=
  let e := d.engOf T
  let d := if e.offlineNow then d else d.accRun d.sq.num (recOnline T) [opSet 0 1]
  d.accRun d.sq.num (recTile T) [opOr 0x0C (b2n (e.st == .halted) * 8 + b2n (e.st == .stopped) * 16), opMax 0x2C e.inbox.length]

/-- A pin channel: the causes that hold, the level of its queue. -/
def Dev.openPin (d : Dev) (pc : Nat) : Dev :=
  let c := d.pcOf pc
  d.accRun d.sq.num (recPin pc) [opOr 0xC8 (c.cause * 2 ^ 16), opMax 0x6C c.q.length]

/-- An angle unit: the levels of its queues. -/
def Dev.openAu (d : Dev) (u : Nat) : Dev :=
  d.accRun d.sq.num (recAU u) ((List.range 4).map (fun o => opMax (outRec o 20) ((d.auOf u).out o).length))

/-- What the records of the epoch that has begun hold from its first instant. -/
def Dev.openValues (d : Dev) : Dev :=
  let d := d.openHeader
  let d := (d.eng.map (·.1)).foldl (fun d T => d.openTile T) d
  let d := (d.pins.map (·.1)).foldl (fun d pc => d.openPin pc) d
  (d.au.map (·.1)).foldl (fun d u => d.openAu u) d

end Sys2Proof.Machine
end

