-- ==== Sys2Proof/Machine/Settings.lean ====
section
/-! DEFINITION. The switch of settings at a boundary and what each block makes of it (R83, R88, R111, R156, R180, R198, R230,
R248, R261, R308, R345, R351, R355, R366). -/
namespace Sys2Proof.Machine

/-! ## What applies -/

/-- One locked commit at its boundary: domain, ID, the staged addresses whose value it changes, the tooth tables. -/
structure Applied where
  dom : Nat
  id : Nat
  keys : List Nat
  teeth : Tab (List Nat)
deriving DecidableEq, Repr

/-- The word last committed at an address: the live one, but for what the device itself overlays (SETTLING, the ring role of a
takeover). -/
def Dev.committed (d : Dev) (a : Nat) : Word :=
  if a = A.HRING_CFG then (match d.zyn.ringRole with | some r => fput (d.lvW a) F.HRING_CFG_ROLE r | none => d.lvW a)
  else if a = A.HCFG_MODE then fput (d.lvW a) F.HCFG_MODE_SETTLING 0
  else d.lvW a

/-- The commits that apply: the house's first, then the rooms' in ascending order. -/
def Dev.applying (d : Dev) : List Applied :=
  let on := (houseDom :: (d.sq.commits.map (·.1)).filter (· != houseDom)).filter (fun x => (d.commitOf x).st == .locked)
  on.map (fun x =>
    { dom := x, id := (d.commitOf x).id, teeth := (d.commitOf x).teeth
      keys := ((Tab.get d.regs.pending [] x).filter (fun e => e.2 != d.committed e.1)).map (·.1) })

/-- The live bank after the boundary (R111). -/
def Dev.nextBank (d : Dev) (ap : List Applied) : Tab Word := ap.foldl (fun t x => Tab.ovr t (Tab.get d.regs.pending [] x.dom)) d.regs.live

/-- The flow channel and block offset of a staged address. -/
def fcBlock (a : Nat) : Option (Nat × Nat) :=
  match pageOf a with
  | .fch T j =>
    let o := a % 0x1000
    let fc := fcOfSlot T j ((o - 0x40) / 0xB0)
    if 0x40 ≤ o ∧ o < 0x7D0 ∧ fc < 128 * (T + 1) then some (fc, (o - 0x40) % 0xB0) else none
  | _ => none

/-- The record of the resource a staged address belongs to (R98). -/
def recordOf (a : Nat) : Nat :=
  match fcBlock a, pcBlock a with
  | some x, _ => recFc x.1
  | none, some pc => recPin pc
  | none, none => match pageOf a with
    | .au u => recAU u
    | .qcfg q | .qirq q | .qmem q _ | .qpool q _ => recQuad q
    | .port n _ => recQuad (n / 4)
    | .dma c => recQuad (c / 8)
    | .cvu c => recQuad (c / 4)
    | .teng T | .tirq T | .ttmr T | .tpan T | .fch T _ => recTile T
    | .pch q _ => recTile (256 + q)
    | .room r _ => recRoom r
    | _ => recHouse

/-! ## Before the switch -/

/-- The registers of an axis (R276). -/
def axisRegs (a : Nat) : List Nat :=
  [A.AX_PINS a, A.AX_OPT a, A.AX_PHOME a, A.AX_HMAX a, A.AX_HPOS a, A.AX_TIME a, A.AX_DRV a 0, A.AX_DRV a 1]

/-- An axis whose registers a commit changes: a move ends with no step at or after `B`; HOMED goes with AX_PINS or AX_OPT
(R276, R277). -/
def Dev.axisApply (d : Dev) (B a : Nat) (keys : List Nat) : Dev :=
  if (axisRegs a).any keys.contains = false then d
  else
    let d := if (d.axOf a).moving then d.endMove a B 7 B .idle true else d
    if keys.contains (A.AX_PINS a) ∨ keys.contains (A.AX_OPT a) then d.setAx a { d.axOf a with homed := false } else d

/-- The sub-ports of an octet whose split changes lose their links (R214). -/
def Dev.splitApply (d : Dev) (nw : View) : Dev :=
  d.ports.foldl (fun d e =>
    if (d.portOf e.1).up && laneWidth nw (e.1 / 8) != laneWidth d.live (e.1 / 8) then d.setLink e.1 0 else d) d

/-- What the old settings still end at the boundary. -/
def Dev.beforeSwitch (d : Dev) (B : Nat) (keys : List Nat) (nw : View) : Dev :=
  let d := (List.range 32).foldl (fun d a => d.axisApply B a keys) d
  d.splitApply nw

/-! ## The switch -/

/-- Two periods are equal. -/
def samePeriod (p q : Nat × Nat) : Bool := p.1 * q.2 == q.1 * p.2

/-- The bank switches and the epoch number steps at grid point `B` (R81, R83, R88, R111). -/
def Dev.switchBank (d : Dev) (B : Nat) (ap : List Applied) (bank : Tab Word) : Dev :=
  let old := d.regs.live
  let ow := viewOf old
  let nw := viewOf bank
  let m0 := ow.f A.HCFG_MODE F.HCFG_MODE_MODE
  let m1 := nw.f A.HCFG_MODE F.HCFG_MODE_MODE
  let modes := if m0 = m1 then d.sq.modes else ((d.sq.modes ++ [m0]).eraseDups).filter (· != m1)
  let bank := if modes = [] then bank else Tab.set bank A.HCFG_MODE (fput (nw A.HCFG_MODE) F.HCFG_MODE_SETTLING 1)
  let p := periodOf nw
  let n := if samePeriod p (periodOf ow) then d.sq.nextGrid + 1 else gridFrom p (B + 1000 * usTU)
  let num := d.sq.num + 1
  let d : Dev := { d with
    regs := { d.regs with live := bank, retiring := some old }
    sq := { d.sq with
      num := num, marks := (⟨num, B, B⟩ : EpochMark) :: d.sq.marks, bnd := B, nextGrid := n, nxt := (gridPoint p n).toNat, locked := false
      anyBoundary := true, refusedM := [], modes := modes, firstApplied := d.sq.firstApplied || !ap.isEmpty
      pubs := d.sq.pubs ++ [⟨d.sq.num, none, false, old⟩] } }
  d.houseAt pgHEPC 0x3100 num B

/-- A page a commit has changed: PG_STATE, LH_EPOCH, LH_COMMIT (R154, R156). -/
def Dev.pageApplied (d : Dev) (x : Applied) (page : Nat) : Dev :=
  let e := d.sq.num
  ((d.setImmW (A.PG_STATE page) (BitVec.ofNat 32 (e % 2 ^ 24 + 2 ^ 24))).setImmW (A.LH_EPOCH page) (BitVec.ofNat 32 e)).setImmW
    (A.LH_COMMIT page) (BitVec.ofNat 32 (x.id % 65536 + x.dom * 65536))

/-- The pages and the records of what the commits have changed: APPLIED, COMMITS (R98-R100, R156). -/
def Dev.notesApplied (d : Dev) (ap : List Applied) : Dev :=
  let d := ap.foldl (fun d x => ((x.keys.map pageBase).eraseDups).foldl (fun d p => d.pageApplied x p) d) d
  let recs := ((ap.flatMap (·.keys)).map recordOf).eraseDups
  let d := recs.foldl (fun d r => d.accRun d.sq.num r [opOr 4 8]) d
  let d := if ap = [] then d else d.hdrFlag d.sq.num 9
  d.accRun d.sq.num recHouse (opSet 0xA0 ap.length :: ap.zipIdx.map (fun x => opSet (0x100 + 4 * x.2) (x.1.id % 65536 + x.1.dom * 65536)))

/-! ## Flow channels -/

/-- One migration that applies: room, OLD, NEW (R354). -/
structure Migration where
  room : Nat
  old : Nat
  new : Nat
deriving DecidableEq, Repr

/-- The migrations of the commits that apply. -/
def Dev.migrations (d : Dev) (ap : List Applied) : List Migration :=
  ap.flatMap (fun x => x.keys.filterMap (fun a => match pageOf a with
    | .room r 0 =>
      if r = x.dom ∧ a % 0x1000 < 0x140 ∧ d.lv a F.ROOM_MIG_EN = 1 then some ⟨r, d.lv a F.ROOM_MIG_OLD, d.lv a F.ROOM_MIG_NEW⟩ else none
    | _ => none))

/-- A migration is recorded: the placement of both channels, MIG_DONE (R358, R359). -/
def Dev.migNote (d : Dev) (m : Migration) : Dev :=
  let e := d.sq.num
  let d : Dev := { d with mig := Tab.set (Tab.set d.mig m.old (m.new, e, 0)) m.new (m.old, e, 1) }
  d.accRun e (recRoom m.room) [opOr 0x0C 32, opAdd 0x60 1]

/-- The words whose change restarts the model of an ingress channel (R180). -/
def modelOffset (off : Nat) : Bool := off == 0 || (decide (0x10 ≤ off) && decide (off ≤ 0x68))

/-- The policer's count moves to new settings: what it had at `B` under the old, no more than the new CBS (R180). -/
def FlowIn.policerApply (f : FlowIn) (cir cbs cir' cbs' B : Nat) : FlowIn :=
  if cir' = 0 ∨ f.tokLive = false then { f with tokLive := false }
  else { f with tokens := min (refill f.tokens f.tokAt (125 * cir) (cbs * secTU) B) (cbs' * secTU), tokAt := max f.tokAt B }

/-- What the boundary does to an ingress channel's model (R180, R355): `offs` are the block's words that changed. -/
def Dev.ingressApply (d : Dev) (fc B : Nat) (ow : View) (offs : List Nat) : Dev :=
  let w := d.live
  let was := fcDir ow fc == 1
  let now := fcDir w fc == 1
  let f := Tab.get d.fin {} fc
  if was = false ∧ now = false then d
  else if offs.any modelOffset then
    let d : Dev := if was then { d with finOld := Tab.set d.finOld fc f } else d
    if now then { d with fin := Tab.set d.fin fc (if was then f.restart else {}) } else { d with fin := Tab.del d.fin fc, srcFrame := Tab.del d.srcFrame fc }
  else
    { d with fin := Tab.set d.fin fc (f.policerApply (ow.f (A.FCH_POL0 fc) F.FCH_POL0_CIR) (ow.f (A.FCH_POL1 fc) F.FCH_POL1_CBS)
        (w.f (A.FCH_POL0 fc) F.FCH_POL0_CIR) (w.f (A.FCH_POL1 fc) F.FCH_POL1_CBS) B) }

/-- What the boundary does to the flow channels. -/
def Dev.flowsApply (d : Dev) (B : Nat) (ob : Tab Word) (keys : List Nat) (migs : List Migration) : Dev :=
  let ow := viewOf ob
  let blocks := keys.filterMap fcBlock
  let fcs := (blocks.map (·.1)).eraseDups
  let nw (fc : Nat) : Tab Word := blockWords d.regs.live fc
  let d := migs.foldl (fun d m => d.migNote m) d
  fcs.foldl (fun d fc =>
    let d := d.ingressApply fc B ow ((blocks.filter (fun x => x.1 == fc)).map (·.2))
    let from_ := migs.find? (fun m => m.new == fc)
    let into := migs.find? (fun m => m.old == fc)
    let d : Dev := if from_.isSome && fcDir d.live fc == 1 then { d with fin := Tab.set d.fin fc { held := true } } else d
    let newS := into.bind (fun m => if fcDir ow fc = 2 then some (slotFrom (nw m.new) ((B + egDelay (nw m.new) : Nat) : Int)) else none)
    let fromOld := from_.bind (fun m => if fcDir d.live fc = 2 then some m.old else none)
    if fcDir ow fc = 2 ∨ fcDir d.live fc = 2 then d.egressApply fc B (blockWords ob fc) (nw fc) newS fromOld else d) d

/-! ## Contracts, cross-feeds, pools -/

/-- A meter at `B` when its settings change: full when it becomes live, otherwise clipped (R351). -/
def meterApply (e : Option (Nat × Nat × Nat)) (rate full full' B : Nat) : Option (Nat × Nat × Nat) :=
  e.map (fun x => (min (refill x.1 x.2.1 rate full B) full', max x.2.1 B, 0))

/-- The two meters of a contract entry. -/
def Dev.contractApply (d : Dev) (B : Nat) (ow : View) (i : Nat) : Dev :=
  let w := d.live
  let c0 := A.HRAS_CON0 i
  let c1 := A.HRAS_CON1 i
  let live := w.b c0 F.HRAS_CON0_EN && (!(ow.b c0 F.HRAS_CON0_EN) || ow.f c0 F.HRAS_CON0_PORT != w.f c0 F.HRAS_CON0_PORT ||
    ow.f c0 F.HRAS_CON0_ROOM != w.f c0 F.HRAS_CON0_ROOM)
  let full (v : View) : Nat := v.f c0 F.HRAS_CON0_BURST * 1024 * secTU
  [false, true].foldl (fun d out =>
    let k := 2 * i + b2n out
    let rate := 1250000 * ow.f c1 (if out then F.HRAS_CON1_OUT else F.HRAS_CON1_IN)
    match (if live || !(w.b c0 F.HRAS_CON0_EN) then none else meterApply (Tab.get? d.meters k) rate (full ow) (full w) B) with
    | some e => { d with meters := Tab.set d.meters k e }
    | none => { d with meters := Tab.del d.meters k }) d

/-- The contract entries whose words changed. -/
def contractKeys (keys : List Nat) : List Nat :=
  (keys.filterMap (fun a => match pageOf a with
    | .hras 5 => some ((a % 0x800 - 0x40) / 8)
    | .hras 6 => some (248 + (a % 0x800 - 0x40) / 8)
    | _ => none)).eraseDups

/-- The meter of a cross-feed entry (R425). -/
def Dev.crossApply (d : Dev) (B : Nat) (ow : View) (i : Nat) : Dev :=
  let w := d.live
  let a := A.ZYN_XF i
  if ow a = w a then d
  else if ow.b a F.ZYN_XF_EN && w.b a F.ZYN_XF_EN && ow.f a F.ZYN_XF_FC == w.f a F.ZYN_XF_FC then
    match Tab.get? d.zyn.meters i with
    | some e =>
      let m := (refill e.1 e.2 (12500000 * ow.f a F.ZYN_XF_RATE) (65536 * secTU) B, max e.2 B)
      { d with zyn := { d.zyn with meters := Tab.set d.zyn.meters i m } }
    | none => d
  else { d with zyn := { d.zyn with meters := Tab.del d.zyn.meters i } }

/-! ## Protection, groups, references -/

/-- A trip input whose settings changed: an input at its level when it is enabled begins to hold at `B` (R262, R484). -/
def Dev.tripApply (d : Dev) (B : Nat) (ow : View) (i : Nat) : Dev :=
  let w := d.live
  let a := A.TRIP_CFG i
  if ow a = w a then d
  else
    let x := d.tripOf i
    let en := w.b a F.TRIP_CFG_EN
    let fresh := en && (!(ow.b a F.TRIP_CFG_EN) || ow.f a F.TRIP_CFG_POL != w.f a F.TRIP_CFG_POL)
    if en = false then d.setTrip i { x with held := none, asserted := false, blank := [], blankHeld := [] }
    else if fresh = false then d
    else if d.tripUnpowered i then (d.setTrip i { x with held := none, asserted := false, blankHeld := [] }).tripForced i B
    else d.setTrip i { x with asserted := false, blankHeld := [], held := if x.level = w.b a F.TRIP_CFG_POL then some B else none }

/-- The demands of a group that its settings no longer hold end at `B`. -/
def Dev.grpApply (d : Dev) (B g : Nat) : Dev :=
  let w := d.live
  d.demandsEnd g B (fun m => w.b (A.GRP_CFG g) F.GRP_CFG_EN && (grpMembers w g).any (fun y => y.2 % 64 == m.k) &&
    d.pcMode (64 * (g / 16) + m.k) == 12)

/-- An axis whose pins a commit changes has the direction its DIR pin shows (DESIGN CHOICE, log entry 88). -/
def Dev.dirApply (d : Dev) (keys : List Nat) (a : Nat) : Dev :=
  if keys.contains (A.AX_PINS a) = false then d
  else match dirPin d.live a with
    | some pc => d.setAx a { d.axOf a with dirLevel := (d.pcOf pc).wlevel, dirAt := [] }
    | none => d.setAx a { d.axOf a with dirAt := [] }

/-- A reference input whose settings changed is measured anew. -/
def Dev.refApply (d : Dev) (ow : View) (n : Nat) : Dev :=
  if ow (A.HREF_IN n) = d.live (A.HREF_IN n) then d
  else
    let was := (Tab.get d.h.refs {} n).lock
    let d : Dev := { d with h := { d.h with refs := Tab.del d.h.refs n } }
    if was then d.house pgHREF (0x3010 + n) 0 else d

/-- The angle units whose settings changed. -/
def Dev.ausApply (d : Dev) (B : Nat) (ow : View) (keys : List Nat) (ap : List Applied) : Dev :=
  (List.range 8).foldl (fun d u =>
    let teeth := (ap.filterMap (fun x => Tab.get? x.teeth u)).head?
    if teeth.isSome || keys.any (fun a => pageOf a == .au u) then d.auApply u B ow teeth else d) d

/-! ## All blocks -/

/-- What the blocks make of the switch from bank `ob`. -/
def Dev.blocksApply (d : Dev) (B : Nat) (ob : Tab Word) (keys : List Nat) (ap : List Applied) : Dev :=
  let ow := viewOf ob
  let d := d.flowsApply B ob keys (d.migrations ap)
  let d := (sortNat ((keys.filterMap pcBlock).eraseDups)).foldl (fun d pc => d.pinApply pc B (pinWords ob pc) (pinWords d.regs.live pc)) d
  let d := (List.range 32).foldl (fun d a => d.dirApply keys a) d
  let d := (List.range 64).foldl (fun d g => d.grpApply B g) d
  let d := (List.range 16).foldl (fun d i => d.tripApply B ow i) d
  let d := (timersOf keys).foldl (fun d x => d.tmrApply x.1 x.2 B) d
  let d := d.ausApply B ow keys ap
  let d := (List.range 16).foldl (fun d c => d.cvuApply c ow) d
  let d := (List.range 32).foldl (fun d c => d.dmaApply c ow) d
  let d := (contractKeys keys).foldl (fun d i => d.contractApply B ow i) d
  let d := (List.range 256).foldl (fun d i => d.crossApply B ow i) d
  let d := d.poolsApply ow d.live keys
  let d := (List.range 4).foldl (fun d n => d.refApply ow n) d
  let d := d.zynApply B ow (keys.contains A.HRING_CFG)
  d.govDrop.linksRecheck.irqRecheck.govWanted

/-! ## Budgets (R49, R345) -/

/-- The floor throughput of a tile in words per epoch (R344), under the slower of the modes in force. -/
def Dev.grantFloor (d : Dev) : Nat :=
  let heat := (d.lv A.HCFG_MODE F.HCFG_MODE_MODE :: d.sq.modes).contains 3
  let p := periodOf d.live
  p.1 * 1000000000 * 100 / (max 1 p.2 * (if heat then 540 else 320))

/-- The budgets granted to a tile's shares: in the epoch of a mode change no more than the floor in all. -/
def grants (lim : Option Nat) : List Share → List (Share × Nat)
  | [] => []
  | s :: t =>
    let g := match lim with | some n => min n s.budget | none => s.budget
    (s, g) :: grants (lim.map (· - g)) t

/-- Renews the budgets, and with them ends every hold (R345, R346); `modeChange` tells that a mode change applies at this boundary. -/
def Dev.renewBudgets (d : Dev) (modeChange : Bool) : Dev :=
  let lim := if modeChange then some d.grantFloor else none
  (shareTiles (bankKeys d.regs.live)).foldl (fun d T =>
    let gs := grants lim (sharesOf d.live T)
    let d := gs.foldl (fun d x => { d with budget := Tab.upd d.budget 0 (budKey T x.1.room) (fun b => (x.2 : Int) + min 0 b) }) d
    let e := d.engOf T
    if e.inbox.any (·.held) then d.setEng T { e with inbox := e.inbox.map (fun x => { x with held := false }) } else d) d

end Sys2Proof.Machine
end

