-- ==== Sys2Proof/Machine/Boundary.lean ====
section
/-! DEFINITION. The drain close, the boundary, and the hand-over of a migrated channel's model state (R88-R95, R99, R106, R118,
R171, R182, R217, R311, R340, R355, R359, R403, R428, R445). -/
namespace Sys2Proof.Machine

/-! ## Drain close -/

/-- The drain close that is still to come (R88, R89): DRAIN of the retiring bank after the last boundary. -/
def Dev.drainAt (d : Dev) : Nat := (d.sq.marks.head?.map (·.beg)).getD 0 + d.retView.f A.HSNP_CFG F.HSNP_CFG_DRAIN * usTU

/-- The closing epoch still has its drain close before it. -/
def Dev.drainDue (d : Dev) : Bool := d.sq.anyBoundary && decide (d.sq.closedBelow < d.sq.num)

/-- The means of a channel's latency samples, their difference, the close of its measurement (R171, R181, R182). -/
def Dev.closeFcIn (d : Dev) (e fc : Nat) : Dev :=
  let rec_ := recFc fc
  let n (p : Nat) : Nat := d.acc e (rec_ + 0x9C + 16 * p)
  let sum (p : Nat) : Int := (d.acc e (privFc fc + p) : Int) - (n p : Int) * 2 ^ 40
  let mean (p : Nat) : Int := tdiv (sum p) (n p)
  let d := [0, 1].foldl (fun d p => if n p = 0 then d else d.accRun e rec_ [opSet (0x98 + 16 * p) (unsgn 32 (mean p))]) d
  let skew : Int := mean 1 - mean 0
  let lim := d.retView.f (A.FCH_MERGE fc) F.FCH_MERGE_SKEW_LIM
  let ovr := decide (0 < n 0) && decide (0 < n 1) && decide (0 < lim) && decide (lim * 16000 < skew.natAbs)
  if ovr then (d.accRun e rec_ [opOr 0x0C 2048]).fcPulse fc 0x0A (min (skew.natAbs / 16000) (2 ^ 24 - 1)) d.now else d

/-- A channel's measurement-close pulse, in the epoch that closes (R182, R217). -/
def Dev.closeFc (d : Dev) (B e fc : Nat) : Dev :=
  let dir := fcDir d.retView fc
  let d := if dir = 1 then d.closeFcIn e fc else d
  let last := d.acc e (privFc fc + 3)
  let st := if last = 0 then B - 1 else last - 1
  d.fcPulse fc (if dir = 2 then 0x16 else 0x02) (e % 2 ^ 24) st

/-- The shares of a room in its record, in ascending T (R359). -/
def Dev.closeRoom (d : Dev) (e r : Nat) : Dev :=
  let w := d.retView
  let keys := bankKeys (d.regs.retiring.getD d.regs.live)
  let on := (sortNat (shareTiles keys)).filter (fun T => (sharesOf w T).any (fun s => s.room == r))
  let spent (T : Nat) : Nat := d.acc e (privShare r T + 3) % 2
  let d := d.accRun e (recRoom r) [opOr 0x0C (b2n (on.any (fun T => spent T == 1)) * 16)]
  ((on.zipIdx).take 48).foldl (fun d x =>
    d.accRun e (recRoom r) [opSet (0x100 + 16 * x.2) (x.1 + spent x.1 * 512), opSet (0x104 + 16 * x.2) (d.acc e (privShare r x.1 + 1)),
      opSet (0x108 + 16 * x.2) (d.acc e (privShare r x.1 + 2)), opSet (0x10C + 16 * x.2) (d.acc e (privLeft r x.1))]) d

/-- The spill section and its header words (R94, R95, R98, R99). -/
def Dev.closeSpill (d : Dev) (e : Nat) : Dev :=
  let l := d.sq.spill
  let put (d : Dev) (x : Spill × Nat) : Dev :=
    let s := x.1
    let room := if s.room < 256 then s.room else 0
    let d := d.accRun e (0x100000 + 32 * x.2) [opSet 0 s.epoch, opSet 4 (s.src + room * 65536), opSet 8 s.kind, opSet 12 s.count,
      opSet 16 s.first, opSet 20 (s.first / 2 ^ 32), opSet 24 s.last, opSet 28 (s.last / 2 ^ 32)]
    let d := d.accRun e s.recOff [opOr 4 4]
    if s.kind = 7 then d.hdrFlag e 0 else d
  let d := (l.zipIdx).foldl put d
  let d := d.accRun e 0 [opSet 0x0C l.length, opSet 0x10 d.sq.spillLost, opOr 8 (b2n (!l.isEmpty) * 32 + b2n d.sq.spillOver * 64)]
  { d with sq := { d.sq with spill := [], spillLost := 0, spillOver := false } }

/-- The publication areas of the tiles with an image are copied into their records and zeroed (R340). -/
def Dev.closePubs (d : Dev) (mem : Mem) (e : Nat) : Dev × List MemOp :=
  (d.eng.filter (fun x => x.2.img.kind != 0)).foldl (fun r x =>
    let ws := (List.range 192).map (fun i => opSet (0x100 + 4 * i) (leNat (mem.pbytes x.1 (x.2.img.pub + 4 * i) 4)))
    (r.1.accRun e (recTile x.1) ws, r.2 ++ [.zeroPantry x.1 x.2.img.pub 768])) (d, [])

/-- A channel's old model is kept while a migration waits for it (R355). -/
def Dev.oldAwaited (d : Dev) (fc : Nat) : Bool :=
  match Tab.get? d.mig fc with
  | some (new, _, 0) => (Tab.get d.fin {} new).held
  | _ => false

/-- The drain close of the epoch before the one in progress. -/
def Dev.closeDrain (d : Dev) (mem : Mem) : Dev × List MemOp :=
  let B := (d.sq.marks.head?.map (·.beg)).getD 0
  let num := d.sq.num
  let e := num - 1
  let w := d.retView
  let keys := bankKeys (d.regs.retiring.getD d.regs.live)
  let d := (sortNat (activeFcs w keys)).foldl (fun d fc => d.closeFc B e fc) d
  let d := ((List.range 8).filter (fun u => w.b (A.AU_CFG u) F.AU_CFG_EN)).foldl (fun d u => d.auPulse u 7 (e % 2 ^ 24) (B - 1)) d
  let rooms := sortNat (((shareTiles keys).flatMap (fun T => (sharesOf w T).map (·.room))).eraseDups)
  let d := rooms.foldl (fun d r => d.closeRoom e r) d
  let d := d.closeSpill e
  let d := d.accRun e 0 [opSet 0x38 d.now, opSet 0x3C (d.now / 2 ^ 32)]
  let d := (List.range 16).foldl (fun d c => d.guardPass mem c) d
  let r := d.closePubs mem e
  let d := (r.1.fout.map (·.1)).foldl (fun d fc => d.egressDrain fc) r.1
  let d : Dev := { d with
    regs := { d.regs with retiring := none }
    finOld := d.finOld.filter (fun x => d.oldAwaited x.1)
    sq := { d.sq with closedBelow := num, pubs := d.sq.pubs.map (fun p => if p.epoch = e then { p with closed := true } else p) } }
  (d.house pgHSNP 0x3101 e, r.2)

/-- DRAIN_CLOSE -/
def drainClose (d : Dev) (mem : Mem) : Dev × List MemOp :=
  if d.drainDue = false then (d, []) else (d.advanceTo d.drainAt).closeDrain mem

/-! ## The boundary -/

/-- The snapshot pins at a boundary: one lapses at the PIN_LIMIT-th after it was taken (R106). -/
def Dev.agePins (d : Dev) : Dev :=
  let lim := d.lv A.HSNP_CFG F.HSNP_CFG_PIN_LIMIT
  (d.sq.pins.filter (·.2.held)).foldl (fun d x =>
    let p := d.pinOf x.1
    if p.age + 1 < lim then d.setPin x.1 { p with age := p.age + 1 }
    else (d.setPin x.1 { p with held := false, slot := 0, epoch := 0, age := 0, lapsed := true }).house pgHSNP 0x3105 x.1) d

/-- A power request takes effect (R445). -/
def Dev.powerBoundary (d : Dev) (closing : Nat) : Dev :=
  match d.pwr.req with
  | some .sleep =>
    let d : Dev := { d with pwr := { d.pwr with st := .sleep, req := none } }
    let d := d.govDrop.linksRecheck
    let d := if d.zynRuns = false && d.zyn.link != .down then d.linkLost 0 else d
    d.house pgHPWR 0x3510 1
  | some .deep => { d with pwr := { d.pwr with req := none, deepAt := some closing } }
  | _ => d

/-- Both words of the settings digest of an epoch (R99, R428). -/
def Dev.putDigest (d : Dev) (e : Nat) (doms : List Nat) : Dev :=
  let v := deviceDigest doms
  d.accRun e 0 [opSet 0x48 v, opSet 0x4C (v / 2 ^ 32)]

/-- A publication that is still in progress one boundary later is marked (R91). -/
def Dev.pubOverrun (d : Dev) : Dev := (d.sq.pubs.filter (fun p => decide (p.epoch + 1 ≤ d.sq.num))).foldl (fun d p => d.hdrFlag p.epoch 7) d

/-- Ends the applied commits; a room's commit no longer relies on a house commit that applied (R114, R118). -/
def Dev.endApplied (d : Dev) (ap : List Applied) : Dev :=
  let d := ap.foldl (fun d x => d.endCommit x.dom 0) d
  match ap.find? (fun x => x.dom == houseDom) with
  | none => d
  | some h =>
    { d with sq := { d.sq with commits := d.sq.commits.map (fun e => if e.2.relies = some h.id then (e.1, { e.2 with relies := none }) else e) } }

/-- The boundary at `B`, the grid point or the instant recorded for it (R57, R88). -/
def Dev.cross (d : Dev) (B : Nat) : Dev :=
  let old := d.sq.num
  let ap := d.applying
  let bank := d.nextBank ap
  let keys := (ap.flatMap (·.keys)).eraseDups
  let ob := d.regs.live
  let m0 := d.lv A.HCFG_MODE F.HCFG_MODE_MODE
  let d := if (Tab.get? d.sq.acc (accKey old 0x48)).isNone then d.putDigest old d.domainDigests else d
  let d := d.beforeSwitch B keys (viewOf bank)
  let d := (d.closeValues B).pubOverrun
  let d := d.switchBank B ap bank
  let d := (d.openValues.notesApplied ap).blocksApply B ob keys ap
  let d := d.endApplied ap
  let d := d.agePins.startPub
  let d := d.aliveCheck
  let d := d.renewBudgets (d.lv A.HCFG_MODE F.HCFG_MODE_MODE != m0)
  let d := (d.powerBoundary old).joinBoundary B
  let doms := d.domainDigests
  (d.putDigest d.sq.num doms).sendDigests doms

/-- The epoch that a boundary at `B` began, with its lock instant still to come: nothing that the boundary does to the elements
changes these (R81, R88). -/
def Dev.epochStands (d : Dev) (num B : Nat) : Dev :=
  { d with sq := { d.sq with num := num, bnd := B, locked := false, anyBoundary := true } }

/-- BOUNDARY: a drain close and a lock instant that lie before it come first. -/
def boundary (d : Dev) (mem : Mem) : Dev × List MemOp :=
  if d.sq.armed = false then (d, [])
  else
    let B := d.sq.nxt
    let r := drainClose d mem
    ((((lockInstant r.1).advanceTo B).cross B).epochStands (d.sq.num + 1) B, r.2)

/-! ## Ingress migration (R355) -/

/-- OLD's last packet stamped before the boundary of its migration has been processed. -/
def Dev.oldSettled (d : Dev) (old : Nat) : Bool := !((Tab.get d.tileIn [] (old / 128)).any (fun p => p.fc == old && d.beforeBnd p))

/-- MIGRATION_HANDOFF: OLD's state reaches NEW, which then takes the packets it holds. -/
def migrationHandoff (old : Nat) (d : Dev) : Dev :=
  match Tab.get? d.mig old with
  | some (new, _, 0) =>
    if (Tab.get d.fin {} new).held && d.oldSettled old then
      let f := Tab.get d.finOld {} old
      let fr := match Tab.get? d.srcFrame old with | some x => Tab.set d.srcFrame new x | none => d.srcFrame
      let d : Dev := { d with fin := Tab.set d.fin new { f with held := false }, srcFrame := fr }
      if d.regs.retiring.isNone then { d with finOld := Tab.del d.finOld old } else d
    else d
  | _ => d

/-! ## The commands -/

/-- DRAIN_CLOSE -/
def execDrainClose (s : State) : Res := onMem drainClose s
/-- BOUNDARY -/
def execBoundary (s : State) : Res := onMem boundary s
/-- MIGRATION_HANDOFF -/
def execMigrationHandoff (old : Nat) (s : State) : Res := onDev (migrationHandoff old) s

end Sys2Proof.Machine
end

