-- ==== Sys2Proof/Machine/Steps.lean ====
section
/-! DEFINITION. The phase step (R56-R58) and what each placement element, grid point, periodic channel and angle unit makes of the
interval it skips or repeats (R34, R89, R231, R261, R301, R309). -/
namespace Sys2Proof.Machine

/-! ## Boundary instants up to an instant -/

/-- The earliest of drain close (0), lock instant (1) and boundary (2) that lies at or before `lim`. -/
def Dev.dueEvent (d : Dev) (lim : Nat) : Option Nat :=
  let c := (if d.drainDue then [(d.drainAt, 0)] else []) ++ (if d.sq.armed && !d.sq.locked then [(d.lockAt, 1)] else []) ++
    (if d.sq.armed then [(d.sq.nxt, 2)] else [])
  match c.filter (fun x => decide (x.1 ≤ lim)) with
  | [] => none
  | x :: t => some (t.foldl (fun b y => if y.1 < b.1 then y else b) x).2

/-- Carries out one of them: at its own instant, or with the counter standing where it does. -/
def Dev.doEvent (d : Dev) (mem : Mem) (move : Bool) (k : Nat) : Dev × List MemOp :=
  let go (d : Dev) (t : Nat) : Dev := if move then d.advanceTo t else d
  match k with
  | 0 => (go d d.drainAt).closeDrain mem
  | 1 => ((go d d.lockAt).lockAll, [])
  | _ => ((go d d.sq.nxt).cross d.sq.nxt, [])

/-- Carries out all of them up to `lim` in order, at most `fuel`. -/
def Dev.doEvents (d : Dev) (mem : Mem) (move : Bool) (lim : Nat) : Nat → Dev × List MemOp
  | 0 => (d, [])
  | fuel + 1 =>
    match d.dueEvent lim with
    | none => (d, [])
    | some k =>
      let r := d.doEvent mem move k
      let r' := r.1.doEvents (mem.run r.2) move lim fuel
      (r'.1, r.2 ++ r'.2)

/-! ## Pin channels -/

/-- An instant in the interval (s, e] that a forward step passes over. -/
def inStep (s e t : Nat) : Bool := decide (s < t) && decide (t ≤ e)

/-- Keeps an instant, or moves it to the end of the interval. -/
def stepOpt (s e : Nat) (o : Option Nat) : Option Nat := o.map (fun t => if inStep s e t then e else t)

/-- The channel's waveform is periodic, or the complement of one. -/
def PinCh.waves (c : PinCh) : Bool := [2, 4, 5].contains c.mode

/-- One period that a forward step passes over: what it requests, without its counts. -/
def Dev.passPeriod (d : Dev) (pc : Nat) (restart : Bool) : Dev :=
  let c := d.pcOf pc
  let n := match c.restartN with | some r => if restart then max r c.nextN else c.nextN | none => c.nextN
  let first := c.fresh || (restart && !c.goes)
  let d' := d.setPc pc (c.begin n restart)
  { d with pins := (if c.mode = 2 then d'.trainPeriod pc n first else d'.pwmPeriod pc n first).pins }

/-- The count of periods active throughout after `far` periods of one kind (R240). -/
def PinCh.rfrAfter (c : PinCh) (far : Nat) : Nat :=
  let p := c.plan (c.nextN + (far : Int) - 1)
  let n := pf c.words 0x30 F.PCH_PWM_RFR_N
  if far = 0 then c.rfrCnt
  else if p.cnt = 0 ∧ p.rfr = none then 0
  else if pf c.words 0x30 F.PCH_PWM_RFR_EN = 1 ∧ 0 < n then (c.rfrCnt + far) % n
  else c.rfrCnt + far

/-- The periods up to `last` that a forward step passes over: the last two of them tell the requests that still reach beyond. Answers
how many there are. -/
def Dev.passRun (d : Dev) (pc : Nat) (last : Int) : Dev × Nat :=
  let c := d.pcOf pc
  let count := pf c.words 0x2C F.PCH_COUNT_COUNT
  let k := if c.goes then (last + 1 - c.nextN).toNat else 0
  let k := if c.mode = 2 ∧ 0 < count then min k (count - c.trainCnt) else k
  if k = 0 then (d, 0)
  else
    let far := k - 2
    let d := d.setPc pc { c with nextN := c.nextN + far, sinceC := c.sinceC + far, trainCnt := c.trainCnt + far, rfrCnt := c.rfrAfter far
                                 fresh := c.fresh && far == 0 }
    ((List.range (min k 2)).foldl (fun d _ => d.passPeriod pc false) d, k)

/-- The periods of a channel that begin by `lim`, with the one that RESTART begins among them (R235). -/
def Dev.passPeriods (d : Dev) (pc lim : Nat) : Dev × Nat :=
  let c := d.pcOf pc
  let last := pinIndex c.words c.anchor ((lim : Int) + 1) - 1
  if c.inSafe ∨ periodic c.mode = false then (d, 0)
  else match c.restartN with
    | some r =>
      let a := d.passRun pc (min last (r - 1))
      if r ≤ last then
        let b := (a.1.passPeriod pc true).passRun pc last
        (b.1, a.2 + 1 + b.2)
      else a
    | none => d.passRun pc last

/-- The same, with those of the waveform that a commit begins meanwhile (R230). -/
def Dev.passTo (d : Dev) (pc lim : Nat) : Dev × Nat :=
  let c := d.pcOf pc
  match c.cPoint with
  | some C =>
    if C ≤ lim ∧ c.inSafe = false then
      let a := d.passPeriods pc (C - 1)
      let b := (a.1.newWave pc C c.nextAnchor (pinWords d.regs.live pc)).passPeriods pc lim
      (b.1, a.2 + b.2)
    else d.passPeriods pc lim
  | none => d.passPeriods pc lim

/-- The periods of a channel that begin in (s, e] are counted (R231). -/
def Dev.skipPeriods (d : Dev) (pc s e : Nat) : Dev :=
  let load := (d.pcOf pc).pend.isSome
  let r := d.passTo pc (match (d.pcOf pc).safePend with | some x => min e (x - 1) | none => e)
  let d := r.1
  if r.2 = 0 then d
  else
    let c := d.pcOf pc
    let g := (pinGamma c.words c.anchor (c.nextN - 1)).toNat
    let d := if load && c.pend.isNone && c.mode == 4 then (d.pcItem pc g [opAdd 0x2C 1]).pcPulse pc 9 (pf c.words 0 F.PCH_MODE_LOADGRP) g else d
    (d.pcItem pc s [opAdd 0x34 r.2]).pcPulse pc 0xB (min r.2 (2 ^ 24 - 1)) s

/-- A waveform's requests up to `e` are not placed: the pin takes the last level of them at `e` (R231). -/
def Dev.skipRequests (d : Dev) (pc e : Nat) : Dev :=
  let c := d.pcOf pc
  let gone := c.reqs.filter (fun r => decide (r.t ≤ e))
  match gone.getLast? with
  | none => d
  | some r =>
    let fin := gone.find? (fun r => r.why == 2)
    let d := (d.setPc pc { c with reqs := c.reqs.filter (fun r => decide (e < r.t)), running := c.running && !(fin.isSome && c.trainOver) }).setLevel pc e r.level
    match fin with
    | some x => d.pcPulse pc 7 0 x.t
    | none => d

/-- Requests of a channel without periods in (s, e] arrive at the step, under the late policy (R34, R57). -/
def Dev.lateRequests (d : Dev) (pc s e : Nat) : Dev :=
  let c := d.pcOf pc
  let late := c.reqs.filter (fun r => inStep s e r.t)
  if late = [] then d
  else
    let skip := d.lv (A.PCH_MODE pc) F.PCH_MODE_LATE_POL = 1
    let keep := c.reqs.filter (fun r => !(inStep s e r.t))
    let d := d.setPc pc { c with reqs := if skip then keep else (late.map (fun r => { r with t := e + pinLead })).foldl reqInsert keep }
    late.foldl (fun d r =>
      let d := d.pcItem pc r.t (opAdd 0x14 1 :: (if skip then [opAdd 0x18 1] else []))
      let f := d.pcFirst pc r.t 4
      if f.1 then f.2.pcPulse pc 1 (b2n skip) r.t else f.2) d

/-- Entries of the edge queue in (s, e] arrive at the step (R57, R227). -/
def Dev.lateEntries (d : Dev) (pc s e : Nat) : Dev :=
  let c := d.pcOf pc
  let hit (x : EdgeEnt) : Bool := x.arr && inStep s e x.due
  let n := (c.q.filter hit).length
  if n = 0 then d
  else
    let d := d.setPc pc { c with q := c.q.map (fun x => if hit x then { x with arr := false, moved := none } else x) }
    (List.range n).foldl (fun d _ => edgeRequestArrival pc d) d

/-- The instants a channel has before it (R230, R258-R261): those in (s, e] are reached at the step. -/
def Dev.stepInstants (d : Dev) (pc s e : Nat) : Dev :=
  let c := d.pcOf pc
  d.setPc pc { c with
    cPoint := stepOpt s e c.cPoint, safePend := stepOpt s e c.safePend, resume := stepOpt s e c.resume
    trigs := c.trigs.filter (fun x => !(inStep s e x.2)) }

/-- The pin channels at a forward step: first the channels with periods, whose pairs take requests from them. -/
def Dev.stepPins (d : Dev) (s e : Nat) : Dev :=
  let pcs := d.pins.map (·.1)
  let d := pcs.foldl (fun d pc => d.skipPeriods pc s e) d
  pcs.foldl (fun d pc =>
    let d := if (d.pcOf pc).waves then d.skipRequests pc e else d.lateRequests pc s e
    (d.lateEntries pc s e).stepInstants pc s e) d

/-! ## The other elements -/

/-- One trip: a window that ends in (s, e] ends at the step, and an assertion whose instant lies there has it at the step (R261,
R263). -/
def Dev.stepTrip (d : Dev) (i s e : Nat) : Dev :=
  let x := d.tripOf i
  let ended := (x.blank.filter (fun y => inStep s e y.2)).length
  let d := d.setTrip i { x with blank := x.blank.map (fun y => if inStep s e y.2 then (min y.1 s, s) else y) }
  let d := (List.range ended).foldl (fun d _ => d.blankEnd i s) d
  match (d.tripOf i).held with
  | some t => if inStep s e (t + d.tripFilt i) then (d.setTrip i { d.tripOf i with held := none }).tripQualified i s else d
  | none => d

/-- A limit or home pin whose transition would qualify in (s, e] qualifies at the step (R261). -/
def Dev.stepLimit (d : Dev) (pc s e : Nat) : Dev :=
  match (d.pcOf pc).held with
  | some h => if d.pcMode pc = 11 ∧ inStep s e (h.stamp + d.lv (A.PCH_IN pc) F.PCH_IN_FILT * nsTU) then d.qualifyAt pc h s else d
  | none => d

/-- A step of axis `a` that is passed over is a request that arrives at the step, under the late policy of the step pin (R34, R57):
ISSUE_EARLIEST places it 24 ns after the step, the `k`-th of several a pulse and the minimum spacing after the one before; SKIP
places none, and the position does not change (DESIGN CHOICE, log entry 93). -/
def Dev.lateStep (d : Dev) (a pc e k : Nat) : Dev :=
  let t := (d.axOf a).tNext
  let skip := d.lv (A.PCH_MODE pc) F.PCH_MODE_LATE_POL = 1
  let d := d.pcItem pc t (opAdd 0x14 1 :: (if skip then [opAdd 0x18 1] else []))
  let f := d.pcFirst pc t 4
  let d := (if f.1 then f.2.pcPulse pc 1 (b2n skip) t else f.2).stepNext a
  if skip then d else d.stepAt a (e + pinLead + k * (d.swidth a + pinSpacing pc))

/-- The steps of a move that lie in (s, e], the `k`-th and those after it; the last one of the move ends it. -/
def Dev.lateSteps (d : Dev) (a pc s e k : Nat) : Nat → Dev
  | 0 => d
  | fuel + 1 =>
    let x := d.axOf a
    if x.moving ∧ inStep s e x.tNext then
      let d := d.lateStep a pc e k
      if x.n ≤ x.j + 1 then (d.setAx a { d.axOf a with st := .idle }).axResult a (if x.st = .homeSeek then 6 else 1) e
      else d.lateSteps a pc s e (k + 1) fuel
    else d

/-- Axes: what a forward step passes over arrives at the step, steps and direction edges; later steps keep their instants. -/
def Dev.passAxis (d : Dev) (a s e : Nat) : Dev :=
  let x := d.axOf a
  let skip := match dirPin d.live a with | some pc => d.lv (A.PCH_MODE pc) F.PCH_MODE_LATE_POL == 1 | none => false
  let d := d.setAx a { x with dirAt := x.dirAt.filterMap (fun y => if inStep s e y.1 then (if skip then none else some (e + pinLead, y.2)) else some y) }
  match stepPin d.live a with
  | some pc => d.lateSteps a pc s e 0 (x.n - x.j)
  | none => d

/-- Groups: a pull-in or a chopping period that is passed over begins at the step. -/
def Dev.stepGrps (d : Dev) (s e : Nat) : Dev :=
  { d with grps := d.grps.map (fun x => (x.1, { x.2 with demands := x.2.demands.map (fun m => if inStep s e m.p then { m with p := e } else m) })) }

/-- Calendars: a request that is passed over reaches its calendar at the step (R34). -/
def Dev.stepCalendars (d : Dev) (s e : Nat) : Dev :=
  d.ports.foldl (fun d x =>
    let hit (y : CalEnt) : Bool := y.arr.isSome && inStep s e y.t
    let late := x.2.cal.filter hit
    if late = [] then d
    else
      let d := d.setPort x.1 { d.portOf x.1 with cal := late.map (fun y => { y with arr := none }) ++ x.2.cal.filter (fun y => !(hit y)) }
      late.foldl (fun d _ => calendarRequest x.1 d) d) d

/-- A capture whose freeze instant has been reached at the step is frozen, and injected if that instant has been too. -/
def Dev.expoDue (d : Dev) (u s e : Nat) : Nat → Dev
  | 0 => d
  | fuel + 1 =>
    match (d.auOf u).expo with
    | some (_, te, _) => if te + holdMax (d.capView te) u ≤ e then (anglePacketInject u d).expoDue u s e fuel else d
    | none =>
      match d.expoNext u s with
      | some (n, te) => if te ≤ s ∧ te + holdMax (d.capView te) u - 2 * usTU ≤ e then (d.expoTake u n te).expoDue u s e fuel else d
      | none => d

/-- An angle unit (R301, R309). -/
def Dev.stepAu (d : Dev) (u s e : Nat) : Dev :=
  let d := [0, 1, 2, 3].foldl (fun d o =>
    d.passAll u o e (d.auOf u).neg (fun x => !x.late && (match x.tp with | some t => inStep s e t | none => false))) d
  if d.auRuns u = false then d
  else
    let d := d.expoDue u s e 128
    let x := d.auOf u
    let n := ((capSpans 0 x.capOld).map (d.expoCount u (max x.nextAt (s + 1)) (e + 1))).sum
    let d := d.setAu u { x with passed := (s + 1, e + 1) }
    if n = 0 then d else d.auItem u e [opAdd 0x48 n]

/-- The elements at a forward step from `s` to `e`. -/
def Dev.stepForward (d : Dev) (s e : Nat) : Dev :=
  let d := (d.trips.map (·.1)).foldl (fun d i => d.stepTrip i s e) d
  let d := (d.pins.map (·.1)).foldl (fun d pc => d.stepLimit pc s e) d
  let d := (List.range 32).foldl (fun d a => d.passAxis a s e) (d.stepPins s e)
  let d := (d.stepGrps s e).stepCalendars s e
  (List.range 8).foldl (fun d u => d.stepAu u s e) d

/-- A transition on its way through a step of `v`. -/
def Cap.step (v : Int) (h : Cap) : Cap := { h with moved := h.moved + v, old := h.old || decide (v < 0) }

/-- What the counter has stamped and the device has still to process: after a backward step it keeps the epoch it was stamped in
(R58). -/
def Dev.stepStamped (d : Dev) (v : Int) : Dev :=
  let back := decide (v < 0)
  { d with
    tileIn := if back then d.tileIn.map (fun x => (x.1, x.2.map (fun p => { p with old := true }))) else d.tileIn,
    tileBe := if back then d.tileBe.map (fun x => (x.1, x.2.map (fun p => { p with old := true }))) else d.tileBe
    au := d.au.map (fun x => (x.1, { x.2 with
      inq := x.2.inq.map (fun q => (q.1, q.2.map (Cap.step v))), suspect := x.2.suspect.map (fun k => { k with old := k.old || back }) })) }

/-- Instants that stand for durations on the wire or the pin move with the counter. -/
def Dev.stepShift (d : Dev) (v : Int) : Dev :=
  let mv (t : Nat) : Nat := ((t : Int) + v).toNat
  { d with
    ports := d.ports.map (fun x => (x.1, { x.2 with freeAt := mv x.2.freeAt }))
    eng := d.eng.map (fun x => (x.1, { x.2 with busyAt := x.2.busyAt.map mv, waitAt := mv x.2.waitAt, haltAt := mv x.2.haltAt }))
    pins := d.pins.map (fun x => (x.1, { x.2 with
      lastEdge := x.2.lastEdge.map mv, trs := x.2.trs.map (fun y => (mv y.1, y.2)), clrAt := x.2.clrAt.map mv
      held := x.2.held.map (Cap.step v), ended := x.2.ended.map (Cap.step v) })) }

/-- The counter takes its new value `e`; a backward step lowers the mark of the epoch in progress (R57, R58). -/
def Dev.stepCounter (d : Dev) (v : Int) (e : Nat) : Dev :=
  let back := decide (v < 0)
  let d : Dev := { d with
    h := { d.h with ctr := ((d.h.ctr : Int) + v * 65536).toNat, atTU := ((d.h.atTU : Int) + v).toNat, pstep := none
                    outEdge := if back then [] else d.h.outEdge, ppsFall := d.h.ppsFall.map (fun t => ((t : Int) + v).toNat) }
    sq := { d.sq with marks := match d.sq.marks with | m :: t => (if back then { m with low := min m.low e } else m) :: t | [] => [] } }
  if back then
    { d with zyn := { d.zyn with hbSentAt := min d.zyn.hbSentAt e, hbTickAt := min d.zyn.hbTickAt e, hbArr := min d.zyn.hbArr e } }
  else d

/-- PHASE_STEP_APPLY (R56, R57): what lies before the step instant s is carried out first; the boundary instants in (s, s + d]
are carried out at s; then the counter takes s + d. -/
def phaseStepApply (d : Dev) (mem : Mem) : Dev × List MemOp :=
  match d.h.pstep with
  | none => (d, [])
  | some p =>
    let s := match p.second with | some t => max t d.now | none => if d.h.cycle < p.cyc then d.tick.now else d.now
    let r := d.doEvents mem true s ((s - d.now) / (250 * usTU) + 8)
    let d := if p.second.isSome then r.1.advanceTo s else if r.1.h.cycle < p.cyc then r.1.tick else r.1
    let d := if d.sq.runAt ≤ s && d.h.run then d.markStepped else d
    let e := ((s : Int) + p.d).toNat
    let r' := if 0 < p.d then d.doEvents (mem.run r.2) false e 8 else (d, [])
    let d := (List.range 4).foldl (fun d q => d.settleChatter q (s + 4 * nsTU)) r'.1
    let d := ((d.stepShift p.d).stepStamped p.d).stepCounter p.d e
    let d := if 0 < p.d then d.stepForward s e else d
    let d := (d.setIm A.HTIM_STAT F.HTIM_STAT_STEPPED 1).houseAt pgHTIM 0x3002 (unsgn 32 p.d) e
    (d.runAfter, r.2 ++ r'.2)

/-! ## The command -/

/-- PHASE_STEP_APPLY -/
def execPhaseStepApply (s : State) : Res := onMem phaseStepApply s

end Sys2Proof.Machine
end

