-- ==== Sys2Proof/Machine/Sleep.lean ====
section
/-! DEFINITION. Entry to DEEP SLEEP and the wakes (R64, R67, R132, R251, R445, R447, R465). -/
namespace Sys2Proof.Machine

/-! ## Entry (R447) -/

/-- The parts of the hearth, the sequencer and the power logic that a sleep leaves: the counter with what its make-up needs, the
epochs, the clock sources, supplies and straps. -/
def Dev.deepHearth (d : Dev) : Hearth :=
  { d.h with tset := none, pstep := none, slew := none, slowC0 := max d.h.ctr (d.h.atTU * 65536), slowN0 := d.pwr.cellar, cap := [], capArmed := true, refs := []
             linkUp := [false, false], markSent := none, trimGood := 0, runPend := false, outEdge := [], ppsFall := none }

def Dev.deepSeq (d : Dev) : Seq :=
  let snap := d.lv A.HCLK_GATE_DEEP F.HCLK_GATE_DEEP_SNAP = 1
  { d.sq with slots := if snap then d.sq.slots else [], cur := if snap then d.sq.cur else none, pubs := [], spill := [], spillLost := 0
              spillOver := false, pins := if snap then d.sq.pins else [], saving := false }

/-- The power logic; an OTP word being programmed fails, as in a collapse (DEDUCED, log entry 109). -/
def Dev.deepPwr (d : Dev) : Pwr :=
  { d.pwr with st := .deep, req := none, deepAt := none, vkeep := d.pwr.vreq, vreq := d.lv A.HPWR_AVS F.HPWR_AVS_VMIN, govQ := [], govLog := []
               active := [], qbusy := [], hallwayOpen := false, spllLock := [false, false, false, false], bootQ := [], bootWait := false
               otpCmd := none, glideTo := none
               otpFail := d.pwr.otpCmd.toList.map (·.1) ++ d.pwr.otpFail }

/-- An engine that keeps its control store is IDLE with its image; another is OFFLINE. -/
def deepEng (keep : Bool) (e : Eng) : Eng :=
  if keep then
    { st := if e.img.kind = 0 || e.offlineNow then .offline else .idle, img := e.img, cstore := e.cstore, lastCause := e.lastCause, ldResult := e.ldResult }
  else {}

/-- A pin channel in DEEP SLEEP: a periodic waveform goes on counting its periods, to resume on its grid (R251); the rest is in its reset
state. -/
def Dev.deepPin (d : Dev) (pc : Nat) (c : PinCh) : PinCh :=
  let lost := d.bankLost pc
  if c.waves && !c.inSafe then
    { c with q := [], lastPush := none, oe := false, lastEdge := none, trigs := [], held := none, trs := [], clrAt := none, ended := none, chat := none
             fifo := [], cnt := 0, cause := 0, causeAt := 0, safePend := none, inSafe := lost, resume := none, chatter := false }
  else { inLevel := c.inLevel, anchor := c.anchor, pin := c.pin, inSafe := lost }

/-- The gated domains in their reset state; the levels on input balls, the timers' starts, the holders of banks and the tooth
tables stay. -/
def Dev.deepReset (d : Dev) : Dev :=
  let keep := d.lv A.HCLK_GATE_DEEP F.HCLK_GATE_DEEP_CSTORE == 1
  { d with
    h := d.deepHearth, sq := d.deepSeq, pwr := d.deepPwr, fabric := [], fin := [], fout := [], finOld := [], srcFrame := [], tileIn := [], tileBe := [], ports := [], hostq := []
    btest := [], ptest := []
    pins := d.pins.map (fun x => (x.1, d.deepPin x.1 x.2))
    trips := d.trips.map (fun x => (x.1, { level := x.2.level })), axes := [], grps := []
    au := d.au.map (fun x => (x.1, { st := if x.2.st = .off then .off else .seek, lvA := x.2.lvA, lvB := x.2.lvB, lvZ := x.2.lvZ, teeth := x.2.teeth }))
    eng := d.eng.map (fun x => (x.1, deepEng keep x.2)), loadQ := [], budget := [], meters := [], mig := [], dma := [], irq := [], irqLast := []
    cvu := [], zyn := { downAt := d.now }
    regs := { d.regs with retiring := none, pending := [], live := match d.zyn.ringRole with
      | some r => Tab.set d.regs.live A.HRING_CFG (fput (d.lvW A.HRING_CFG) F.HRING_CFG_ROLE r)
      | none => d.regs.live } }

/-- What DEEP SLEEP does to the buffers: those the datapaths and ports held go free, or all are new when the store is lost. -/
def Dev.deepStore (d : Dev) : Dev :=
  if d.lv A.HCLK_GATE_DEEP F.HCLK_GATE_DEEP_STORE = 1 then
    (d.bufs.filter (fun x => x.2.alloc && (x.2.holder == .datapath || x.2.holder == .device))).foldl (fun d x => d.freeBuf x.1) d
  else
    let d : Dev := { d with bufs := [], pools := [] }
    let d := (d.banks.filter (fun x => x.2.retiring)).foldl (fun d x => d.bankLeaves x.1) d
    (poolKeys (bankKeys d.regs.live)).foldl (fun d x => d.poolJoin x.2 (poolBanks d.live x.1 x.2)) d

/-- The memories a DEEP SLEEP loses (R447). -/
def Dev.deepMem (d : Dev) : List MemOp :=
  (if d.lv A.HCLK_GATE_DEEP F.HCLK_GATE_DEEP_STORE = 1 then [] else [.zeroStore 0 (2 ^ 29)]) ++
  (if d.lv A.HCLK_GATE_DEEP F.HCLK_GATE_DEEP_PANTRY = 1 then [] else (List.range 260).map (fun T => .zeroPantry T 0 (2 ^ 18)))

/-- The snapshot of the epoch that closed at the boundary of the request has been published. -/
def Dev.deepReady (d : Dev) : Bool :=
  match d.pwr.deepAt with
  | some e => !(d.sq.pubs.any (fun p => decide (p.epoch ≤ e)))
  | none => false

/-- DEEP_SLEEP_ENTRY -/
def deepSleepEntry (d : Dev) : Dev × List MemOp :=
  if d.deepReady = false then (d, [])
  else
    let doms := houseDom :: (d.sq.commits.map (·.1)).filter (· != houseDom)
    let d := doms.foldl (fun d x => d.endCommit x 5) d
    let d := d.tpllTo .slowHold d.h.src
    let d := (d.pins.filter (·.2.oe)).foldl (fun d x => (d.setPc x.1 { d.pcOf x.1 with oe := false }).emit (.driver x.1 d.now false)) d
    let d := if d.zyn.link = .down then d else { d with zyn := { d.zyn with downAt := d.now } }.linkTo .down 0
    let d := (d.ports.filter (·.2.up)).foldl (fun d x => d.setLink x.1 0) d
    let d := d.setImmW A.HPCI_LINK 0
    let d := if d.pwr.hallwayOpen then d.emit (.hallway false) else d
    let ops := d.deepMem
    let d := d.deepReset.deepStore
    (d.house pgHPWR 0x3510 2, ops)

/-! ## Wake from DEEP SLEEP (R67, R447) -/

/-- One cellar tick: 30,517 ns and 37,888 TU (R64). -/
def cellarTick : Nat := 30517 * nsTU + 37888

/-- The counter is made up and the epoch number advances by the grid points passed (R64, R67). The epochs passed over are
never published. -/
def Dev.makeUp (d : Dev) (ticks : Nat) : Dev :=
  let t1 := d.h.slowC0 / 65536 + ticks * cellarTick
  let d : Dev := { d with h := { d.h with ctr := d.h.slowC0 + ticks * cellarTick * 65536, atTU := 0 }, pwr := { d.pwr with cellar := d.h.slowN0 + ticks } }
  let p := periodOf d.live
  let k := if d.sq.armed = false ∨ t1 < d.sq.nxt then 0 else (gridFrom p (t1 + 1) - d.sq.nextGrid).toNat
  if k = 0 then d
  else
    let num := d.sq.num + k
    let B := (gridPoint p (d.sq.nextGrid + (k : Int) - 1)).toNat
    let n := d.sq.nextGrid + (k : Int)
    { d with sq := { d.sq with
        num := num, marks := (⟨num, B, B⟩ : EpochMark) :: d.sq.marks, bnd := B, nextGrid := n, nxt := (gridPoint p n).toNat, locked := false
        closedBelow := num, acc := d.sq.acc.filter (fun x => decide (num ≤ x.1 / 2 ^ 24)), refusedM := [] } }

/-- The blocks take the live settings again from `t`. -/
def Dev.resumeBlocks (d : Dev) (t : Nat) : Dev :=
  let keys := bankKeys d.regs.live
  let w := d.live
  let d := (activeFcs w keys).foldl (fun d fc =>
    if fcDir w fc = 1 then { d with fin := Tab.set d.fin fc {} } else d.egressApply fc t [] (blockWords d.regs.live fc) none none) d
  let pcs := activePcs w keys
  let kept := pcs.filter (fun pc => (d.pcOf pc).waves && !(d.pcOf pc).inSafe)
  let d := (pcs.filter (fun pc => !(kept.contains pc))).foldl (fun d pc => d.newWave pc t (d.pcOf pc).anchor (pinWords d.regs.live pc)) d
  let d := kept.foldl (fun d pc => d.skipRequests pc t) (kept.foldl (fun d pc => (d.passTo pc t).1) d)
  let d := (List.range 16).foldl (fun d i =>
    let x := d.tripOf i
    if w.b (A.TRIP_CFG i) F.TRIP_CFG_EN && x.level == w.b (A.TRIP_CFG i) F.TRIP_CFG_POL then d.setTrip i { x with held := some t } else d) d
  (d.au.map (·.1)).foldl (fun d u => d.setAu u { d.auOf u with nextAt := t }) d

/-- The steward reloads the images in boot modes 0b000 and 0b011 when the control stores were lost (R447, R465). -/
def Dev.rebootImages (d : Dev) : Dev :=
  if d.lv A.HCLK_GATE_DEEP F.HCLK_GATE_DEEP_CSTORE = 1 ∨ (d.pwr.bootMode ≠ 0 ∧ d.pwr.bootMode ≠ 3) then d
  else { d with pwr := { d.pwr with steward := true, bootWake := true, bootDone := [], bootB := false } }.bootStart

/-- Wake from DEEP SLEEP: cause 3 WAKE_N, 4 the alarm. -/
def Dev.wakeDeep (d : Dev) (cause ticks : Nat) : Dev :=
  let t0 := d.now
  let d : Dev := { d with pwr := { d.pwr with st := .run, vreq := d.pwr.vkeep, hallwayOpen := true } }
  let d := (d.makeUp ticks).emit (.hallway true)
  let d := d.markStepped
  let d := if d.h.tpll = .slowHold then (d.tpllTo .holdover d.h.src).autoSelect else d
  let d := d.timers.foldl (fun d x => d.tmrSlept (x.1 / 8) (x.1 % 8) t0 d.now) d
  let d := (List.range 4).foldl (fun d q => d.govReq 1 q) d
  let d := (d.resumeBlocks d.now).govWanted
  let d := pcieConventionalReset d
  let d := d.rebootImages
  (d.house pgHPWR 0x3511 cause).house pgHPWR 0x3510 0

/-- WAKE_N_FALL: `makeup` cellar ticks have passed since the entry to DEEP SLEEP. -/
def wakeNFall (makeup : Nat) (d : Dev) : Dev :=
  if d.pwr.inReset then d
  else match d.pwr.st with
    | .run => d
    | .sleep => d.wakeSleep 3
    | .deep => d.wakeDeep 3 makeup

/-- CELLAR_ALARM: the cellar count has reached HPWR_ALARM. -/
def cellarAlarm (makeup : Nat) (d : Dev) : Dev :=
  if d.pwr.inReset = false ∧ d.pwr.st = .deep ∧ d.imb A.HPWR_ALARM1 F.HPWR_ALARM1_EN then d.wakeDeep 4 makeup else d

/-! ## The commands -/

/-- DEEP_SLEEP_ENTRY -/
def execDeepSleepEntry (s : State) : Res := onMem (fun d _ => deepSleepEntry d) s
/-- WAKE_N_FALL -/
def execWakeNFall (makeup : Nat) (s : State) : Res := onAny (fun d _ => (wakeNFall makeup d, [])) s
/-- CELLAR_ALARM -/
def execCellarAlarm (makeup : Nat) (s : State) : Res := onAny (fun d _ => (cellarAlarm makeup d, [])) s

end Sys2Proof.Machine
end

