-- ==== Sys2Proof/Machine/Dispatch.lean ====
section
/-! DEFINITION. The dispatch: one arm per command, each one direct call of its meaning. -/
namespace Sys2Proof.Machine

/-- The effect of a command on everything but the queue of waiting commands. -/
def exec (i : Instr) (s : State) : Host.Outcome State Fault Refusal :=
  match i with
  | .hearthRun m v => Sys2Proof.Machine.execHearthRun m v s
  | .tsetGo m v => Sys2Proof.Machine.execTsetGo m v s
  | .tsetLoad => Sys2Proof.Machine.execTsetLoad s
  | .stepGo m v => Sys2Proof.Machine.execStepGo m v s
  | .slewGo m v => Sys2Proof.Machine.execSlewGo m v s
  | .phaseStepApply => Sys2Proof.Machine.execPhaseStepApply s
  | .slewComplete => Sys2Proof.Machine.execSlewComplete s
  | .ftrimWrite m v => Sys2Proof.Machine.execFtrimWrite m v s
  | .nowRead m => Sys2Proof.Machine.execNowRead m s
  | .sourceSelect m v => Sys2Proof.Machine.execSourceSelect m v s
  | .hsrcCfgWrite m v => Sys2Proof.Machine.execHsrcCfgWrite m v s
  | .tpllLock => Sys2Proof.Machine.execTpllLock s
  | .sourceReadyLoss src => Sys2Proof.Machine.execSourceReadyLoss src s
  | .sourceReadyGain src => Sys2Proof.Machine.execSourceReadyGain src s
  | .rcoTrimGate ofs => Sys2Proof.Machine.execRcoTrimGate ofs s
  | .trimSourceLoss => Sys2Proof.Machine.execTrimSourceLoss s
  | .hrcoCtrlWrite m v => Sys2Proof.Machine.execHrcoCtrlWrite m v s
  | .captureFifoPop m => Sys2Proof.Machine.execCaptureFifoPop m s
  | .capLostRead m => Sys2Proof.Machine.execCapLostRead m s
  | .refFrameMark n fmt found t => Sys2Proof.Machine.execRefFrameMark n fmt found t s
  | .refMarkMissing n => Sys2Proof.Machine.execRefMarkMissing n s
  | .ppsInEdge t => Sys2Proof.Machine.execPpsInEdge t s
  | .refOutputEdge n => Sys2Proof.Machine.execRefOutputEdge n s
  | .ppsOutputEdge ten => Sys2Proof.Machine.execPpsOutputEdge ten s
  | .epochRead m => Sys2Proof.Machine.execEpochRead m s
  | .boundary => Sys2Proof.Machine.execBoundary s
  | .ringMarkSend => Sys2Proof.Machine.execRingMarkSend s
  | .ringFrameReceive port gs t => Sys2Proof.Machine.execRingFrameReceive port gs t s
  | .ringLinkChange port up => Sys2Proof.Machine.execRingLinkChange port up s
  | .lockInstant => Sys2Proof.Machine.execLockInstant s
  | .drainClose => Sys2Proof.Machine.execDrainClose s
  | .publicationComplete => Sys2Proof.Machine.execPublicationComplete s
  | .snapshotRead m slot off len => Sys2Proof.Machine.execSnapshotRead m slot off len s
  | .snapshotPin m => Sys2Proof.Machine.execSnapshotPin m s
  | .snapshotUnpin m => Sys2Proof.Machine.execSnapshotUnpin m s
  | .straddleRead m => Sys2Proof.Machine.execStraddleRead m s
  | .commit m dom twin => Sys2Proof.Machine.execCommit m dom twin s
  | .withdraw m dom => Sys2Proof.Machine.execWithdraw m dom s
  | .checkComplete dom => Sys2Proof.Machine.execCheckComplete dom s
  | .pfwAssert t => Sys2Proof.Machine.execPfwAssert t s
  | .pfwDeassert t => Sys2Proof.Machine.execPfwDeassert t s
  | .pfwWindowEnd => Sys2Proof.Machine.execPfwWindowEnd s
  | .saveGo m => Sys2Proof.Machine.execSaveGo m s
  | .saveComplete ok => Sys2Proof.Machine.execSaveComplete ok s
  | .lfack m => Sys2Proof.Machine.execLfack m s
  | .registerWrite m addr v => Sys2Proof.Machine.execRegisterWrite m addr v s
  | .mediaStoreWrite m addr data => Sys2Proof.Machine.execMediaStoreWrite m addr data s
  | .mediaStoreRead m addr len => Sys2Proof.Machine.execMediaStoreRead m addr len s
  | .unsupportedTlp f => Sys2Proof.Machine.execUnsupportedTlp f s
  | .poisonedWrite f poisoned => Sys2Proof.Machine.execPoisonedWrite f poisoned s
  | .functionLevelReset f => Sys2Proof.Machine.execFunctionLevelReset f s
  | .d3hotToD0 f => Sys2Proof.Machine.execD3hotToD0 f s
  | .pcieConventionalReset => Sys2Proof.Machine.execPcieConventionalReset s
  | .svcFrame bytes => Sys2Proof.Machine.execSvcFrame bytes s
  | .svcFrameAbort => Sys2Proof.Machine.execSvcFrameAbort s
  | .hsvcErrRead m => Sys2Proof.Machine.execHsvcErrRead m s
  | .claim m dom prio => Sys2Proof.Machine.execClaim m dom prio s
  | .handover m dom target => Sys2Proof.Machine.execHandover m dom target s
  | .accept m dom prio => Sys2Proof.Machine.execAccept m dom prio s
  | .release m dom => Sys2Proof.Machine.execRelease m dom s
  | .forceLapse m dom => Sys2Proof.Machine.execForceLapse m dom s
  | .electionEnd dom => Sys2Proof.Machine.execElectionEnd dom s
  | .handoverDeadline dom => Sys2Proof.Machine.execHandoverDeadline dom s
  | .hownWrefusedRead m who => Sys2Proof.Machine.execHownWrefusedRead m who s
  | .errClr m page => Sys2Proof.Machine.execErrClr m page s
  | .evForce m page v => Sys2Proof.Machine.execEvForce m page v s
  | .portFrameReceive lane f => Sys2Proof.Machine.execPortFrameReceive lane f s
  | .ingressPacket T beWait spineWait => Sys2Proof.Machine.execIngressPacket T beWait spineWait s
  | .pathSilent fc path => Sys2Proof.Machine.execPathSilent fc path s
  | .flowResync m fc => Sys2Proof.Machine.execFlowResync m fc s
  | .egressPacket x => Sys2Proof.Machine.execEgressPacket x s
  | .slotDecision fc => Sys2Proof.Machine.execSlotDecision fc s
  | .slotStart fc => Sys2Proof.Machine.execSlotStart fc s
  | .bindingRelease fc => Sys2Proof.Machine.execBindingRelease fc s
  | .calendarRequest lane => Sys2Proof.Machine.execCalendarRequest lane s
  | .packetDeparture lane => Sys2Proof.Machine.execPacketDeparture lane s
  | .hostRxPop m n => Sys2Proof.Machine.execHostRxPop m n s
  | .hostFree m n v => Sys2Proof.Machine.execHostFree m n v s
  | .hostAlloc m n => Sys2Proof.Machine.execHostAlloc m n s
  | .hostTransmit m n v => Sys2Proof.Machine.execHostTransmit m n v s
  | .portLinkChange lane v => Sys2Proof.Machine.execPortLinkChange lane v s
  | .linkTrainingFail lane => Sys2Proof.Machine.execLinkTrainingFail lane s
  | .edgePlacement pc => Sys2Proof.Machine.execEdgePlacement pc s
  | .edgeRequestArrival pc => Sys2Proof.Machine.execEdgeRequestArrival pc s
  | .periodStart pc => Sys2Proof.Machine.execPeriodStart pc s
  | .waveformSwitch pc => Sys2Proof.Machine.execWaveformSwitch pc s
  | .edgeQueuePush m pc level => Sys2Proof.Machine.execEdgeQueuePush m pc level s
  | .channelRestart m pc => Sys2Proof.Machine.execChannelRestart m pc s
  | .channelStop m pc => Sys2Proof.Machine.execChannelStop m pc s
  | .qflush m pc => Sys2Proof.Machine.execQflush m pc s
  | .cntClr m pc => Sys2Proof.Machine.execCntClr m pc s
  | .pwmLoad m pc => Sys2Proof.Machine.execPwmLoad m pc s
  | .dutyWrite m pc v => Sys2Proof.Machine.execDutyWrite m pc v s
  | .triggerInstant pc k => Sys2Proof.Machine.execTriggerInstant pc k s
  | .pinInputTransition pc level t => Sys2Proof.Machine.execPinInputTransition pc level t s
  | .inputQualified pc => Sys2Proof.Machine.execInputQualified pc s
  | .capturePop m pc => Sys2Proof.Machine.execCapturePop m pc s
  | .timerArm m T k v => Sys2Proof.Machine.execTimerArm m T k v s
  | .timerGlobalStart T k => Sys2Proof.Machine.execTimerGlobalStart T k s
  | .timerStart T k => Sys2Proof.Machine.execTimerStart T k s
  | .timerMatch T k => Sys2Proof.Machine.execTimerMatch T k s
  | .timerWrap T k => Sys2Proof.Machine.execTimerWrap T k s
  | .timerStop m T k => Sys2Proof.Machine.execTimerStop m T k s
  | .sleptRead m T k => Sys2Proof.Machine.execSleptRead m T k s
  | .tripInputTransition k level t => Sys2Proof.Machine.execTripInputTransition k level t s
  | .trip k => Sys2Proof.Machine.execTrip k s
  | .blankWindowEnd k => Sys2Proof.Machine.execBlankWindowEnd k s
  | .tripClear m k => Sys2Proof.Machine.execTripClear m k s
  | .tripCntRead m k => Sys2Proof.Machine.execTripCntRead m k s
  | .safeLevelApply pc => Sys2Proof.Machine.execSafeLevelApply pc s
  | .channelResume pc => Sys2Proof.Machine.execChannelResume pc s
  | .engineLossStamp T => Sys2Proof.Machine.execEngineLossStamp T s
  | .axisGo m a v => Sys2Proof.Machine.execAxisGo m a v s
  | .homeGo m a v => Sys2Proof.Machine.execHomeGo m a v s
  | .axisStop m a v => Sys2Proof.Machine.execAxisStop m a v s
  | .axisAbort m a v => Sys2Proof.Machine.execAxisAbort m a v s
  | .axisClr m a v => Sys2Proof.Machine.execAxisClr m a v s
  | .dirEdge a => Sys2Proof.Machine.execDirEdge a s
  | .stepPulse a => Sys2Proof.Machine.execStepPulse a s
  | .limitQualified pc => Sys2Proof.Machine.execLimitQualified pc s
  | .homeFound a => Sys2Proof.Machine.execHomeFound a s
  | .groupDemandStart g k => Sys2Proof.Machine.execGroupDemandStart g k s
  | .groupDemandEnd g k => Sys2Proof.Machine.execGroupDemandEnd g k s
  | .pullInEnd g k => Sys2Proof.Machine.execPullInEnd g k s
  | .holdChop g k => Sys2Proof.Machine.execHoldChop g k s
  | .encoderEdge u line level t overrun => Sys2Proof.Machine.execEncoderEdge u line level t overrun s
  | .stallTimeout u => Sys2Proof.Machine.execStallTimeout u s
  | .outputFire u out => Sys2Proof.Machine.execOutputFire u out s
  | .angleQueuePush m u out v => Sys2Proof.Machine.execAngleQueuePush m u out v s
  | .angleQueueFlush m u out => Sys2Proof.Machine.execAngleQueueFlush m u out s
  | .setcArm m u v => Sys2Proof.Machine.execSetcArm m u v s
  | .angleResync m u => Sys2Proof.Machine.execAngleResync m u s
  | .anglePosRead m u => Sys2Proof.Machine.execAnglePosRead m u s
  | .exposureFreeze u => Sys2Proof.Machine.execExposureFreeze u s
  | .anglePacketInject u => Sys2Proof.Machine.execAnglePacketInject u s
  | .tilePulseAccept T => Sys2Proof.Machine.execTilePulseAccept T s
  | .dispatch T => Sys2Proof.Machine.execDispatch T s
  | .nop T => Sys2Proof.Machine.execNop T s
  | .mov T => Sys2Proof.Machine.execMov T s
  | .add T => Sys2Proof.Machine.execAdd T s
  | .sub T => Sys2Proof.Machine.execSub T s
  | .and T => Sys2Proof.Machine.execAnd T s
  | .or T => Sys2Proof.Machine.execOr T s
  | .xor T => Sys2Proof.Machine.execXor T s
  | .shl T => Sys2Proof.Machine.execShl T s
  | .shr T => Sys2Proof.Machine.execShr T s
  | .sar T => Sys2Proof.Machine.execSar T s
  | .mul T => Sys2Proof.Machine.execMul T s
  | .mulh T => Sys2Proof.Machine.execMulh T s
  | .ext T => Sys2Proof.Machine.execExt T s
  | .ins T => Sys2Proof.Machine.execIns T s
  | .ffs T => Sys2Proof.Machine.execFfs T s
  | .cmp T => Sys2Proof.Machine.execCmp T s
  | .tcmp T => Sys2Proof.Machine.execTcmp T s
  | .tnow T => Sys2Proof.Machine.execTnow T s
  | .call T => Sys2Proof.Machine.execCall T s
  | .ret T => Sys2Proof.Machine.execRet T s
  | .jx T => Sys2Proof.Machine.execJx T s
  | .waitev T => Sys2Proof.Machine.execWaitev T s
  | .waitt T => Sys2Proof.Machine.execWaitt T s
  | .waitm T => Sys2Proof.Machine.execWaitm T s
  | .trap T => Sys2Proof.Machine.execTrap T s
  | .rett T => Sys2Proof.Machine.execRett T s
  | .rds T => Sys2Proof.Machine.execRds T s
  | .wrs T => Sys2Proof.Machine.execWrs T s
  | .ld T => Sys2Proof.Machine.execLd T s
  | .st T => Sys2Proof.Machine.execSt T s
  | .ldc T => Sys2Proof.Machine.execLdc T s
  | .stc T => Sys2Proof.Machine.execStc T s
  | .xadd T => Sys2Proof.Machine.execXadd T s
  | .mrd T => Sys2Proof.Machine.execMrd T s
  | .mwr T => Sys2Proof.Machine.execMwr T s
  | .balloc T => Sys2Proof.Machine.execBalloc T s
  | .bfree T => Sys2Proof.Machine.execBfree T s
  | .emit T => Sys2Proof.Machine.execEmit T s
  | .pushq T => Sys2Proof.Machine.execPushq T s
  | .pusha T => Sys2Proof.Machine.execPusha T s
  | .regw T => Sys2Proof.Machine.execRegw T s
  | .regr T => Sys2Proof.Machine.execRegr T s
  | .waitEnd T => Sys2Proof.Machine.execWaitEnd T s
  | .transferComplete T tag => Sys2Proof.Machine.execTransferComplete T tag s
  | .sliceOver T => Sys2Proof.Machine.execSliceOver T s
  | .trapHandlerLimit T => Sys2Proof.Machine.execTrapHandlerLimit T s
  | .turnExpiry T => Sys2Proof.Machine.execTurnExpiry T s
  | .engineHalt m T => Sys2Proof.Machine.execEngineHalt m T s
  | .engineResume m T => Sys2Proof.Machine.execEngineResume m T s
  | .engineStep m T => Sys2Proof.Machine.execEngineStep m T s
  | .debugValueWrite m T v => Sys2Proof.Machine.execDebugValueWrite m T v s
  | .engineLoad m T => Sys2Proof.Machine.execEngineLoad m T s
  | .enginePatch m T => Sys2Proof.Machine.execEnginePatch m T s
  | .loadStart => Sys2Proof.Machine.execLoadStart s
  | .loadEnd T => Sys2Proof.Machine.execLoadEnd T s
  | .migrationHandoff old => Sys2Proof.Machine.execMigrationHandoff old s
  | .migSeqHandoff old => Sys2Proof.Machine.execMigSeqHandoff old s
  | .bankGive m b v => Sys2Proof.Machine.execBankGive m b v s
  | .scrubComplete b => Sys2Proof.Machine.execScrubComplete b s
  | .bankTestGo m q v => Sys2Proof.Machine.execBankTestGo m q v s
  | .bankTestEnd q fails => Sys2Proof.Machine.execBankTestEnd q fails s
  | .pantryTestGo m T v => Sys2Proof.Machine.execPantryTestGo m T v s
  | .pantryTestEnd T fails => Sys2Proof.Machine.execPantryTestEnd T fails s
  | .pantryRead m T => Sys2Proof.Machine.execPantryRead m T s
  | .pantryWrite m T v => Sys2Proof.Machine.execPantryWrite m T v s
  | .qmemConfRead m q c => Sys2Proof.Machine.execQmemConfRead m q c s
  | .poolFaultRead m q P w => Sys2Proof.Machine.execPoolFaultRead m q P w s
  | .tpanConfRead m T => Sys2Proof.Machine.execTpanConfRead m T s
  | .dmaRun m c => Sys2Proof.Machine.execDmaRun m c s
  | .dmaStop m c => Sys2Proof.Machine.execDmaStop m c s
  | .dmaReggo m c => Sys2Proof.Machine.execDmaReggo m c s
  | .dmaMove c => Sys2Proof.Machine.execDmaMove c s
  | .dmaMoveComplete c => Sys2Proof.Machine.execDmaMoveComplete c s
  | .dmaLoop c => Sys2Proof.Machine.execDmaLoop c s
  | .dmaWait c => Sys2Proof.Machine.execDmaWait c s
  | .dmaWaitEnd c => Sys2Proof.Machine.execDmaWaitEnd c s
  | .dmaSignal c => Sys2Proof.Machine.execDmaSignal c s
  | .dmaEnd c => Sys2Proof.Machine.execDmaEnd c s
  | .lateFaultLogPop m => Sys2Proof.Machine.execLateFaultLogPop m s
  | .hlflLostRead m => Sys2Proof.Machine.execHlflLostRead m s
  | .hlflOrigRead m who => Sys2Proof.Machine.execHlflOrigRead m who s
  | .quadrantPulseAccept q => Sys2Proof.Machine.execQuadrantPulseAccept q s
  | .housePulseAccept => Sys2Proof.Machine.execHousePulseAccept s
  | .privilegedPulse => Sys2Proof.Machine.execPrivilegedPulse s
  | .maskWindowEnd ctl dom cls => Sys2Proof.Machine.execMaskWindowEnd ctl dom cls s
  | .functionEnable f c msix => Sys2Proof.Machine.execFunctionEnable f c msix s
  | .vectorUnmask f x => Sys2Proof.Machine.execVectorUnmask f x s
  | .tirqDropRead m T => Sys2Proof.Machine.execTirqDropRead m T s
  | .hirqCountRead m notgt => Sys2Proof.Machine.execHirqCountRead m notgt s
  | .cvuGo m c => Sys2Proof.Machine.execCvuGo m c s
  | .cvuStop m c => Sys2Proof.Machine.execCvuStop m c s
  | .scanStart c => Sys2Proof.Machine.execScanStart c s
  | .scanEnd c => Sys2Proof.Machine.execScanEnd c s
  | .zynLinkUp twinSideB ack lanes => Sys2Proof.Machine.execZynLinkUp twinSideB ack lanes s
  | .zynLinkDown lanes => Sys2Proof.Machine.execZynLinkDown lanes s
  | .linkDownFlush => Sys2Proof.Machine.execLinkDownFlush s
  | .heartbeatSend => Sys2Proof.Machine.execHeartbeatSend s
  | .heartbeatTick => Sys2Proof.Machine.execHeartbeatTick s
  | .heartbeatReceive bytes t => Sys2Proof.Machine.execHeartbeatReceive bytes t s
  | .hbWireSilent => Sys2Proof.Machine.execHbWireSilent s
  | .nakReceive seq => Sys2Proof.Machine.execNakReceive seq s
  | .accessReceive seq ack a => Sys2Proof.Machine.execAccessReceive seq ack a s
  | .responseReceive seq ack m result data => Sys2Proof.Machine.execResponseReceive seq ack m result data s
  | .preparedReceive seq ack dom target id digests => Sys2Proof.Machine.execPreparedReceive seq ack dom target id digests s
  | .decideReceive seq ack dom target => Sys2Proof.Machine.execDecideReceive seq ack dom target s
  | .decideAckReceive seq ack dom target => Sys2Proof.Machine.execDecideAckReceive seq ack dom target s
  | .refusedReceive seq ack dom target => Sys2Proof.Machine.execRefusedReceive seq ack dom target s
  | .withdrawnReceive seq ack dom target => Sys2Proof.Machine.execWithdrawnReceive seq ack dom target s
  | .twinFailReceive seq ack dom target rule => Sys2Proof.Machine.execTwinFailReceive seq ack dom target rule s
  | .abortReceive seq ack dom target => Sys2Proof.Machine.execAbortReceive seq ack dom target s
  | .digestReceive seq ack epoch doms => Sys2Proof.Machine.execDigestReceive seq ack epoch doms s
  | .pinReceive seq ack at_ item => Sys2Proof.Machine.execPinReceive seq ack at_ item s
  | .mirrorApply => Sys2Proof.Machine.execMirrorApply s
  | .xfeedReceive seq ack fc f => Sys2Proof.Machine.execXfeedReceive seq ack fc f s
  | .faultReceive seq ack m num cause addr => Sys2Proof.Machine.execFaultReceive seq ack m num cause addr s
  | .joinReqReceive seq ack ej => Sys2Proof.Machine.execJoinReqReceive seq ack ej s
  | .joinOkReceive seq ack items => Sys2Proof.Machine.execJoinOkReceive seq ack items s
  | .pinStateReceive seq ack items => Sys2Proof.Machine.execPinStateReceive seq ack items s
  | .leaveReceive seq ack => Sys2Proof.Machine.execLeaveReceive seq ack s
  | .handoverReceive seq ack th mask => Sys2Proof.Machine.execHandoverReceive seq ack th mask s
  | .handoverAckReceive seq ack th => Sys2Proof.Machine.execHandoverAckReceive seq ack th s
  | .zynCountRead m w => Sys2Proof.Machine.execZynCountRead m w s
  | .join m => Sys2Proof.Machine.execJoin m s
  | .joinDeadline => Sys2Proof.Machine.execJoinDeadline s
  | .joinInstant => Sys2Proof.Machine.execJoinInstant s
  | .leave m => Sys2Proof.Machine.execLeave m s
  | .take m => Sys2Proof.Machine.execTake m s
  | .takeApply => Sys2Proof.Machine.execTakeApply s
  | .yieldAll m => Sys2Proof.Machine.execYieldAll m s
  | .handback m => Sys2Proof.Machine.execHandback m s
  | .handoverInstant => Sys2Proof.Machine.execHandoverInstant s
  | .takeover => Sys2Proof.Machine.execTakeover s
  | .conflictRelease => Sys2Proof.Machine.execConflictRelease s
  | .mailboxWrite m => Sys2Proof.Machine.execMailboxWrite m s
  | .mailboxRead m => Sys2Proof.Machine.execMailboxRead m s
  | .mailboxTimeout m => Sys2Proof.Machine.execMailboxTimeout m s
  | .modeSettled => Sys2Proof.Machine.execModeSettled s
  | .mpllSelect m v => Sys2Proof.Machine.execMpllSelect m v s
  | .mfreqGlideEnd => Sys2Proof.Machine.execMfreqGlideEnd s
  | .clockGate src ppm first => Sys2Proof.Machine.execClockGate src ppm first s
  | .clockEdgeLoss src => Sys2Proof.Machine.execClockEdgeLoss src s
  | .ocxoDelayEnd => Sys2Proof.Machine.execOcxoDelayEnd s
  | .sleepRequest m => Sys2Proof.Machine.execSleepRequest m s
  | .deepRequest m => Sys2Proof.Machine.execDeepRequest m s
  | .wakeRequest m => Sys2Proof.Machine.execWakeRequest m s
  | .deepSleepEntry => Sys2Proof.Machine.execDeepSleepEntry s
  | .wakeNFall makeup => Sys2Proof.Machine.execWakeNFall makeup s
  | .cellarAlarm makeup => Sys2Proof.Machine.execCellarAlarm makeup s
  | .avsTick ok want readBack slow => Sys2Proof.Machine.execAvsTick ok want readBack slow s
  | .thermalSample tj => Sys2Proof.Machine.execThermalSample tj s
  | .governorTick => Sys2Proof.Machine.execGovernorTick s
  | .governorCountRead m w => Sys2Proof.Machine.execGovernorCountRead m w s
  | .powerOnReset => Sys2Proof.Machine.execPowerOnReset s
  | .rstNAssert => Sys2Proof.Machine.execRstNAssert s
  | .deviceResetCmd m => Sys2Proof.Machine.execDeviceResetCmd m s
  | .deviceResetRelease st otp otpBad flash => Sys2Proof.Machine.execDeviceResetRelease st otp otpBad flash s
  | .quadResetCmd m mask => Sys2Proof.Machine.execQuadResetCmd m mask s
  | .quadResetComplete q => Sys2Proof.Machine.execQuadResetComplete q s
  | .tileResetCmd m T => Sys2Proof.Machine.execTileResetCmd m T s
  | .tileResetComplete T => Sys2Proof.Machine.execTileResetComplete T s
  | .otpProgram m => Sys2Proof.Machine.execOtpProgram m s
  | .otpProgramEnd valid => Sys2Proof.Machine.execOtpProgramEnd valid s
  | .supplyFail rail => Sys2Proof.Machine.execSupplyFail rail s
  | .pinBankSupplyLoss bank => Sys2Proof.Machine.execPinBankSupplyLoss bank s
  | .spllLockChange q locked => Sys2Proof.Machine.execSpllLockChange q locked s
  | .pcieLinkUp speed width => Sys2Proof.Machine.execPcieLinkUp speed width s
  | .malformedTlp f bit => Sys2Proof.Machine.execMalformedTlp f bit s
  | .pinBankSupplyReturn bank => Sys2Proof.Machine.execPinBankSupplyReturn bank s
  | .sequencedFlitDiscard seq kind => Sys2Proof.Machine.execSequencedFlitDiscard seq kind s

end Sys2Proof.Machine
end

