-- ==== Sys2Proof/Machine/Balls.lean ====
section
/-! DEFINITION. The ball map of the package (chapter Package, Balls and Electrical Characteristics, R475-R478): which name
each of the 2,601 balls carries. A ball is its row index and its column, 1 to 51 each. -/
namespace Sys2Proof.Machine

/-- The letters that name rows (R475). -/
def rowLetters : List Char := "ABCDEFGHJKLMNPTUVWY".toList

/-- The name of row index `i`. -/
def rowName (i : Nat) : String :=
  let c (k : Nat) : Char := rowLetters.getD k 'A'
  if i ≤ 19 then String.ofList [c (i - 1)]
  else if i ≤ 38 then String.ofList ['A', c (i - 20)]
  else String.ofList ['B', c (i - 39)]

/-- The balls with a signal: a lane, Zynjo or PCIe ball by its number, transmit or receive, DP or DN; a pin channel; an LVDS pair's
ball; a trip; a reference, ring or management signal by its name; a supply. -/
inductive Ball where
  | lane (n : Nat) (tx dn : Bool)
  | zl (k : Nat) (tx dn : Bool)
  | pcie (k : Nat) (tx dn : Bool)
  | pin (pc : Nat)
  | lvds (pc : Nat) (dn : Bool)
  | trip (i : Nat)
  | named (s : String)
  | vddioPb (b : Nat)
  | vss
deriving DecidableEq, Repr

/-- The row index and column of a lane's ball (R476). -/
def laneBall (n : Nat) (tx dn : Bool) : Nat × Nat :=
  let q := n / 32
  let j := n % 32
  let a := 10 + 2 * (j % 16) + (if dn then 1 else 0)
  let dep := (if tx then 2 else 4) + 4 * (j / 16)
  match q with
  | 0 => (dep, a)
  | 1 => (a, 52 - dep)
  | 2 => (52 - dep, a)
  | _ => (a, dep)

/-- The ball of a single-ended pin channel (R478). -/
def pinBall (pc : Nat) : Nat × Nat := (11 + 8 * (pc / 64) + pc % 64 / 15, 14 + 2 * (pc % 64 % 15))

/-- The ball of an LVDS pin channel (R478). -/
def lvdsBall (pc : Nat) (dn : Bool) : Nat × Nat := (15 + 8 * (pc / 64), 14 + 4 * (pc % 64 - 60) + (if dn then 1 else 0))

/-- The ball of a trip input (R478). -/
def tripBall (i : Nat) : Nat × Nat := (16 + 8 * (i / 4), 14 + 2 * (i % 4))

/-- Lane `k` of a corner's eight: rows B and D for 0 to 3, F and H for 4 to 7 (R477). -/
def cornerLane (base : Nat) (r c : Nat) : Option (Nat × Bool × Bool) :=
  let row := match r with | 2 => some (0, true) | 4 => some (0, false) | 6 => some (4, true) | 8 => some (4, false) | _ => none
  match row with
  | some (k, tx) => if base ≤ c ∧ c < base + 8 then some (k + (c - base) / 2, tx, (c - base) % 2 == 1) else none
  | none => none

/-- The reference corner: row index and column (R477). -/
def refNames : List (Nat × Nat × String) := [
  (43, 2, "REFCLK0_DP"), (43, 3, "REFCLK0_DN"), (43, 5, "REFCLK1_DP"), (43, 6, "REFCLK1_DN"), (43, 8, "REFCLK2_DP"), (43, 9, "REFCLK2_DN"),
  (45, 2, "REFCLK3_DP"), (45, 3, "REFCLK3_DN"), (45, 5, "OCXO_IN"), (45, 7, "EXT10M_IN"),
  (46, 1, "VDD_ANA"), (46, 3, "VDD_ANA"), (46, 5, "VDD_ANA"), (46, 7, "VDD_ANA"), (46, 9, "VDD_ANA"),
  (47, 2, "REF_IN0"), (47, 4, "REF_IN1"), (47, 6, "REF_IN2"), (47, 8, "REF_IN3"),
  (48, 2, "REF_LT0"), (48, 4, "REF_LT1"), (48, 6, "REF_LT2"), (48, 8, "REF_LT3"),
  (49, 2, "REF_OUT0"), (49, 4, "REF_OUT1"), (49, 6, "REF_OUT2"), (49, 8, "REF_OUT3")]

/-- The ring ports of row BN (R477). -/
def ringNames : List (Nat × Nat × String) := [
  (51, 2, "RING_A_IN_DP"), (51, 3, "RING_A_IN_DN"), (51, 4, "RING_A_OUT_DP"), (51, 5, "RING_A_OUT_DN"),
  (51, 6, "RING_B_IN_DP"), (51, 7, "RING_B_IN_DN"), (51, 8, "RING_B_OUT_DP"), (51, 9, "RING_B_OUT_DN")]

/-- The management corner, rows BF to BJ (R477). -/
def mgmtNames : List (Nat × Nat × String) := [
  (43, 44, "QSPI_CLK"), (43, 45, "QSPI_CS_N"), (43, 46, "QSPI_IO0"), (43, 47, "QSPI_IO1"), (43, 48, "QSPI_IO2"), (43, 49, "QSPI_IO3"),
  (44, 44, "SVC_SCK"), (44, 45, "SVC_CS_N"), (44, 46, "SVC_SDI"), (44, 47, "SVC_SDO"),
  (45, 44, "TCK"), (45, 45, "TMS"), (45, 46, "TDI"), (45, 47, "TDO"), (45, 48, "TRST_N"),
  (46, 44, "AVS_CLK"), (46, 45, "AVS_MDATA"), (46, 46, "AVS_SDATA"), (46, 48, "RST_N"), (46, 49, "PFW_N"), (46, 50, "WAKE_N")]

/-- The management corner, rows BK to BN (R477). -/
def strapNames : List (Nat × Nat × String) := [
  (47, 44, "TWIN_SIDE"), (47, 45, "BOOT_MODE0"), (47, 46, "BOOT_MODE1"), (47, 47, "BOOT_MODE2"),
  (47, 48, "OSC_DLY0"), (47, 49, "OSC_DLY1"), (47, 50, "OSC_DLY2"), (47, 51, "OSC_DLY3"),
  (48, 44, "CEL_RC"), (48, 46, "XTAL32_IN"), (48, 47, "XTAL32_OUT"), (48, 49, "VDD_CELLAR"), (48, 51, "VDD_CELLAR"),
  (49, 44, "PPS_IN"), (49, 45, "PPS_OUT"), (49, 46, "M10_OUT"), (49, 48, "ZY_HB_IN"), (49, 49, "ZY_HB_OUT"),
  (51, 44, "VDDIO_M"), (51, 46, "VDDIO_M"), (51, 48, "VDDIO_M"), (51, 50, "VDDIO_M")]

/-- A ball of a list of names; VSS where the list names none. -/
def namedBall (l : List (Nat × Nat × String)) (r c : Nat) : Ball :=
  match l.find? (fun x => x.1 == r && x.2.1 == c) with
  | some x => .named x.2.2
  | none => .vss

/-- A ball of a lane region by its quadrant, its position and its depth (R476). -/
def regionBall (q pos dep : Nat) : Ball :=
  let x := pos - 10
  if dep = 9 then .named (if pos % 2 = 0 then "VDD_SDS" else "VDD_SDS_H")
  else if 32 ≤ x then .vss
  else match dep with
    | 2 => .lane (32 * q + x / 2) true (x % 2 == 1)
    | 4 => .lane (32 * q + x / 2) false (x % 2 == 1)
    | 6 => .lane (32 * q + 16 + x / 2) true (x % 2 == 1)
    | 8 => .lane (32 * q + 16 + x / 2) false (x % 2 == 1)
    | _ => .vss

/-- A ball of the interior that no pin uses (R478). -/
def fillBall (r c : Nat) : Ball :=
  if (r + c) % 2 = 0 then .vss else .named (if c ≤ 26 then "VDD_CORE" else "VDD_SRAM")

/-- A ball of the interior (R478). -/
def interiorBall (r c : Nat) : Ball :=
  let q := (r - 11) / 8
  let b := (r - 11) % 8
  if r < 11 ∨ c < 14 then fillBall r c
  else if b < 4 ∧ c ≤ 42 ∧ c % 2 = 0 then .pin (64 * q + 15 * b + (c - 14) / 2)
  else if b < 4 ∧ c ≤ 41 then (if c % 4 = 3 then .vddioPb (4 * q + b) else .vss)
  else if b = 4 ∧ c < 30 ∧ (c - 14) % 4 < 2 then .lvds (64 * q + 60 + (c - 14) / 4) ((c - 14) % 4 == 1)
  else if b = 5 ∧ c < 22 ∧ c % 2 = 0 then .trip (4 * q + (c - 14) / 2)
  else fillBall r c

/-- The name of the ball at row index `r` and column `c` (R476-R478). -/
def ballName (r c : Nat) : Ball :=
  if r < 10 then
    if c < 10 then
      match cornerLane 2 r c with
      | some (k, tx, dn) => .zl k tx dn
      | none => if r = 9 then .named (if c % 2 = 1 then "VDD_SDS" else "VDD_SDS_H") else .vss
    else if c < 43 then regionBall 0 c r
    else
      match cornerLane 44 r c with
      | some (k, tx, dn) => .pcie k tx dn
      | none => namedBall [(9, 44, "PCIE_REFCLK_DP"), (9, 45, "PCIE_REFCLK_DN"), (9, 47, "PERST_N")] r c
  else if r < 43 then
    if c < 10 then regionBall 3 r c
    else if c < 43 then interiorBall r c
    else regionBall 1 r (52 - c)
  else
    if c < 10 then namedBall (refNames ++ ringNames) r c
    else if c < 43 then regionBall 2 c (52 - r)
    else namedBall (mgmtNames ++ strapNames) r c

end Sys2Proof.Machine
end

