-- ==== Sys2Proof/Safety.lean ====
section
/-! DEFINITION. The terms statements are made in: a device that takes commands, a command that completes, two devices
that agree but for what reporting an event changes, and the invariant every step keeps. -/
namespace Sys2Proof.Machine

/-- The device takes commands: it is neither held in reset nor in DEEP SLEEP (R447, R459, R484). -/
abbrev Awake (s : State) : Prop := s.dev.halted = false

/-- The command answers a next state, and that state has the property. -/
def Completes (i : Instr) (s : State) (P : State → Prop) : Prop := ∃ t, exec i s = .next t ∧ P t

/-- A register that reporting an event writes: EV_STAT or ERR_CNT of some page (R154). -/
def reportReg (a : Nat) : Bool := a % 0x1000 == 0x10 || a % 0x1000 == 0x1C

/-- A device without what reporting an event changes: the pulses on their way, the epoch's counts and spill, and the
immediate registers, which `Dev.agrees` compares one by one. -/
def Dev.silent (d : Dev) : Dev :=
  { d with fabric := [], regs := { d.regs with imm := [] },
           sq := { d.sq with acc := [], spill := [], spillLost := 0, spillOver := false } }

/-- Two devices that differ at most in what reporting an event changes: pulses on their way, epoch counts and spill,
and the words EV_STAT and ERR_CNT. Everything else is the same. -/
def Dev.agrees (d e : Dev) : Prop := d.silent = e.silent ∧ ∀ a, reportReg a = false → d.immW a = e.immW a

/-- The command completes, touches neither the memories nor the waiting commands, and leaves the device `e` but for
reports: what `e` says changes, changes so, and nothing else does. -/
def Does (i : Instr) (s : State) (e : Dev) : Prop :=
  Completes i s (fun t => t.pending = s.pending ∧ t.mem = s.mem ∧ t.dev.agrees e)

/-- As `Does`, but the memories take the writes listed, in order (R163, R211, R364-R377). -/
def Stores (i : Instr) (s : State) (e : Dev) (ops : List MemOp) : Prop :=
  Completes i s (fun t => t.pending = s.pending ∧ t.mem = s.mem.run ops ∧ t.dev.agrees e)

/-- As `Does`, and a further fact of the device after. -/
def DoesAnd (i : Instr) (s : State) (e : Dev) (P : Dev → Prop) : Prop :=
  Completes i s (fun t => t.pending = s.pending ∧ t.mem = s.mem ∧ t.dev.agrees e ∧ P t.dev)

/-- The device after a write of master `m` that was accepted: numbered, changed so, and its number accepted (R382). -/
def Dev.wrote (d : Dev) (m : Nat) (f : Dev → Dev) : Dev := (f (d.post m)).postAccepted m

/-- The write of master `m` reaches the register: it is the master's and no block is down (R140-R144, R381). -/
abbrev Reaches (m a : Nat) (s : State) : Prop := s.dev.meet m a = .act

/-- A pulse is on its way to its controller. -/
def Dev.carries (d : Dev) (p : Pulse) : Prop := ∃ e ∈ d.fabric, e.p = p ∧ e.dest = .ctl

/-- A pulse of a house page is on its way, unless the block's source queue was full (R45). -/
def Dev.told (d : Dev) (page id arg : Nat) (t : Dev) : Prop :=
  d.queueFull (houseKey page) houseDom = false → t.carries ⟨id, d.now, arg % 2 ^ 32⟩

/-- As `Does`, and the house page's pulse goes out, stamped with the counter as the command finds it. -/
def Tells (i : Instr) (s : State) (e : Dev) (page id arg : Nat) : Prop := DoesAnd i s e (s.dev.told page id arg)

/-- Everything but the parts that `hide` blanks is as it was, and the device after has the property. -/
def Within (i : Instr) (s : State) (hide : Dev → Dev) (P : Dev → Prop) : Prop :=
  Completes i s (fun t => t.pending = s.pending ∧ t.mem = s.mem ∧ (hide t.dev).agrees (hide s.dev) ∧ P t.dev)

/-- The device with an immediate register left out. -/
def Dev.lessImm (d : Dev) (a : Nat) : Dev := { d with regs := { d.regs with imm := Tab.del d.regs.imm a } }

/-- The memories are canonical: the invariant every step keeps. -/
abbrev State.memOk (s : State) : Prop := s.mem.wf = true

end Sys2Proof.Machine
end

