-- ==== Sys2Proof/Certificates/Slice0/Obligations.lean ====
section
/-! DEFINITION. The statements for the provers, one definition each; some name their parts, so that each part is a statement
that can be read and proved alone. -/

namespace Sys2Proof.Machine

/-- HTIM_CTRL's METHOD and STEP_AT as a write leaves them. -/
def htimBits (d : Dev) (v : Word) : Dev :=
  (d.setIm A.HTIM_CTRL F.HTIM_CTRL_METHOD (fget v F.HTIM_CTRL_METHOD)).setIm A.HTIM_CTRL F.HTIM_CTRL_STEP_AT (fget v F.HTIM_CTRL_STEP_AT)

/-- The instant HTIM_TSET names. -/
def tsetInstant (d : Dev) : Nat :=
  ofFullTime (d.immW (A.HTIM_TSET 0)).toNat (d.immW (A.HTIM_TSET 1)).toNat (d.immW (A.HTIM_TSET 2)).toNat

/-- HTIM_TSET's nanosecond field is admissible. -/
abbrev tsetGood (d : Dev) : Prop := fullNs (d.immW (A.HTIM_TSET 0)).toNat (d.immW (A.HTIM_TSET 1)).toNat ≤ 999999999

/-- A device without what starting the hearth writes: the hearth, the epoch in progress, the twin's numbering, HTIM_CTRL,
ZYN_STAT and the number of the write (R53, R81, R382, R434). -/
def beginning (d : Dev) : Dev := { (d.lessImm A.HTIM_CTRL).lessImm A.ZYN_STAT with h := {}, sq := {}, zyn := {}, late := {} }

end Sys2Proof.Machine

section
open Sys2Proof Sys2Proof.Machine

/-- R53, R54, R55: loading the counter, starting it, reading it. -/
def Obligations.CounterLoadStartAndRead : Prop := ∀ (s : State) (m : Nat) (v : Word), Awake s →
  (Reaches m A.HTIM_CTRL s → ∀ w, w = v ||| 2#32 → fget w F.HTIM_CTRL_STEP_GO = 0 →
    (s.dev.h.run = false → tsetGood s.dev → Does (.tsetGo m v) s (s.dev.wrote m fun d => { htimBits d w with h := { d.h with
        tset := some (tsetInstant d), tsetCyc := d.h.cycle + 1, runPend := d.h.runPend || fget w F.HTIM_CTRL_RUN == 1 } })) ∧
    (s.dev.h.run = true ∨ ¬ tsetGood s.dev ∧ fget w F.HTIM_CTRL_RUN = 0 →
      Tells (.tsetGo m v) s (s.dev.wrote m fun d => (htimBits d w).setIm A.HTIM_STAT F.HTIM_STAT_TSET_REFUSED 1) pgHTIM 0x3004 1)) ∧
  (∀ t, s.dev.h.tset = some t →
    (s.dev.h.runPend = false → Does .tsetLoad s { s.dev with h := { s.dev.h with
        ctr := t * 65536, atTU := 0, cycle := max s.dev.h.cycle s.dev.h.tsetCyc, tset := none,
        pstep := s.dev.h.pstep.map (fun p => { p with second := p.second.map (fun _ => nextWhole secTU t) }) } }) ∧
    (s.dev.h.runPend = true → s.dev.h.run = false → s.dev.h.pstep = none → s.dev.h.slew = none → Within .tsetLoad s beginning (fun u =>
      u.h.run = true ∧ u.im A.HTIM_CTRL F.HTIM_CTRL_RUN = 1 ∧ u.h.ctr = t * 65536 + s.dev.increment))) ∧
  (Reaches m A.HTIM_CTRL s → ∀ w, w = v ||| 1#32 → fget w F.HTIM_CTRL_TSET_GO = 0 → fget w F.HTIM_CTRL_STEP_GO = 0 →
    (s.dev.h.run = true → Does (.hearthRun m v) s (s.dev.wrote m fun d => htimBits d w)) ∧
    (s.dev.h.run = false → s.dev.h.tset.isSome → Does (.hearthRun m v) s
      (s.dev.wrote m fun d => { htimBits d w with h := { d.h with runPend := true } })) ∧
    (s.dev.h.run = false → s.dev.h.tset = none → s.dev.h.pstep = none → Within (.hearthRun m v) s beginning (fun u =>
      u.h.run = true ∧ u.im A.HTIM_CTRL F.HTIM_CTRL_RUN = 1 ∧ u.h.ctr = s.dev.h.ctr ∧ u.sq.bnd = s.dev.now))) ∧
  Does (.nowRead m) s ((s.dev.setLatch (A.HTIM_NOW 0) m (fullTime s.dev.now)).emit (.readData m [(fullTime s.dev.now).headD 0]))

end

namespace Sys2Proof.Machine

/-- The correction d that HTIM_PSTEP holds, in TU. -/
def pstepTU (d : Dev) : Int := (((d.immW (A.HTIM_PSTEP 1)) ++ (d.immW (A.HTIM_PSTEP 0)) : BitVec 64)).toInt

/-- A step of d TU is admitted: while the hearth runs, d is less than the epoch period (R56). -/
abbrev stepFits (d : Dev) : Prop :=
  d.h.run = true → (pstepTU d).natAbs * (periodOf d.live).2 < (periodOf d.live).1 * secTU

/-- R56, R59, R60, R61: steps, slews and the frequency trim. -/
def CounterCorrections : Prop := ∀ (s : State) (m : Nat) (v : Word), Awake s →
  (Reaches m A.HTIM_CTRL s → ∀ w, w = (v &&& ~~~8#32) ||| 4#32 → fget w F.HTIM_CTRL_TSET_GO = 0 →
    (fget w F.HTIM_CTRL_RUN = 0 ∨ s.dev.h.run = true) →
    (s.dev.corrBusy = false → stepFits s.dev → Does (.stepGo m v) s (s.dev.wrote m fun d => { htimBits d w with h := { d.h with
        pstep := some ⟨pstepTU d, if fget w F.HTIM_CTRL_STEP_AT = 1 then some (nextWhole secTU (d.h.tset.getD d.now)) else none,
          d.h.cycle + 1 + b2n d.h.tset.isSome⟩ } })) ∧
    (s.dev.corrBusy = true ∨ ¬ stepFits s.dev →
      Tells (.stepGo m v) s (s.dev.wrote m fun d => (htimBits d w).setIm A.HTIM_STAT F.HTIM_STAT_STEP_REFUSED 1) pgHTIM 0x3004 2)) ∧
  (Reaches m A.HTIM_CTRL s → ∀ w, w = v ||| 12#32 → fget w F.HTIM_CTRL_TSET_GO = 0 → (fget w F.HTIM_CTRL_RUN = 0 ∨ s.dev.h.run = true) →
    (s.dev.corrBusy = false → (pstepTU s.dev).natAbs ≤ secTU → Does (.slewGo m v) s (s.dev.wrote m fun d =>
      { htimBits d w with h := { d.h with slew := some ⟨pstepTU d * 65536, d.lv A.HTIM_SLEW F.HTIM_SLEW_RATE⟩ } })) ∧
    (s.dev.corrBusy = true ∨ secTU < (pstepTU s.dev).natAbs →
      Tells (.slewGo m v) s (s.dev.wrote m fun d => (htimBits d w).setIm A.HTIM_STAT F.HTIM_STAT_STEP_REFUSED 1) pgHTIM 0x3004 2)) ∧
  (∀ sl, s.dev.h.slew = some sl → ∀ k, k = (if sl.rem = 0 then 0 else (sl.rem.natAbs - 1) / max s.dev.slewStep.natAbs 1 + 1) →
    ∀ c : Int, c = s.dev.h.ctr + k * incrementFor s.dev.ftrim 0 + sl.rem →
    DoesAnd .slewComplete s { s.dev with h := { s.dev.h with ctr := c.toNat, cycle := s.dev.h.cycle + k, slew := none } }
      (fun t => s.dev.queueFull (houseKey pgHTIM) houseDom = false → t.carries ⟨0x3003, max (c.toNat / 65536) s.dev.h.atTU, 0⟩)) ∧
  (Reaches m A.HTIM_FTRIM s →
    (-51200000 ≤ v.toInt ∧ v.toInt ≤ 51200000 → Does (.ftrimWrite m v) s (s.dev.wrote m fun d => d.setImmW A.HTIM_FTRIM v)) ∧
    (51200000 < v.toInt → Tells (.ftrimWrite m v) s (s.dev.wrote m fun d =>
      (d.setIm A.HTIM_FTRIM F.HTIM_FTRIM_FTRIM 51200000).setIm A.HTIM_STAT F.HTIM_STAT_FTRIM_CLAMP 1) pgHTIM 0x3004 3) ∧
    (v.toInt < -51200000 → Tells (.ftrimWrite m v) s (s.dev.wrote m fun d =>
      (d.setIm A.HTIM_FTRIM F.HTIM_FTRIM_FTRIM (2 ^ 32 - 51200000)).setIm A.HTIM_STAT F.HTIM_STAT_FTRIM_CLAMP 1) pgHTIM 0x3004 3))

/-- R56, R57: the step instant: the counter takes s + d, STEPPED is set and 0x3002 says d; a boundary instant that is due comes
first. Where no boundary instant is due, no narrow pulse is being judged and the elements hold nothing that a forward step passes
over, nothing else changes. -/
def PhaseStepMovesTheCounter : Prop := ∀ (s : State) (p : PStep), Awake s → s.dev.h.pstep = some p →
  p.second = none → p.cyc ≤ s.dev.h.cycle → s.dev.h.runPend = false →
  ∀ e, e = ((s.dev.now : Int) + p.d).toNat →
  s.dev.dueEvent (max s.dev.now e) = none →
  (∀ x ∈ s.dev.pins, x.2.chat = none) →
  (0 < p.d → s.dev.pins = [] ∧ s.dev.trips = [] ∧ s.dev.axes = [] ∧ s.dev.ports = [] ∧ s.dev.au = [] ∧ ∀ u < 8, s.dev.auRuns u = false) →
  Within .phaseStepApply s
    (fun d => { d.lessImm A.HTIM_STAT with h := { d.h with ctr := 0, atTU := 0, pstep := none, outEdge := [], ppsFall := none },
                                           sq := { d.sq with marks := [], stepped := [] }, zyn := {}, ports := [], pins := [], axes := [],
                                           grps := [], eng := [], au := [], tileIn := [], tileBe := [] })
    (fun t => t.h.ctr = ((s.dev.h.ctr : Int) + p.d * 65536).toNat ∧ t.h.pstep = none ∧ t.im A.HTIM_STAT F.HTIM_STAT_STEPPED = 1 ∧
      (s.dev.queueFull (houseKey pgHTIM) houseDom = false → t.carries ⟨0x3002, e, unsgn 32 p.d⟩))

end Sys2Proof.Machine

section
open Sys2Proof Sys2Proof.Machine

/-- The corrections of the counter: trim, slew and TSET settle it from then on, a phase step moves it at its instant. -/
def Obligations.CounterIsCorrected : Prop := CounterCorrections ∧ PhaseStepMovesTheCounter

end

namespace Sys2Proof.Machine

/-- HSRC_SEL's AUTO and PRIO as a write leaves them. -/
def selBits (d : Dev) (v : Word) : Dev :=
  (d.setIm A.HSRC_SEL F.HSRC_SEL_AUTO (fget v F.HSRC_SEL_AUTO)).setIm A.HSRC_SEL F.HSRC_SEL_PRIO (fget v F.HSRC_SEL_PRIO)

/-- The source a code of HSRC_SEL.PRIO names, and whether it is READY. -/
abbrev isReady (s : State) (c : Nat) : Prop := s.dev.h.ready[c]? = some true

/-- The device with its TPLL in a state on a source, which HSRC_SEL.SRC shows. The instants at which HOLDOVER begins and ends are
kept, and the source whose loss began it is forgotten with it. -/
def tpllAt (d : Dev) (st : TpllState) (src : Nat) : Dev :=
  { d with h := { d.h with
      tpll := st, src := src
      holdLog := if st = TpllState.holdover ↔ d.h.tpll = TpllState.holdover then d.h.holdLog else ((d.now, decide (st = TpllState.holdover)) :: d.h.holdLog).take 16
      lostSrc := if st = TpllState.acquire ∨ st = TpllState.locked then none else d.h.lostSrc } }.setIm A.HSRC_SEL F.HSRC_SEL_SRC src

/-- The TPLL does not choose a source by itself now: it is not in HOLDOVER, or AUTO is 0 (R64). -/
abbrev noAuto (d : Dev) (hold : Bool) : Prop := hold = true → d.im A.HSRC_SEL F.HSRC_SEL_AUTO = 0

end Sys2Proof.Machine

section
open Sys2Proof Sys2Proof.Machine

/-- R63, R64: the transitions of the TPLL by software's selection, by lock, and by a source's READY. -/
def Obligations.TpllStates : Prop := ∀ (s : State) (m : Nat) (v : Word) (c : Nat), Awake s →
  (Reaches m A.HSRC_SEL s → ∀ src, src = fget v F.HSRC_SEL_SRC →
    (src = s.dev.h.src → (s.dev.h.tpll = .holdover → ¬ isReady s src ∧ fget v F.HSRC_SEL_AUTO = 0) → Does (.sourceSelect m v) s (s.dev.wrote m fun d => selBits d v)) ∧
    (src ≠ s.dev.h.src → ¬ isReady s src → Tells (.sourceSelect m v) s
      (s.dev.wrote m fun d => d.setIm A.HSRC_STAT F.HSRC_STAT_SEL_REFUSED 1) pgHSRC 0x3004 4) ∧
    (src ≠ s.dev.h.src → isReady s src → s.dev.h.tpll ≠ .holdover → Tells (.sourceSelect m v) s
      (s.dev.wrote m fun d => tpllAt (selBits d v) d.h.tpll src) pgHSRC 0x3000 (tpllCode s.dev.h.tpll + src * 256)) ∧
    (isReady s src → s.dev.h.tpll = .holdover → Tells (.sourceSelect m v) s
      (s.dev.wrote m fun d => tpllAt (selBits d v) .acquire src) pgHSRC 0x3000 (src * 256))) ∧
  (s.dev.h.tpll = .acquire → isReady s s.dev.h.src → s.dev.sq.armed = true →
    Tells .tpllLock s (tpllAt { s.dev with h := { s.dev.h with everLocked := true } } .locked s.dev.h.src)
      pgHSRC 0x3000 (1 + s.dev.h.src * 256)) ∧
  (s.dev.h.tpll = .acquire → isReady s s.dev.h.src → s.dev.h.run = true → s.dev.h.everLocked = false → s.dev.sq.armed = false →
    0 < (periodOf s.dev.live).1 → 0 < (periodOf s.dev.live).2 →
    Within .tpllLock s (fun d => { d.lessImm A.HSRC_SEL with h := { d.h with tpll := .acquire, everLocked := false, lostSrc := none }, sq := {}, zyn := {} })
      (fun t => t.h.tpll = .locked ∧ t.h.everLocked = true ∧ t.sq.armed = true ∧ t.sq.num = s.dev.firstNum (periodOf s.dev.live) t.sq.nextGrid ∧
        s.dev.now + 1000000 * nsTU ≤ t.sq.nxt)) ∧
  (c ≠ 0 → isReady s c → ∀ e : Dev, e = { s.dev with h := { s.dev.h with ready := s.dev.h.ready.set c false } } →
    (c ≠ s.dev.h.src ∨ s.dev.h.tpll = .holdover ∨ s.dev.h.tpll = .slowHold → noAuto s.dev (s.dev.h.tpll = .holdover) →
      Tells (.sourceReadyLoss c) s e pgHSRC 0x3001 c) ∧
    (c = s.dev.h.src → s.dev.h.tpll = .locked ∨ s.dev.h.tpll = .acquire ∧ s.dev.h.everLocked = true → noAuto s.dev true →
      Does (.sourceReadyLoss c) s (tpllAt { e with h := { e.h with lostSrc := some c } } .holdover c)) ∧
    (c = s.dev.h.src → s.dev.h.tpll = .acquire → s.dev.h.everLocked = false →
      Does (.sourceReadyLoss c) s (tpllAt e .acquire 0))) ∧
  (c < 4 → ¬ isReady s c → ∀ e : Dev, e = { s.dev with h := { s.dev.h with ready := s.dev.h.ready.set c true } } →
    (noAuto s.dev (s.dev.h.tpll = .holdover) → Tells (.sourceReadyGain c) s e pgHSRC 0x3001 (c + 256)) ∧
    (s.dev.h.ready.length = 4 → s.dev.h.tpll = .holdover → s.dev.im A.HSRC_SEL F.HSRC_SEL_AUTO = 1 → (∀ k, ¬ isReady s k) →
      s.dev.im A.HSRC_SEL F.HSRC_SEL_PRIO = 0x39 → Does (.sourceReadyGain c) s (tpllAt e .acquire c)))

end

namespace Sys2Proof.Machine

/-- The OFFSET HRCO_STAT holds of a measured offset: signed, saturating (R68). -/
def trimOffset (ofs : Int) : Nat := unsgn 16 (max (-32768) (min 32767 ofs))

end Sys2Proof.Machine

section
open Sys2Proof Sys2Proof.Machine

/-- R63, R68: HSRC_CFG, and the trimming of the RCO. -/
def Obligations.SourceSettingsAndTrim : Prop := ∀ (s : State) (m : Nat) (v : Word) (ofs : Int), Awake s →
  ∀ tsrc, tsrc = s.dev.im A.HRCO_CTRL F.HRCO_CTRL_TSRC →
  (Reaches m A.HSRC_CFG s →
    ((s.dev.h.src = 1 → fget v F.HSRC_CFG_OCXO_FREQ = s.dev.im A.HSRC_CFG F.HSRC_CFG_OCXO_FREQ) →
      (s.dev.h.src = 3 → fget v F.HSRC_CFG_SYNCE_LANE = s.dev.im A.HSRC_CFG F.HSRC_CFG_SYNCE_LANE) → Does (.hsrcCfgWrite m v) s (s.dev.wrote m fun d => d.setImmW A.HSRC_CFG (v &&& 0x77F01#32))) ∧
    (s.dev.h.src = 1 → fget v F.HSRC_CFG_OCXO_FREQ ≠ s.dev.im A.HSRC_CFG F.HSRC_CFG_OCXO_FREQ → Tells (.hsrcCfgWrite m v) s
      (s.dev.wrote m fun d => d.setIm A.HSRC_STAT F.HSRC_STAT_SEL_REFUSED 1) pgHSRC 0x3004 4) ∧
    (s.dev.h.src = 3 → fget v F.HSRC_CFG_SYNCE_LANE ≠ s.dev.im A.HSRC_CFG F.HSRC_CFG_SYNCE_LANE → Tells (.hsrcCfgWrite m v) s
      (s.dev.wrote m fun d => d.setIm A.HSRC_STAT F.HSRC_STAT_SEL_REFUSED 1) pgHSRC 0x3004 4)) ∧
  (1 ≤ tsrc → tsrc ≤ 7 →
    (100 < ofs.natAbs → Does (.rcoTrimGate ofs) s
      ({ s.dev with h := { s.dev.h with trimGood := 0 } }.setIm A.HRCO_STAT F.HRCO_STAT_OFFSET (trimOffset ofs))) ∧
    (ofs.natAbs ≤ 100 → s.dev.h.trimGood < 2 → Does (.rcoTrimGate ofs) s
      ({ s.dev with h := { s.dev.h with trimGood := s.dev.h.trimGood + 1 } }.setIm A.HRCO_STAT F.HRCO_STAT_OFFSET (trimOffset ofs))) ∧
    (ofs.natAbs ≤ 100 → 2 ≤ s.dev.h.trimGood → Does (.rcoTrimGate ofs) s
      (({ s.dev with h := { s.dev.h with trimGood := 3 } }.setIm A.HRCO_STAT F.HRCO_STAT_OFFSET (trimOffset ofs)).setIm
        A.HRCO_STAT F.HRCO_STAT_TRIMMED 1)) ∧
    Does .trimSourceLoss s ({ s.dev with h := { s.dev.h with trimGood := 0 } }.setIm A.HRCO_STAT F.HRCO_STAT_TRIM_LOST 1)) ∧
  (Reaches m A.HRCO_CTRL s →
    (fget v F.HRCO_CTRL_TSRC = 7 ∧ s.dev.h.src = 0 →
      Does (.hrcoCtrlWrite m v) s (s.dev.wrote m fun d => d.setIm A.HRCO_STAT F.HRCO_STAT_TRIM_REFUSED 1)) ∧
    (fget v F.HRCO_CTRL_TSRC ≠ 7 ∨ s.dev.h.src ≠ 0 → Does (.hrcoCtrlWrite m v) s
      (s.dev.wrote m fun d => { d with h := { d.h with trimGood := 0 } }.setIm A.HRCO_CTRL F.HRCO_CTRL_TSRC (fget v F.HRCO_CTRL_TSRC))))

end

namespace Sys2Proof.Machine

/-- The commands that read a register whose read clears bits, the register and those bits; SLEPT stands in the upper half of TMR_CTL. -/
def rcRead (m x y : Nat) (b : Bool) (i : Instr) (r : Nat) (mask : Word) : Prop :=
  i = .capLostRead m ∧ r = A.HCAP_LOST ∧ mask = 0xFFFFFFFF#32 ∨
  i = .hsvcErrRead m ∧ r = A.HSVC_ERR ∧ mask = 0xFFFFFFFF#32 ∨
  i = .hownWrefusedRead m x ∧ r = (A.HOWN_WREFUSED x) ∧ mask = 0xFFFFFFFF#32 ∨
  i = .hlflLostRead m ∧ r = A.HLFL_LOST ∧ mask = 0xFFFFFFFF#32 ∨
  i = .hlflOrigRead m x ∧ r = (A.HLFL_ORIG x) ∧ mask = 0xFFFFFFFF#32 ∨
  i = .tirqDropRead m x ∧ r = (A.TIRQ_DROP x) ∧ mask = 0xFFFFFFFF#32 ∨
  i = .hirqCountRead m b ∧ r = (if b then A.HIRQ_NOTGT else A.HIRQ_MSGS) ∧ mask = 0xFFFFFFFF#32 ∨
  i = .sleptRead m x y ∧ r = (A.TMR_CTL x y) ∧ mask = 0xFFFF0000#32 ∨
  i = .tripCntRead m x ∧ r = (A.TRIP_CNT x) ∧ mask = 0xFFFFFFFF#32 ∨
  i = .qmemConfRead m x y ∧ r = (A.QMEM_CONF x y) ∧ mask = 0xFFFFFFFF#32 ∨
  i = .poolFaultRead m x y 0 ∧ r = (A.POOL_F0 x y) ∧ mask = 0xFFFFFFFF#32 ∨
  i = .poolFaultRead m x y 1 ∧ r = (A.POOL_F1 x y) ∧ mask = 0xFFFFFFFF#32 ∨
  i = .tpanConfRead m x ∧ r = (A.TPAN_CONF x) ∧ mask = 0xFFFFFFFF#32 ∨
  i = .governorCountRead m (x % 3) ∧ r = (A.HGOV_STAT + 4 * (x % 3)) ∧ mask = 0xFFFFFFFF#32 ∨
  i = .zynCountRead m (x % 6) ∧ r = (A.ZYN_HBMISS + 4 * (x % 6)) ∧ mask = 0xFFFFFFFF#32

/-- R20, R146: a read of an RC register returns it; the owner's read clears the RC bits, and no other reader's does. -/
def ReadsThatClear : Prop := ∀ (s : State) (m x y : Nat) (b : Bool), Awake s → ∀ i r mask, rcRead m x y b i r mask →
  (s.dev.ownsReg m r = true → Does i s ((s.dev.setImmW r (s.dev.immW r &&& ~~~mask)).emit (.readData m [(s.dev.immW r).toNat]))) ∧
  (s.dev.ownsReg m r = false → Does i s (s.dev.emit (.readData m [(s.dev.immW r).toNat])))

/-- R75, R81, R383: the head entries of the capture FIFO and of the late-fault log go into the reader's latch, and the owner's read
removes them; a read of HEPC_EPOCH latches the instants of the boundaries. -/
def LatchingReads : Prop := ∀ (s : State) (m : Nat), Awake s →
  (s.dev.h.cap = [] → Does (.captureFifoPop m) s ((s.dev.setLatch (A.HCAP_E 0) m [0, 0, 0, 0, 0]).emit (.readData m [0]))) ∧
  (∀ e t, s.dev.h.cap = e :: t → ∀ d : Dev, d = s.dev.setLatch (A.HCAP_E 0) m e →
    (s.dev.ownsReg m (A.HCAP_E 3) = true → Does (.captureFifoPop m) s ({ d with h := { d.h with
        cap := t, capArmed := d.h.capArmed || decide (t.length < d.lv A.HCAP_CFG F.HCAP_CFG_THRESH) } }.emit (.readData m [e.getD 3 0]))) ∧
    (s.dev.ownsReg m (A.HCAP_E 3) = false → Does (.captureFifoPop m) s (d.emit (.readData m [e.getD 3 0])))) ∧
  (s.dev.late.log = [] → Within (.lateFaultLogPop m) s (fun d => { d with regs := { d.regs with per := [] }, out := [] })
    (fun t => (∀ i < 6, t.perW (A.HLFL_E0 + 4 * i) m = 0) ∧ t.out = .readData m [0] :: s.dev.out)) ∧
  (∀ e l, s.dev.late.log = e :: l → s.dev.ownsReg m A.HLFL_E0 = true →
    Within (.lateFaultLogPop m) s (fun d => { d with regs := { d.regs with per := [] }, late := { d.late with log := [] }, out := [] })
      (fun t => t.late.log = l ∧ (∀ i < 6, t.perW (A.HLFL_E0 + 4 * i) m = BitVec.ofNat 32 (e.getD i 0)) ∧
        t.out = .readData m [e.getD 0 0] :: s.dev.out)) ∧
  Does (.epochRead m) s (((s.dev.setLatch (A.HEPC_BND 0) m (fullTime s.dev.sq.bnd)).setLatch (A.HEPC_NXT 0) m (fullTime s.dev.sq.nxt)).emit
    (.readData m [s.dev.sq.num % 2 ^ 32]))

/-- A device without its capture FIFO, its reference inputs and the clock. -/
def noCaptures (d : Dev) : Dev :=
  { d.lessImm A.HCAP_LOST with h := { d.h with ctr := 0, atTU := 0, cycle := 0, slew := none, refs := [], cap := [], capArmed := false } }

/-- The capture FIFO takes an entry at its end: a Full Time stamp, word 3 and word 4; a full FIFO takes none and counts it lost (R75). -/
def capTakes (d t : Dev) (stamp w3 w4 : Nat) : Prop :=
  (d.h.cap.length < 1024 → t.h.cap = d.h.cap ++ [fullTime stamp ++ [w3 + 2 ^ 31, w4 % 2 ^ 32]]) ∧
  (1024 ≤ d.h.cap.length → t.h.cap = d.h.cap ∧ t.im A.HCAP_LOST F.HCAP_LOST_LOST = min (d.im A.HCAP_LOST F.HCAP_LOST_LOST + 1) (2 ^ 32 - 1))

/-- The reference inputs but one are as they were. -/
def otherRefs (d t : Dev) (n : Nat) : Prop := ∀ k, k ≠ n → Tab.get t.h.refs {} k = Tab.get d.h.refs {} k

/-- The good marks in succession with a mark at `t` of the detected format `fmt`, where `want` is the input's format setting (R77): none
when the format is not found or not the one set, one more when the mark comes a frame period after the one before, to 1 µs, and
else one (a mark at another interval begins the count anew: the model's reading, log entry 85). -/
def marksInARow (r : RefIn) (want fmt t good : Nat) : Prop :=
  let hit := fmt ≠ 0 ∧ (want = 0 ∨ want = fmt)
  let f := fmtRate (if want = 0 then fmt else want)
  let onPeriod := ∃ t0, r.lastMark = some t0 ∧ (((t : Int) - t0) * f.1 - f.2 * secTU).natAbs ≤ usTU * f.1
  (¬ hit → good = 0) ∧ (hit → onPeriod → good = min (r.good + 1) 8) ∧ (hit → ¬ onPeriod → good = 1)

/-- R75, R77: frame marks: eight good ones in succession lock an input, two missing ones unlock it; marks and the 1PPS input's edges
go into the capture FIFO. -/
def ReferenceInputs : Prop := ∀ (s : State) (n code : Nat) (found : Bool) (t : Nat), Awake s →
  ∀ fmt, fmt = (if found then code else 0) →
  ∀ r, r = Tab.get s.dev.h.refs {} n →
  (s.dev.lvb (A.HREF_IN n) F.HREF_IN_EN = false → Does (.refFrameMark n code found t) s s.dev ∧ Does (.refMarkMissing n) s s.dev) ∧
  (s.dev.lvb (A.HREF_IN n) F.HREF_IN_EN = true →
    (∀ good, marksInARow r (s.dev.lv (A.HREF_IN n) F.HREF_IN_FMT) fmt t good → Within (.refFrameMark n code found t) s noCaptures (fun d =>
      Tab.get d.h.refs {} n = ⟨r.lock || decide (8 ≤ good), good, 0, some t, fmt, if r.lock then (r.frames + 1) % 2 ^ 32 else 0⟩ ∧
      otherRefs s.dev d n ∧
      (bitOf (s.dev.lv A.HCAP_CFG F.HCAP_CFG_EN_REF) n = true →
        capTakes s.dev d t (1 + n + fmt % 16 * 256) (if r.lock then (r.frames + 1) % 2 ^ 32 else 0)) ∧
      (bitOf (s.dev.lv A.HCAP_CFG F.HCAP_CFG_EN_REF) n = false → d.h.cap = s.dev.h.cap))) ∧
    (r.lock = true → 1 ≤ r.missing →
      ∀ r' : RefIn, r' = { r with lock := false, good := 0, missing := r.missing + 1, det := 0, lastMark := none } →
      Tells (.refMarkMissing n) s ({ s.dev with h := { s.dev.h with refs := Tab.set s.dev.h.refs n r' } }.setIm (A.HREF_INSTAT n)
        F.HREF_INSTAT_LOST 1) pgHREF (0x3010 + n) 0) ∧
    (r.lock = false ∨ r.missing = 0 → Does (.refMarkMissing n) s
      { s.dev with h := { s.dev.h with refs := Tab.set s.dev.h.refs n { r with missing := r.missing + 1, good := 0 } } })) ∧
  (s.dev.lvb A.HREF_PPS F.HREF_PPS_PPS_IN_EN = true → s.dev.lvb A.HCAP_CFG F.HCAP_CFG_EN_PPS = true →
    Within (.ppsInEdge t) s noCaptures (fun d => d.h.refs = s.dev.h.refs ∧ capTakes s.dev d t 5 0)) ∧
  (s.dev.lvb A.HREF_PPS F.HREF_PPS_PPS_IN_EN = false ∨ s.dev.lvb A.HCAP_CFG F.HCAP_CFG_EN_PPS = false → Does (.ppsInEdge t) s s.dev)

/-- The device with the edge of output `k` placed at `t`: the output remembers it. -/
def edgeOut (d : Dev) (k t : Nat) (o : Output) : Dev :=
  { d.advanceTo t with h := { (d.advanceTo t).h with outEdge := Tab.set d.h.outEdge k t } }.emit o

/-- `x` is the earliest instant the next edge of output `k` may have: the present one, or later than its last edge. -/
def nextFrom (d : Dev) (k x : Nat) : Prop := x = max d.now (match Tab.get? d.h.outEdge k with | some t => t + 1 | none => 0)

/-- R78: an enabled reference output's next edge is at the next alignment point of its format plus its offset; the 1PPS and 10 MHz
outputs' next edge is at the next whole second or whole 100 ns plus theirs, and the 1PPS falls WIDTH later. -/
def ReferenceOutputs : Prop := ∀ (s : State) (n t x : Nat) (k : Int), Awake s → s.dev.gate 19 = true → x ≤ t →
  (∀ f, f = fmtRate (s.dev.lv (A.HREF_OUT n) F.HREF_OUT_FMT) → 0 < f.1 → 0 < f.2 → s.dev.lv (A.HREF_OUT n) F.HREF_OUT_EN = 1 →
    nextFrom s.dev n x →
    ∀ ofs : Int, ofs = (s.dev.lvW (A.HREF_OFS n)).toInt → ofs ≤ x →
    (t : Int) = k * f.2 * secTU / f.1 + ofs → (k - 1) * f.2 * secTU / f.1 + ofs < x →
    Does (.refOutputEdge n) s (edgeOut s.dev n t (.refEdge n t))) ∧
  (s.dev.lv (A.HREF_OUT n) F.HREF_OUT_EN = 0 → Does (.refOutputEdge n) s s.dev) ∧
  (∀ ofs : Int, ofs = (s.dev.lvW A.HREF_PPSOFS).toInt →
    (s.dev.lv A.HREF_PPS F.HREF_PPS_PPS_OUT_EN = 1 → s.dev.h.ppsFall = none → nextFrom s.dev 4 x →
      (t : Int) = k * secTU + ofs → (t : Int) - secTU < x →
      ∀ e : Dev, e = edgeOut s.dev 4 t (.ppsEdge false t true) →
      Does (.ppsOutputEdge false) s { e with h := { e.h with ppsFall := some (t + s.dev.lv A.HREF_PPS F.HREF_PPS_WIDTH * usTU) } }) ∧
    (s.dev.lv A.HREF_PPS F.HREF_PPS_M10_OUT_EN = 1 → nextFrom s.dev 5 x → (t : Int) = k * (100 * nsTU : Nat) + ofs →
      (t : Int) - (100 * nsTU : Nat) < x → Does (.ppsOutputEdge true) s (edgeOut s.dev 5 t (.ppsEdge true t true)))) ∧
  (s.dev.lv A.HREF_PPS F.HREF_PPS_PPS_OUT_EN = 1 → s.dev.h.ppsFall = some t →
    ∀ e : Dev, e = s.dev.advanceTo t →
    Does (.ppsOutputEdge false) s ({ e with h := { e.h with ppsFall := none } }.emit (.ppsEdge false t false))) ∧
  (s.dev.lv A.HREF_PPS F.HREF_PPS_PPS_OUT_EN = 0 → Does (.ppsOutputEdge false) s s.dev) ∧
  (s.dev.lv A.HREF_PPS F.HREF_PPS_M10_OUT_EN = 0 → Does (.ppsOutputEdge true) s s.dev)

end Sys2Proof.Machine

section
open Sys2Proof Sys2Proof.Machine

/-- The reference inputs are measured and the reference outputs are generated. -/
def Obligations.ReferencesRun : Prop := ReferenceInputs ∧ ReferenceOutputs

end

namespace Sys2Proof.Machine

/-- The code-groups of a frame: SOF, the octets and EOF (R84). -/
def ringFrameOf (bs : List Byte) : List CodeGroup := .control 0x3C :: bs.map .data ++ [.control 0xFD]

/-- Octets with their CRC-32C behind them (R84). -/
def withRingCrc (bs : List Byte) : List Byte := bs ++ leBytes 4 (crcOf 1 bs)

/-- The octets of the MARK that an origin sends for the boundary just passed, its SOF leaving at the counter `tx` (R84, R85). -/
def markOctets (d : Dev) (tx : Nat) : List Byte :=
  let time (t : Nat) : List Byte := (fullTime t).flatMap (leBytes 4)
  [0x11, 0, BitVec.ofNat 8 (b2n (d.h.tpll = .holdover) + 2 * b2n (bitOf (d.acc d.sq.num 8) 1) + 4 * d.lv A.HTIM_UTC F.HTIM_UTC_UTC_VALID +
    8 * d.lv A.HTIM_UTC F.HTIM_UTC_LI61 + 16 * d.lv A.HTIM_UTC F.HTIM_UTC_LI59)] ++
  leBytes 2 (d.lv A.HRING_CFG F.HRING_CFG_NODE_ID) ++ leBytes 4 (d.sq.num % 2 ^ 32) ++ time d.sq.bnd ++ time tx ++ leBytes 8 0 ++
  leBytes 2 (d.lv A.HTIM_UTC F.HTIM_UTC_UTC_OFFSET) ++ [0, 0]

/-- A forwarded frame's octets: HOPS one more, CORR as given (R85). -/
def relayed (bs : List Byte) (corr : Int) : List Byte :=
  putBytes (putBytes (bs.take 45) 1 (leBytes 1 (byteAt bs 1 + 1))) 33 (leBytes 8 (unsgn 64 corr))

end Sys2Proof.Machine

section
open Sys2Proof Sys2Proof.Machine

/-- R84-R87: the timing ring: the origin's MARK, what a member and an origin make of a received frame, refused frames, link changes. -/
def Obligations.TimingRing : Prop := ∀ (s : State) (port t : Nat) (gs : List CodeGroup) (bs : List Byte), Awake s → s.dev.gate 18 = true →
  ∀ role, role = s.dev.lv A.HRING_CFG F.HRING_CFG_ROLE → ∀ own : Prop, own = (leNat ((bs.drop 3).take 2) = s.dev.lv A.HRING_CFG F.HRING_CFG_NODE_ID) →
  ∀ d : Dev, d = s.dev.advanceTo t →
  (role = 1 → s.dev.sq.anyBoundary = true → s.dev.h.markSent ≠ some s.dev.sq.num →
    ∀ e : Dev, e = s.dev.advanceCycle (((if s.dev.h.ctr < s.dev.h.atTU * 65536 then s.dev.h.cycle + 1 else s.dev.h.cycle) + 7) / 8 * 8) →
    ∀ f, f = ringFrameOf (withRingCrc (markOctets e e.now)) →
    Does .ringMarkSend s (({ e with h := { e.h with markSent := some s.dev.sq.num } }.emit (.ring 0 f)).emit (.ring 1 f))) ∧
  (role ≠ 1 ∨ s.dev.sq.anyBoundary = false ∨ s.dev.h.markSent = some s.dev.sq.num → Does .ringMarkSend s s.dev) ∧
  (role = 0 ∨ role = 1 →
    ((∀ b : List Byte, b.length = 49 → gs ≠ ringFrameOf b) →
      Does (.ringFrameReceive port gs t) s (d.setIm A.HRING_STAT F.HRING_STAT_UNKNOWN 1)) ∧
    (bs.length = 49 → leNat (bs.drop 45) ≠ crcOf 1 (bs.take 45) →
      Does (.ringFrameReceive port (ringFrameOf bs) t) s (d.setIm A.HRING_STAT F.HRING_STAT_CRC_ERR 1)) ∧
    (bs.length = 49 → leNat (bs.drop 45) = crcOf 1 (bs.take 45) → byteAt bs 0 ≠ 0x11 →
      Does (.ringFrameReceive port (ringFrameOf bs) t) s (d.setIm A.HRING_STAT F.HRING_STAT_UNKNOWN 1))) ∧
  (bs.length = 49 → leNat (bs.drop 45) = crcOf 1 (bs.take 45) → byteAt bs 0 = 0x11 →
    ∀ tx, tx = ofFullTime (leNat ((bs.drop 21).take 4)) (leNat ((bs.drop 25).take 4)) (leNat ((bs.drop 29).take 4)) →
    ∀ old : Int, old = sgn 64 (leNat ((bs.drop 33).take 8)) →
    (role = 0 → own → Does (.ringFrameReceive port (ringFrameOf bs) t) s (d.setIm A.HRING_STAT F.HRING_STAT_OWN_ID 1)) ∧
    (role = 0 → ¬ own → Within (.ringFrameReceive port (ringFrameOf bs) t) s (fun d => { noCaptures d with out := [], free := 0 }) (fun u =>
      (∃ corr : Int, u.out = .ring port (ringFrameOf (withRingCrc (relayed bs corr))) :: s.dev.out ∧
        old + (408 * nsTU : Nat) + s.dev.lv (A.HRING_LDLY port) F.HRING_LDLY_LDLY ≤ corr ∧
        corr ≤ old + (480 * nsTU : Nat) + s.dev.lv (A.HRING_LDLY port) F.HRING_LDLY_LDLY) ∧
      (s.dev.lvb A.HCAP_CFG F.HCAP_CFG_EN_RING = false → u.h.cap = s.dev.h.cap) ∧
      ∀ ofs : Int, ofs = (t : Int) - s.dev.lv (A.HRING_LDLY port) F.HRING_LDLY_LDLY - (tx + old) →
        s.dev.lvb A.HCAP_CFG F.HCAP_CFG_EN_RING = true → -2147483648 ≤ ofs → ofs ≤ 2147483647 →
        capTakes s.dev u t (0x10 + port + byteAt bs 1 * 256) (unsgn 32 ofs))) ∧
    (role = 1 → own → Within (.ringFrameReceive port (ringFrameOf bs) t) s noCaptures (fun u =>
      ∀ ofs : Int, ofs = (t : Int) - tx - old → s.dev.lvb A.HCAP_CFG F.HCAP_CFG_EN_RING = true → -2147483648 ≤ ofs →
        ofs ≤ 2147483647 → capTakes s.dev u t (0x12 + port + byteAt bs 1 * 256) (unsgn 32 ofs))) ∧
    (role = 1 → ¬ own → Within (.ringFrameReceive port (ringFrameOf bs) t) s
      (fun d => { (noCaptures d).lessImm A.HRING_STAT with out := [], free := 0 })
      (fun u => u.im A.HRING_STAT F.HRING_STAT_FOREIGN = 1 ∧ u.h.cap = s.dev.h.cap ∧ ∃ corr : Int,
        u.out = .ring port (ringFrameOf (withRingCrc (relayed bs corr))) :: s.dev.out ∧
        old + (408 * nsTU : Nat) + s.dev.lv (A.HRING_LDLY port) F.HRING_LDLY_LDLY ≤ corr ∧
        corr ≤ old + (480 * nsTU : Nat) + s.dev.lv (A.HRING_LDLY port) F.HRING_LDLY_LDLY))) ∧
  (role ≠ 0 → role ≠ 1 → Does (.ringFrameReceive port gs t) s s.dev) ∧
  (∀ up, s.dev.h.linkUp.getD port false ≠ up →
    Tells (.ringLinkChange port up) s { s.dev with h := { s.dev.h with linkUp := s.dev.h.linkUp.set port up } } pgHRING (0x3020 + port) (b2n up))

end

namespace Sys2Proof.Machine

/-- A device without the clock. -/
def noClock (d : Dev) : Dev := { d with h := { d.h with ctr := 0, atTU := 0, cycle := 0, slew := none } }

/-- A device that holds nothing a boundary acts on but the settings: no commit waits, no channel, unit, engine, timer or group has
run-time state, no twin, no request of the power states, and no drain close or lock instant is due. -/
structure Quiet (d : Dev) : Prop where
  armed : d.sq.armed = true
  locked : d.sq.locked = true
  drained : d.drainDue = false
  commits : d.sq.commits = []
  pins : d.pins = []
  ports : d.ports = []
  fin : d.fin = []
  fout : d.fout = []
  au : d.au = []
  axes : d.axes = []
  grps : d.grps = []
  trips : d.trips = []
  eng : d.eng = []
  own : d.own = []
  hold : d.sq.pins = []
  zyn : d.zyn = {}
  acc : d.sq.acc = []
  pwr : d.pwr = {}
  irq : d.irq = []
  irqLast : d.irqLast = []
  budget : d.budget = []

/-- R80, R81, R88, R92: a boundary, once the grid has begun: the epoch number steps by one at the grid point and the lock instant of the
next boundary is to come. In a device that holds nothing but settings: the settings before it are kept as the retiring ones, the
epoch that ends waits for its publication, and the next grid point follows. -/
def BoundaryBeginsAnEpoch : Prop := ∀ (s : State), Awake s →
  (s.dev.sq.armed = true → Completes .boundary s (fun t => t.pending = s.pending ∧
    t.dev.sq.num = s.dev.sq.num + 1 ∧ t.dev.sq.bnd = s.dev.sq.nxt ∧ t.dev.sq.locked = false ∧ t.dev.sq.anyBoundary = true)) ∧
  (s.dev.sq.armed = false → Does .boundary s s.dev) ∧
  (Quiet s.dev → s.dev.sq.modes = [] → s.dev.now ≤ s.dev.sq.nxt →
  Completes .boundary s (fun t => t.pending = s.pending ∧ t.mem = s.mem ∧
    t.dev.sq.nextGrid = s.dev.sq.nextGrid + 1 ∧ t.dev.sq.nxt = (gridPoint (periodOf s.dev.live) (s.dev.sq.nextGrid + 1)).toNat ∧
    t.dev.now = s.dev.sq.nxt ∧ t.dev.regs.live = s.dev.regs.live ∧ t.dev.regs.retiring = some s.dev.regs.live ∧
    t.dev.regs.staged = s.dev.regs.staged ∧ t.dev.regs.pending = s.dev.regs.pending ∧
    (∃ p ∈ t.dev.sq.pubs, p.epoch = s.dev.sq.num ∧ p.closed = false)))

/-- R83, R88, R111: the locked commits apply at the boundary, the house's first and the rooms' in ascending order, a later one over
an earlier; a word that none of them holds keeps its live value, and the live bank before becomes the retiring one. -/
def LockedCommitsApplyTogether : Prop := ∀ (d : Dev) (B a : Nat),
  (∀ x ∈ d.applying, (d.commitOf x.dom).st = .locked) ∧
  (∀ dom, (d.commitOf dom).st = .locked → ∃ x ∈ d.applying, x.dom = dom ∧ x.id = (d.commitOf dom).id) ∧
  (∀ pre x post, d.applying = pre ++ x :: post → (∀ y ∈ post, Tab.get? (Tab.get d.regs.pending [] y.dom) a = none) →
    ∀ v, Tab.get? (Tab.get d.regs.pending [] x.dom) a = some v → ((Tab.get d.regs.pending [] x.dom).map (·.1)).Nodup →
    Tab.get? (d.nextBank d.applying) a = some v) ∧
  ((∀ x ∈ d.applying, Tab.get? (Tab.get d.regs.pending [] x.dom) a = none) → Tab.get? (d.nextBank d.applying) a = Tab.get? d.regs.live a) ∧
  (d.switchBank B d.applying (d.nextBank d.applying)).regs.retiring = some d.regs.live ∧
  (a ≠ A.HCFG_MODE → Tab.get? (d.switchBank B d.applying (d.nextBank d.applying)).regs.live a = Tab.get? (d.nextBank d.applying) a)

/-- R88, R114, R118: the lock instant of the boundary to come: a CHECKED commit for it locks, one that still agrees with the twin or
is still checked ends, with any number of commits, but for a room's whose check relied on a house commit that ends here; a commit for
a later epoch stays. -/
def LockInstantDecides : Prop := ∀ (s : State) (dom : Nat) (c : Commit), Awake s →
  (s.dev.sq.armed = false ∨ s.dev.sq.locked = true → Does .lockInstant s s.dev) ∧ (s.dev.sq.armed = true → s.dev.sq.locked = false →
  Completes .lockInstant s (fun t => t.pending = s.pending ∧ t.mem = s.mem ∧ t.dev.sq.locked = true) ∧
  (c = s.dev.commitOf dom → c.target = s.dev.sq.num + 1 → dom = houseDom ∨ (∀ e ∈ s.dev.sq.commits, e.1 = dom → e.2.relies = none) →
    (c.st = .checked → Completes .lockInstant s (fun t => (t.dev.commitOf dom).st = .locked ∧ (t.dev.commitOf dom).id = c.id)) ∧
    (c.st = .checking ∨ c.st = .agreeing → Completes .lockInstant s (fun t => (t.dev.commitOf dom).st = .idle ∧
      (t.dev.commitOf dom).lastId = c.id ∧ (t.dev.commitOf dom).lastStatus = if c.st = .checking then 3 else 2))) ∧
  (s.dev.sq.commits = [(dom, c)] → c.twin = false → c.prepared = none →
  ∀ hide, hide = (fun d => { noClock d with sq := { d.sq with commits := [], locked := false }, regs := { d.regs with pending := [] } }) →
  (c.target = s.dev.sq.num + 1 → c.st = .checked → Within .lockInstant s hide (fun t => t.sq.locked = true ∧ t.regs.pending = s.dev.regs.pending ∧
    t.commitOf dom = { c with st := .locked })) ∧
  (c.target = s.dev.sq.num + 1 → c.st = .checking ∨ c.st = .agreeing → Within .lockInstant s hide (fun t => t.sq.locked = true ∧
    t.regs.pending = Tab.del s.dev.regs.pending dom ∧ (t.commitOf dom).st = .idle ∧ (t.commitOf dom).lastId = c.id ∧
    (t.commitOf dom).lastEpoch = c.target ∧ (t.commitOf dom).lastStatus = if c.st = .checking then 3 else 2)) ∧
  (c.target ≠ s.dev.sq.num + 1 ∨ c.st = .idle ∨ c.st = .locked → Within .lockInstant s hide (fun t => t.sq.locked = true ∧ t.regs.pending = s.dev.regs.pending ∧
    t.commitOf dom = c))))

/-- R88, R91, R92: the drain close: the retiring settings go, the epoch before the one in progress is closed, and its publication may
complete. Where no egress channel, engine or guard has anything to do at it, nothing else changes. -/
def DrainCloseEndsTheRetiringBank : Prop := ∀ (s : State), Awake s →
  (s.dev.drainDue = false → Does .drainClose s s.dev) ∧
  (s.dev.drainDue = true → Completes .drainClose s (fun t => t.pending = s.pending ∧ t.dev.regs.retiring = none ∧ t.dev.sq.closedBelow = s.dev.sq.num ∧
    ∀ p ∈ t.dev.sq.pubs, p.epoch = s.dev.sq.num - 1 → p.closed = true)) ∧
  (s.dev.drainDue = true → s.dev.fout = [] → s.dev.eng = [] →
  (∀ c < 16, s.dev.lv (A.CVU_CFG c) F.CVU_CFG_TRIG ≠ 1 ∧ ∀ i < 16, s.dev.lvb (A.CVU_GUARD c i) F.CVU_GUARD_EN = false) →
  Within .drainClose s (fun d => { noClock d with sq := { d.sq with closedBelow := 0, pubs := [] }, regs := { d.regs with retiring := none }, finOld := [] })
    (fun t => t.regs.retiring = none ∧ t.sq.closedBelow = s.dev.sq.num ∧
      (∀ p ∈ t.sq.pubs, p.epoch = s.dev.sq.num - 1 → p.closed = true) ∧ t.sq.pubs.length = s.dev.sq.pubs.length))

/-- R97, R99, R101: the publication in progress completes, once its epoch is closed and it has a slot: the slot is PUBLISHED and CURRENT,
the sequence number steps, and the epoch's accumulators have gone into it; with no other publication waiting nothing else changes; until then there is nothing to do. -/
def PublicationFillsTheSlot : Prop := ∀ (s : State) (p : Publn) (rest : List Publn) (sl : Nat), Awake s →
  (s.dev.sq.pubs = [] ∨ (∃ q ∈ s.dev.sq.pubs.head?, q.slot = none ∨ q.closed = false) → Does .publicationComplete s s.dev) ∧
  (s.dev.sq.pubs = p :: rest → p.slot = some sl → p.closed = true →
  Completes .publicationComplete s (fun t => t.pending = s.pending ∧ t.mem = s.mem ∧ t.dev.sq.pubs.length = rest.length ∧ t.dev.sq.cur = some sl ∧
    t.dev.sq.pubSeq = (s.dev.sq.pubSeq + 1) % 2 ^ 32 ∧ (t.dev.slotOf sl).st = .published ∧ (t.dev.slotOf sl).epoch = p.epoch ∧
    Tab.get (t.dev.slotOf sl).words 0 0x1C = t.dev.sq.pubSeq) ∧
  (rest = [] →
  Within .publicationComplete s
    (fun d => { d with sq := { d.sq with pubSeq := 0, pubs := [], cur := none, slots := [], acc := [] } })
    (fun t => t.sq.pubs = [] ∧ t.sq.cur = some sl ∧ t.sq.pubSeq = (s.dev.sq.pubSeq + 1) % 2 ^ 32 ∧
      (t.slotOf sl).st = .published ∧ (t.slotOf sl).epoch = p.epoch ∧ (∀ k, k ≠ sl → t.slotOf k = s.dev.slotOf k) ∧
      Tab.get (t.slotOf sl).words 0 0x1C = t.sq.pubSeq ∧ Tab.get (t.slotOf sl).words 0 0x40 = s.dev.now % 2 ^ 32 ∧
      s.dev.told pgHSNP 0x3102 p.epoch t)))

end Sys2Proof.Machine

section
open Sys2Proof Sys2Proof.Machine

/-- Boundaries, the commits they apply, drain close and publication. -/
def Obligations.EpochsBeginAndEnd : Prop := BoundaryBeginsAnEpoch ∧ LockedCommitsApplyTogether ∧ LockInstantDecides ∧ DrainCloseEndsTheRetiringBank ∧ PublicationFillsTheSlot

end

namespace Sys2Proof.Machine

/-- R103, R106, R133: pins and reads of the snapshot slots; a read counts once for each 512 bytes of a slot that is FILLING (that one command's
parts meet one slot is the model's choice, log entry 98). -/
def SnapshotPinsAndReads : Prop := ∀ (s : State) (m n off len : Nat), Awake s → ∀ p, p = s.dev.pinOf m →
  (Reaches m A.HSNP_PIN s → (∀ p ∈ s.dev.sq.pubs, p.slot.isSome) →
    (∀ c, s.dev.sq.cur = some c →
      (c :: (s.dev.sq.pins.filter (fun e => e.1 != m && e.2.held)).map (·.2.slot)).eraseDups.length ≤ 2 →
      Does (.snapshotPin m) s (s.dev.wrote m fun d => d.setPin m { p with held := true, slot := c, epoch := (s.dev.slotOf c).epoch, age := 0 })) ∧
    (∀ c, s.dev.sq.cur = some c →
      2 < (c :: (s.dev.sq.pins.filter (fun e => e.1 != m && e.2.held)).map (·.2.slot)).eraseDups.length →
      Does (.snapshotPin m) s (s.dev.wrote m fun d => d.setPin m { p with refused := true })) ∧
    (s.dev.sq.cur = none → Does (.snapshotPin m) s (s.dev.wrote m fun d => d.setPin m { p with refused := true })) ∧
    Does (.snapshotUnpin m) s (s.dev.wrote m fun d => d.setPin m { p with held := false, slot := 0, epoch := 0, age := 0 })) ∧
  ((s.dev.slotOf n).st = .empty →
    Does (.snapshotRead m n off len) s (s.dev.emit (.readData m ((List.range (len / 4)).map (fun _ => 0))))) ∧
  ((s.dev.slotOf n).st = .published → Does (.snapshotRead m n off len) s
    (s.dev.emit (.readData m ((List.range (len / 4)).map (fun i => slotWord n (s.dev.slotOf n) (off + 4 * i)))))) ∧
  ((s.dev.slotOf n).st = .filling → ∀ d : Dev, d = (if m < 8 then s.dev.setPer A.HSNP_STRADDLE m F.HSNP_STRADDLE_COUNT
      (min (s.dev.per A.HSNP_STRADDLE m F.HSNP_STRADDLE_COUNT + (len + 511) / 512) (2 ^ 32 - 1)) else s.dev) →
    Does (.snapshotRead m n off len) s (d.emit
      (.readData m ((List.range (len / 4)).map (fun i => if off + 4 * i = 4 then 1 + 4 * n else 0xFFFFFFFF))))) ∧
  Does (.straddleRead m) s ((s.dev.setPerW A.HSNP_STRADDLE m 0).emit (.readData m [(s.dev.perW A.HSNP_STRADDLE m).toNat]))

/-- A device without what COMMIT, WITHDRAW and the end of a check write. -/
def noCommits (d : Dev) : Dev :=
  { d with sq := { d.sq with commits := [], nextId := 0 }, regs := { d.regs with pending := [], per := [] }, late := {}, free := 0 }

/-- R110, R112-R114, R124, R492: a COMMIT is refused to a master that does not own the domain, under the power-fail warning, over a LOCKED
commit and when it is too late; else it freezes what the domain holds of the staged settings for its target and is checked. WITHDRAW
ends it. -/
def CommitAndWithdraw : Prop := ∀ (s : State) (m dom : Nat) (twin : Bool), Awake s → Reaches m A.HCOM_CMD s → dom ≤ houseDom →
  ∀ c, c = s.dev.commitOf dom → ∀ t32, t32 = s.dev.per A.HCOM_TARGET m F.HCOM_TARGET_EPOCH →
  ∀ my : Nat → Nat → Nat → Dev → Dev, my = (fun status rule id d => d.setPerW A.HCOM_MYSTAT m (BitVec.ofNat 32 (status + rule * 256 + id * 65536))) →
  (s.dev.owns m dom = false →
    Does (.commit m dom twin) s (s.dev.wrote m (my 6 0 0)) ∧ Does (.withdraw m dom) s (s.dev.wrote m (my 6 0 0))) ∧
  (s.dev.owns m dom = true →
    (s.dev.sq.pfwActive = true → Does (.commit m dom twin) s (s.dev.wrote m (my 5 0 0))) ∧
    (s.dev.sq.pfwActive = false → c.st = .locked → Does (.commit m dom twin) s (s.dev.wrote m (my 1 5 0))) ∧
    (s.dev.sq.pfwActive = false → c.st = .idle → s.dev.tooLate t32 = true → Does (.commit m dom twin) s (s.dev.wrote m (my 3 0 0))) ∧
    (s.dev.sq.pfwActive = false → c.st = .idle ∨ c.st ≠ .locked ∧ dom ≠ houseDom ∧ c.twin = false → s.dev.tooLate t32 = false → Within (.commit m dom twin) s noCommits (fun t =>
      (t.commitOf dom).st = .checking ∧ (t.commitOf dom).id = s.dev.sq.nextId ∧ (t.commitOf dom).target = s.dev.fullEpoch t32 ∧
      (t.commitOf dom).twin = twin ∧ (t.commitOf dom).master = m ∧
      t.sq.nextId = (if s.dev.sq.nextId = 65535 then 1 else s.dev.sq.nextId + 1) ∧
      t.perW A.HCOM_MYSTAT m = BitVec.ofNat 32 (0xFE + s.dev.sq.nextId * 65536) ∧
      (t.commitOf dom).relies = (s.dev.reliesOn dom (s.dev.fullEpoch t32)).map (·.id) ∧
      (∀ k, k ≠ dom → Tab.get? t.regs.pending k = Tab.get? s.dev.regs.pending k ∧
        (dom ≠ houseDom ∨ (s.dev.commitOf k).st ≠ .checking → t.commitOf k = s.dev.commitOf k) ∧
        (dom = houseDom → (s.dev.commitOf k).st = .checking → t.commitOf k = { s.dev.commitOf k with
          relies := if s.dev.fullEpoch t32 ≤ (s.dev.commitOf k).target then some s.dev.sq.nextId else none })) ∧
      (dom ≠ houseDom → ∀ a v, (a, v) ∈ Tab.get t.regs.pending [] dom ↔
        (a, v) ∈ s.dev.regs.staged ∧ s.dev.admits dom (s.dev.fullEpoch t32) a = true))) ∧
    (c.st = .checking ∨ c.st = .checked ∨ c.st = .agreeing → dom ≠ houseDom → c.twin = false → Within (.withdraw m dom) s noCommits (fun t =>
      (t.commitOf dom).st = .idle ∧ (t.commitOf dom).lastStatus = 4 ∧ (t.commitOf dom).lastId = c.id ∧ (t.commitOf dom).lastEpoch = c.target ∧
      t.regs.pending = Tab.del s.dev.regs.pending dom ∧ t.perW A.HCOM_MYSTAT m = BitVec.ofNat 32 (4 + c.id * 65536) ∧
      ∀ k, k ≠ dom → t.commitOf k = s.dev.commitOf k)) ∧
    (c.st = .idle ∨ c.st = .locked → Does (.withdraw m dom) s (s.dev.wrote m id)))

/-- R114, R115, R118: a check that finds no failure leads to CHECKED; one that finds failures ends the commit with CHECK_FAIL, the lowest
rule, the count and the sixteen failures of the lowest addresses. -/
def CheckDecides : Prop := ∀ (s : State) (dom : Nat) (c : Commit), Awake s → c = s.dev.commitOf dom →
  (c.st ≠ .checking → Does (.checkComplete dom) s s.dev) ∧
  (c.st = .checking → c.twin = false → s.dev.failures dom = [] → Does (.checkComplete dom) s (s.dev.setCommit dom
    { c with st := .checked, relies := (s.dev.reliesOn dom c.target).map (·.id), firstRule := 0, failCount := 0, flog := [] })) ∧
  (c.st = .checking → s.dev.failures dom ≠ [] → Completes (.checkComplete dom) s (fun t => t.pending = s.pending ∧ t.mem = s.mem ∧
    (t.dev.commitOf dom).st = .idle ∧ (t.dev.commitOf dom).lastStatus = 1 ∧ (t.dev.commitOf dom).lastId = c.id)) ∧
  (c.st = .checking → c.twin = false → s.dev.failures dom ≠ [] → dom ≠ houseDom → Within (.checkComplete dom) s noCommits (fun t =>
    (t.commitOf dom).st = .idle ∧ (t.commitOf dom).lastStatus = 1 ∧ (t.commitOf dom).lastId = c.id ∧
    (∀ f ∈ s.dev.failures dom, (t.commitOf dom).firstRule ≤ f.1) ∧
    (t.commitOf dom).failCount = min (s.dev.failures dom).length 255 ∧ (t.commitOf dom).flog = (s.dev.failures dom).take 16 ∧
    t.regs.pending = Tab.del s.dev.regs.pending dom ∧ t.sq.nextId = s.dev.sq.nextId ∧ t.regs.per = s.dev.regs.per ∧
    ∀ k, k ≠ dom → t.commitOf k = s.dev.commitOf k))

end Sys2Proof.Machine

section
open Sys2Proof Sys2Proof.Machine

/-- A commit is taken or refused, withdrawn, and decided by its check (its view of the settings: log entry 18). -/
def Obligations.CommitsAreTakenAndChecked : Prop := CommitAndWithdraw ∧ CheckDecides

end

namespace Sys2Proof.Machine

/-- A slot of saved settings: its number, the epoch, the words, the length of its body and its CRC-32C over the body and then the 64
bytes of its header but for the CRC itself (R125; each word's place in the body is the model's choice, log entry 96). -/
def savedSlot (seq epoch : Nat) (ws : Tab Word) : FlashSlot :=
  let body := ws.flatMap (fun e => leBytes 4 e.1 ++ leBytes 4 e.2.toNat)
  ⟨seq, body.length, epoch, crcOf 1 (body ++ (leBytes 4 seq ++ leBytes 4 body.length ++ leBytes 4 epoch ++ List.replicate 48 0)), ws⟩

end Sys2Proof.Machine

section
open Sys2Proof Sys2Proof.Machine

/-- R124, R125, R128: the power-fail warning ends every commit not about to apply and a save under way; saving writes the flash slot not in
use; LFACK ends the block on commits. -/
def Obligations.PowerFailSaveAndAcknowledge : Prop := ∀ (s : State) (m t : Nat), Awake s →
  (s.dev.sq.pfwLow = false → Completes (.pfwAssert t) s (fun u => u.pending = s.pending ∧ u.mem = s.mem ∧ u.dev.sq.pfwLow = true ∧
    u.dev.sq.pfwActive = true ∧ u.dev.sq.saving = false)) ∧
  (s.dev.sq.pfwLow = true → Does (.pfwAssert t) s s.dev) ∧
  (s.dev.sq.pfwLow = false → s.dev.sq.commits = [] → s.dev.joined = false → ∀ d : Dev, d = { s.dev.advanceTo t with sq := { s.dev.sq with
      pfwLow := true, pfwActive := true, saving := false } }.setIm A.HCOM_PFW F.HCOM_PFW_SEEN 1 →
    (s.dev.sq.saving = false → Does (.pfwAssert t) s d) ∧
    (s.dev.sq.saving = true → Does (.pfwAssert t) s (d.setIm A.HCOM_SAVE F.HCOM_SAVE_ABANDONED 1))) ∧
  (s.dev.sq.pfwLow = false → s.dev.joined = false → ∀ dom c, s.dev.sq.commits = [(dom, c)] → c.st ≠ .idle → Completes (.pfwAssert t) s (fun u =>
    (u.dev.commitOf dom).st = (if c.st = .locked ∧ s.dev.sq.nxt < t + 5 * usTU then .locked else .idle) ∧
    ((u.dev.commitOf dom).st = .idle → (u.dev.commitOf dom).lastStatus = 5))) ∧
  (s.dev.sq.pfwLow = true → Does (.pfwDeassert t) s { s.dev.advanceTo t with sq := { s.dev.sq with pfwLow := false, pfwEnd := t + 1000 * usTU } }) ∧
  (s.dev.sq.pfwLow = false → s.dev.sq.pfwActive = true →
    Does .pfwWindowEnd s { s.dev.advanceTo s.dev.sq.pfwEnd with sq := { s.dev.sq with pfwActive := false } }) ∧
  (Reaches m A.HCOM_SAVE s →
    (s.dev.sq.saving = true ∨ s.dev.sq.pfwActive = true → Does (.saveGo m) s (s.dev.wrote m id)) ∧
    (s.dev.sq.saving = false → s.dev.sq.pfwActive = false →
      (s.dev.flashInUse = none → Does (.saveGo m) s (s.dev.wrote m fun d => { d with sq := { d.sq with
        saving := true, saveB := false, saveBuf := savedSlot 1 (d.sq.num % 2 ^ 32) d.regs.live, flashA := none } })) ∧
      (∀ f, s.dev.flashInUse = some (false, f) → Does (.saveGo m) s (s.dev.wrote m fun d => { d with sq := { d.sq with
        saving := true, saveB := true, saveBuf := savedSlot ((f.seq + 1) % 2 ^ 32) (d.sq.num % 2 ^ 32) d.regs.live, flashB := none } })) ∧
      (∀ f, s.dev.flashInUse = some (true, f) → Does (.saveGo m) s (s.dev.wrote m fun d => { d with sq := { d.sq with
        saving := true, saveB := false, saveBuf := savedSlot ((f.seq + 1) % 2 ^ 32) (d.sq.num % 2 ^ 32) d.regs.live, flashA := none } })))) ∧
  (s.dev.sq.saving = true → ∀ b, b = s.dev.sq.saveB →
    Tells (.saveComplete true) s (({ s.dev with sq := { s.dev.sq with
        saving := false, flashB := if b then some s.dev.sq.saveBuf else s.dev.sq.flashB
        flashA := if b then s.dev.sq.flashA else some s.dev.sq.saveBuf } }.setIm A.HCOM_SAVE F.HCOM_SAVE_SLOT (b2n b)).setIm
          A.HCOM_SAVE F.HCOM_SAVE_DONE 1) pgHCOM 0x3112 0 ∧
    Tells (.saveComplete false) s (({ s.dev with sq := { s.dev.sq with saving := false } }.setIm A.HCOM_SAVE F.HCOM_SAVE_SLOT (b2n b)).setIm
          A.HCOM_SAVE F.HCOM_SAVE_FAIL 1) pgHCOM 0x3112 2) ∧
  (Reaches m A.HCOM_LFACK s →
    (s.dev.sq.blocked = true → Tells (.lfack m) s (s.dev.wrote m fun d => { d with sq := { d.sq with blocked := false } }) pgHCOM 0x3113 0) ∧
    (s.dev.sq.blocked = false → Does (.lfack m) s (s.dev.wrote m id)))

end

namespace Sys2Proof.Machine

/-- R20-R22, R109, R133, R140-R146, R381, R382: a register write of a master meets a staged register, a plain immediate register, a
register that no write changes, a register of a domain that is not the master's, or a register of a block that is down. -/
def RegisterWrites : Prop := ∀ (s : State) (m a : Nat) (v : Word) (r : RDesc) (ix : List Nat), Awake s →
  descAt (s.dev.egress a) a = some (r, ix) →
  (s.dev.busMeet m a = .act → r.rws ≠ 0 → Does (.registerWrite m a v) s (s.dev.wrote m fun d => { d with regs := { d.regs with
    staged := Tab.set d.regs.staged a (((Tab.get? d.regs.staged a).getD (resetWord (s.dev.egress a) a) &&& ~~~BitVec.ofNat 32 r.rws) |||
      (v &&& BitVec.ofNat 32 r.rws)) } })) ∧
  (s.dev.busMeet m a = .act → r.rws = 0 → perMaster r.id = false → (∀ (d : Dev) (mem : Mem), d.writeAct m a v mem (pageOf a) r.id ix = none) →
    DoesAnd (.registerWrite m a v) s (s.dev.wrote m fun d => d.setImmW a (plainWrite r (d.immW a) v)) (fun t => ∀ k < 32,
      (t.immW a).getLsbD k = (if r.w1c.testBit k && v.getLsbD k then false
        else if r.rw.testBit k then v.getLsbD k else (s.dev.immW a).getLsbD k))) ∧
  (s.dev.busMeet m a = .nothing → Does (.registerWrite m a v) s (s.dev.wrote m id)) ∧
  (s.dev.busMeet m a = .refuse → m < 6 → ∀ d : Dev, d = (s.dev.post m).incIm (A.HOWN_WREFUSED m) F.HOWN_WREFUSED_COUNT 1 →
    (s.dev.sq.refusedM.contains m = true → Does (.registerWrite m a v) s d) ∧
    (s.dev.sq.refusedM.contains m = false → Tells (.registerWrite m a v) s
      { d with sq := { d.sq with refusedM := m :: d.sq.refusedM } } pgHOWN 0x3405 m)) ∧
  (s.dev.busMeet m a = .late → m < 6 → s.dev.late.log.length < 64 → Within (.registerWrite m a v) s
    (fun d => { d.lessImm (A.HLFL_ORIG m) with late := { d.late with log := [], num := [], acc := [] } })
    (fun t => t.late.log = s.dev.late.log ++ [[m + 256 + 2 ^ 31, s.dev.postNum m % 2 ^ 32, s.dev.sq.num % 2 ^ 32, a % 2 ^ 32,
        s.dev.now % 2 ^ 32, s.dev.now / 2 ^ 32 % 2 ^ 32]] ∧
      t.im (A.HLFL_ORIG m) F.HLFL_ORIG_COUNT = min (s.dev.im (A.HLFL_ORIG m) F.HLFL_ORIG_COUNT + 1) (2 ^ 32 - 1)))

/-- R141, R154, R135: ERR_CLR zeroes the page's error count; on HPCI it also zeroes the counts of every function. EV_FORCE sets the event
bits it names that the page has, of an undivided page all, of a divided page those of the master's domains; a bit of another's counts as a refused
write. -/
def PageCommands : Prop := ∀ (s : State) (m page : Nat) (v : Word), Awake s → page % 0x1000 = 0 →
  (Reaches m (A.PG_CTRL page) s → page ≠ 0xB000 →
    DoesAnd (.errClr m page) s (s.dev.wrote m id) (fun t => t.immW (A.ERR_CNT page) = 0)) ∧
  (Reaches m (A.PG_CTRL page) s → page = 0xB000 → Completes (.errClr m page) s (fun t => t.dev.immW (A.ERR_CNT page) = 0 ∧
    ∀ f < 6, t.dev.im (A.HPCI_FUNC f) F.HPCI_FUNC_UR = 0 ∧ t.dev.im (A.HPCI_FUNC f) F.HPCI_FUNC_BAD = 0)) ∧
  (Reaches m (A.EV_FORCE page) s → dividedBits (pageOf (A.EV_FORCE page)) = false →
    DoesAnd (.evForce m page v) s (s.dev.wrote m id) (fun t => t.immW (A.EV_STAT page) = s.dev.immW (A.EV_STAT page) |||
      (v &&& BitVec.ofNat 32 (evBits (pageOf (A.EV_FORCE page)))))) ∧
  (Reaches m (A.EV_FORCE page) s → dividedBits (pageOf (A.EV_FORCE page)) = true → Completes (.evForce m page v) s (fun t =>
    t.pending = s.pending ∧ t.mem = s.mem ∧ ∀ k < 32, (t.dev.immW (A.EV_STAT page)).getLsbD k =
      ((s.dev.immW (A.EV_STAT page)).getLsbD k || (v.getLsbD k && bitOf (evBits (pageOf (A.EV_FORCE page))) k && s.dev.ownsBit m (pageOf (A.EV_FORCE page)) k))))

end Sys2Proof.Machine

section
open Sys2Proof Sys2Proof.Machine

/-- Writes of registers, and the commands of a page. -/
def Obligations.RegistersAreWritten : Prop := RegisterWrites ∧ PageCommands

end

namespace Sys2Proof.Machine

/-- An error of a function: its AER status takes the bit at the severity (which status bits that sets is presumed, log entry 99), and the
message goes out. -/
def aerSays (d : Dev) (f bit : Nat) (sev : AerSev) : Dev :=
  { d with pcie := Tab.set d.pcie f ((Tab.get d.pcie {} f).logged bit sev) }.emit (.aer f bit sev)

/-- A request that function `f` cannot serve: counted, completed with Unsupported Request, logged. -/
def unsupportedSays (d : Dev) (f : Nat) (sev : AerSev) : Dev := aerSays ((d.incIm (A.HPCI_FUNC f) F.HPCI_FUNC_UR 1).emit (.unsupported f)) f 20 sev

/-- R134, R135: the media-store window: a write is accepted whole or discarded whole; a read answers the bytes, or is an Unsupported
Request. -/
def MediaStoreWindow : Prop := ∀ (s : State) (m addr len : Nat) (data : List (Option Byte)), Awake s →
  (s.memOk → addr + data.length ≤ 2 ^ 29 → (∀ i b, data[i]? = some (some b) → s.dev.qualifies m (bankOfByte (addr + i)) = true) →
    Completes (.mediaStoreWrite m addr data) s (fun t => t.pending = s.pending ∧ t.dev.agrees (s.dev.wrote m id) ∧
      t.mem.pantry = s.mem.pantry ∧ ∀ a, t.mem.byte a = (if addr ≤ a then (data.getD (a - addr) none).getD (s.mem.byte a) else s.mem.byte a))) ∧
  (addr + data.length ≤ 2 ^ 29 → m < 6 → (∃ i b, data[i]? = some (some b) ∧ s.dev.qualifies m (bankOfByte (addr + i)) = false) →
    s.dev.sq.refusedM.contains m = true →
    Does (.mediaStoreWrite m addr data) s ((s.dev.post m).incIm (A.HOWN_WREFUSED m) F.HOWN_WREFUSED_COUNT 1)) ∧
  (2 ^ 29 < addr + data.length → Does (.mediaStoreWrite m addr data) s s.dev) ∧
  (addr + len ≤ 2 ^ 29 → (∀ i < len, s.dev.qualifies m (bankOfByte (addr + i)) = true) →
    Does (.mediaStoreRead m addr len) s (s.dev.emit (.readData m ((List.range len).map (fun i => (s.mem.byte (addr + i)).toNat))))) ∧
  ((2 ^ 29 < addr + len ∨ ∃ i < len, s.dev.qualifies m (bankOfByte (addr + i)) = false) → m < 6 →
    Does (.mediaStoreRead m addr len) s (unsupportedSays s.dev m .advisory))

/-- R130, R132, R135, R159: errors of the endpoint are counted by function and logged; a function's reset returns its master's state and its
interrupt enables; the link's state is shown. -/
def EndpointEvents : Prop := ∀ (s : State) (f b : Nat), Awake s → f < 6 →
  Does (.unsupportedTlp f) s (unsupportedSays s.dev f .nonFatal) ∧
  Does (.poisonedWrite f true) s (aerSays (s.dev.incIm (A.HPCI_FUNC f) F.HPCI_FUNC_BAD 1) f 12 .nonFatal) ∧
  Does (.poisonedWrite f false) s (s.dev.incIm (A.HPCI_FUNC f) F.HPCI_FUNC_BAD 1) ∧
  Tells (.malformedTlp f b) s (aerSays s.dev f b .fatal) pgHPCI 0x3409 (b % 256 + f * 256) ∧
  (∀ x, 1 ≤ x ∧ x ≤ 5 ∧ (b = 1 ∨ b = 2 ∨ b = 4 ∨ b = 8) →
    Does (.pcieLinkUp x b) s ((s.dev.setIm A.HPCI_LINK F.HPCI_LINK_SPEED x).setIm A.HPCI_LINK F.HPCI_LINK_WIDTH b)) ∧
  (∀ x, ¬ (1 ≤ x ∧ x ≤ 5 ∧ (b = 1 ∨ b = 2 ∨ b = 4 ∨ b = 8)) → Does (.pcieLinkUp x b) s s.dev) ∧
  ((Tab.get s.dev.pcie {} f).d3hot = false → Does (.d3hotToD0 f) s s.dev) ∧
  (∀ i, i = .functionLevelReset f ∨ i = .d3hotToD0 f ∧ (Tab.get s.dev.pcie {} f).d3hot = true → (∀ p ∈ s.dev.sq.pubs, p.slot.isSome) → Within i s
    (fun d => { d.lessImm (A.HPCI_FUNC f) with regs := { (d.lessImm (A.HPCI_FUNC f)).regs with per := [] }, msixTab := [], msixPend := [], pcie := []
                                               sq := { d.sq with pins := [] } })
    (fun t => (∀ a ∈ perMasterWords, t.perW a f = resetWord false a) ∧ (∀ a n, n < 1024 → n ≠ f → t.perW a n = s.dev.perW a n) ∧
      t.sq.pins = Tab.del s.dev.sq.pins f ∧ t.im (A.HPCI_FUNC f) F.HPCI_FUNC_BME = 0 ∧ t.im (A.HPCI_FUNC f) F.HPCI_FUNC_MSIX_EN = 0 ∧
      t.im (A.HPCI_FUNC f) F.HPCI_FUNC_UR = s.dev.im (A.HPCI_FUNC f) F.HPCI_FUNC_UR ∧
      (∀ e, e ∈ t.msixTab ↔ e ∈ s.dev.msixTab ∧ e.1 / 8192 ≠ f) ∧
      (∀ g, Tab.get t.pcie {} g = if g = f then { Tab.get s.dev.pcie {} f with d3hot := false } else Tab.get s.dev.pcie {} g) ∧ (∀ e, e ∈ t.msixPend ↔ e ∈ s.dev.msixPend ∧ e.1 / 2048 ≠ f))) ∧
  ((∀ p ∈ s.dev.sq.pubs, p.slot.isSome) → Completes .pcieConventionalReset s (fun t => t.dev.immW A.HPCI_LINK = 0 ∧ t.mem = s.mem ∧
    t.pending = s.pending ∧ t.dev.regs.staged = s.dev.regs.staged ∧ t.dev.regs.live = s.dev.regs.live ∧
    ∀ g < 6, (∀ a ∈ perMasterWords, t.dev.perW a g = resetWord false a) ∧ t.dev.im (A.HPCI_FUNC g) F.HPCI_FUNC_BME = 0 ∧
      t.dev.im (A.HPCI_FUNC g) F.HPCI_FUNC_MSIX_EN = 0))

end Sys2Proof.Machine

section
open Sys2Proof Sys2Proof.Machine

/-- The media-store window, and the events of the PCIe endpoint. -/
def Obligations.HostReachesTheDevice : Prop := MediaStoreWindow ∧ EndpointEvents

end

namespace Sys2Proof.Machine

/-- A master's HOWN_MYSTAT tells the result of its last request (R152). -/
def ownSays (d : Dev) (m result dom : Nat) : Dev := d.setPerW A.HOWN_MYSTAT m (BitVec.ofNat 32 (result + dom * 256))

/-- The argument of 0x3400 (R159). -/
def ownArg (dom owner : Nat) (owned : Bool) (cause : Nat) : Nat := dom + owner * 512 + b2n owned * 4096 + cause * 8192

/-- No window and no deadline of the domain has passed, and no commit of it ends with a change of owner. -/
abbrev Steady (d : Dev) (dom : Nat) : Prop :=
  ((d.ownEnt dom).st = .electing → d.h.cycle ≤ (d.ownEnt dom).winEnd) ∧ ((d.ownEnt dom).st = .offered → d.h.cycle < (d.ownEnt dom).deadline) ∧
  ((d.commitOf dom).st = .idle ∨ (d.commitOf dom).st = .locked)

/-- R147, R148, R150-R153: the requests of ownership, in every state of the domain. -/
def OwnershipRequests : Prop := ∀ (s : State) (m dom prio tgt : Nat), Awake s → Reaches m A.HOWN_REQ s → dom ≤ houseDom → prio < 16 →
  tgt < 8 → Steady s.dev dom → ∀ o, o = s.dev.ownEnt dom → ∀ base, base = (s.dev.immW (A.HOWN_ALIVE dom)).toNat →
  (o.st = .unowned → Tells (.claim m dom prio) s (s.dev.wrote m fun d => ownSays (d.setOwn dom
    { st := .electing, claims := [(m, prio)], winEnd := d.h.cycle + 100000 }) m 1 dom) pgHOWN 0x3401 dom) ∧
  (o.st = .electing → Does (.claim m dom prio) s (s.dev.wrote m fun d =>
    ownSays (d.setOwn dom { o with claims := Tab.set o.claims m prio }) m 1 dom)) ∧
  (o.st = .owned ∨ o.st = .offered → Does (.claim m dom prio) s (s.dev.wrote m fun d => ownSays d m 2 dom)) ∧
  (s.dev.owns m dom = false → Does (.handover m dom tgt) s (s.dev.wrote m fun d => ownSays d m 4 dom) ∧
    Does (.release m dom) s (s.dev.wrote m fun d => ownSays d m 4 dom)) ∧
  (s.dev.owns m dom = true →
    (tgt = m → Does (.handover m dom tgt) s (s.dev.wrote m fun d => ownSays d m 6 dom)) ∧
    (tgt ≠ m → Tells (.handover m dom tgt) s (s.dev.wrote m fun d => ownSays (d.setOwn dom
      { o with st := .offered, target := tgt, deadline := d.h.cycle + 1000000 }) m 1 dom) pgHOWN 0x3402 (dom + tgt * 512)) ∧
    Tells (.release m dom) s (s.dev.wrote m fun d => (ownSays d m 0 dom).setOwn dom {}) pgHOWN 0x3400 (ownArg dom o.owner false 2)) ∧
  (o.st = .offered → o.target = m → Tells (.accept m dom prio) s (s.dev.wrote m fun d =>
    (ownSays (ownSays d o.owner 0 dom) m 0 dom).setOwn dom { st := .owned, owner := m, prio := prio, base := base })
      pgHOWN 0x3400 (ownArg dom m true 1)) ∧
  (o.st ≠ .offered ∨ o.target ≠ m → Does (.accept m dom prio) s (s.dev.wrote m fun d => ownSays d m 6 dom)) ∧
  (s.dev.owns m houseDom = false → Does (.forceLapse m dom) s (s.dev.wrote m fun d => ownSays d m 4 dom)) ∧
  (s.dev.owns m houseDom = true →
    (dom = houseDom → Does (.forceLapse m dom) s (s.dev.wrote m fun d => ownSays d m 6 dom)) ∧
    (dom ≠ houseDom → o.st = .unowned → Does (.forceLapse m dom) s (s.dev.wrote m fun d => ownSays d m 0 dom)) ∧
    (dom ≠ houseDom → o.st = .owned ∨ o.st = .offered → Tells (.forceLapse m dom) s (s.dev.wrote m fun d => (ownSays d m 0 dom).setOwn dom {})
      pgHOWN 0x3400 (ownArg dom o.owner false 4)) ∧
    (dom ≠ houseDom → o.st = .electing → Within (.forceLapse m dom) s
      (fun d => { d with own := [], regs := { d.regs with per := [] }, late := {} })
      (fun t => t.ownEnt dom = {} ∧ (∀ k, k ≠ dom → t.ownEnt k = s.dev.ownEnt k) ∧ t.perW A.HOWN_MYSTAT m = BitVec.ofNat 32 (dom * 256) ∧
        ∀ e ∈ o.claims, e.1 ≠ m → e.1 < 1024 → t.perW A.HOWN_MYSTAT e.1 = BitVec.ofNat 32 (3 + dom * 256))))

/-- R147, R148, R150, R153: the end of an election makes the claimant of the highest priority the owner, the lower master of equals; the
deadline of a handover ends the offer; a change of owner ends the domain's unlocked commit with NOT_OWNER. -/
def OwnershipTimes : Prop := ∀ (s : State) (dom mw pw : Nat), Awake s → dom ≤ houseDom → ∀ o, o = s.dev.ownEnt dom →
  (o.st = .electing → (o.claims.map (·.1)).Pairwise (· < ·) → (∀ e ∈ o.claims, e.1 < 8) → (mw, pw) ∈ o.claims →
    (∀ e ∈ o.claims, e.2 < pw ∨ e.2 = pw ∧ mw ≤ e.1) →
    ((s.dev.commitOf dom).st = .idle ∨ (s.dev.commitOf dom).st = .locked → Within (.electionEnd dom) s
      (fun d => { noClock d with own := [], regs := { d.regs with per := [] } })
      (fun t => t.ownEnt dom = { st := .owned, owner := mw, prio := pw, base := (s.dev.immW (A.HOWN_ALIVE dom)).toNat } ∧
        (∀ k, k ≠ dom → t.ownEnt k = s.dev.ownEnt k) ∧ t.perW A.HOWN_MYSTAT mw = BitVec.ofNat 32 (dom * 256) ∧
        (∀ e ∈ o.claims, e.1 ≠ mw → t.perW A.HOWN_MYSTAT e.1 = BitVec.ofNat 32 (3 + dom * 256)) ∧ o.winEnd ≤ t.h.cycle)) ∧
    ((s.dev.commitOf dom).st = .checking ∨ (s.dev.commitOf dom).st = .checked ∨ (s.dev.commitOf dom).st = .agreeing →
      (s.dev.commitOf dom).twin = false → dom ≠ houseDom →
      Completes (.electionEnd dom) s (fun t => (t.dev.ownEnt dom).owner = mw ∧ (t.dev.commitOf dom).st = .idle ∧
        (t.dev.commitOf dom).lastStatus = 6 ∧ t.dev.regs.staged = s.dev.regs.staged ∧ t.mem = s.mem ∧ t.pending = s.pending))) ∧
  (o.st = .offered → ∀ d : Dev, d = s.dev.advanceCycle o.deadline →
    DoesAnd (.handoverDeadline dom) s (ownSays (d.setOwn dom { o with st := .owned, target := 0, deadline := 0 }) o.owner 5 dom)
      (d.told pgHOWN 0x3403 dom))

end Sys2Proof.Machine

section
open Sys2Proof Sys2Proof.Machine

/-- Ownership of a domain is claimed, released, offered and elected (which cycle still belongs to a window: log entry 38). -/
def Obligations.OwnershipChanges : Prop := OwnershipRequests ∧ OwnershipTimes

end

namespace Sys2Proof.Machine

/-- R69, R70, R162, R166, R210, R211, R214: a frame at a sub-port that is up: a bad FCS, a length out of range and a PAUSE frame go nowhere, but for a bad
one that a cut-through channel reads; a
frame that a key matches joins its tile's queue with its stamp; one that none matches goes to the host, if HOSTF takes its cause. -/
def FramesReceived : Prop := ∀ (s : State) (lane : Nat) (f : Frame), Awake s → ∀ d : Dev, d = s.dev.advanceTo f.t →
  (d.subUp lane = false → Does (.portFrameReceive lane f) s d) ∧
  (d.subUp lane = true → ∀ stamp, stamp = ((f.t : Int) - sgn 32 (d.lv (A.HPTP_LAT_IN lane) F.HPTP_LAT_IN_LAT)).toNat →
    ∀ hit, hit = classify (d.viewAt stamp) (d.keysAt stamp) lane f.bytes → ∀ len, len = f.bytes.length + 4 →
    ∀ n, n = lane / 8 → ∀ q, q = d.hostqOf n →
    (f.fcsOk = false → (∀ c ∈ hit, d.cutReaders c.1 stamp = []) → Does (.portFrameReceive lane f) s d) ∧
    (f.fcsOk = false → ∀ fc p, hit = some (fc, p) → d.cutReaders fc stamp ≠ [] → Does (.portFrameReceive lane f) s
      { d with tileIn := Tab.set d.tileIn (fc / 128) (Tab.get d.tileIn [] (fc / 128) ++
        [{ fc := fc, path := p, port := some lane, stamp := stamp, bytes := f.bytes, bad := true }]) }) ∧
    (f.fcsOk = true → len < 64 ∨ d.lv (subCfg d.live lane) F.PRT_SUB_MAXLEN < len ∨ be16 f.bytes 12 = 0x8808 →
      Does (.portFrameReceive lane f) s d) ∧
    (f.fcsOk = true → 64 ≤ len → len ≤ d.lv (subCfg d.live lane) F.PRT_SUB_MAXLEN → be16 f.bytes 12 ≠ 0x8808 →
      (∀ fc p, hit = some (fc, p) → Does (.portFrameReceive lane f) s
        { d with tileIn := Tab.set d.tileIn (fc / 128) (Tab.get d.tileIn [] (fc / 128) ++
          [{ fc := fc, path := p, port := some lane, stamp := stamp, bytes := f.bytes }]) }) ∧
      (hit = none → ∀ cause, cause = hostCause d.live f.bytes → ∀ takes, takes = bitOf (d.lv (subCfg d.live lane) F.PRT_SUB_HOSTF) (cause - 1) →
        (takes = false → Does (.portFrameReceive lane f) s d) ∧
        (takes = true → 256 ≤ q.rx.length → Does (.portFrameReceive lane f) s (d.setIm (A.PRT_HQSTAT n) F.PRT_HQSTAT_HRX_LOST 1)) ∧
        (takes = true → q.rx.length < 256 → ∀ h d', d.allocBuf (n / 4) (d.lv (A.PRT_HCFG n) F.PRT_HCFG_RXPOOL) houseDom .hostRx = (some h, d') →
          Stores (.portFrameReceive lane f) s (d'.setHostq n { q with rx := q.rx ++
            [(f.bytes.length + subIdx d.live lane * 2 ^ 12 + cause * 2 ^ 15 + 2 ^ 31) :: h :: fullTime stamp] })
            [.store (2048 * (h % 2 ^ 18)) f.bytes]))))

/-- A device without what measuring and storing a packet changes: models, meters, buffers and pools, queues, the twin's link. -/
def noPackets (d : Dev) : Dev :=
  { d.lessImm A.ZYN_XFDROP with fin := [], finOld := [], srcFrame := [], meters := [], bufs := [], pools := [], banks := [], fout := [],
                                tileIn := [], tileBe := [], zyn := {}, out := [] }

/-- The packet that the datapath of tile `T` takes from its arrivals, what it leaves there, and for what a best-effort one waits (R166,
R179): a scheduled one first; else, unless the tile's own queue is to be served, a best-effort one. -/
def takenPacket (d : Dev) (T : Nat) (beWait spineWait : Bool) (pk : InPkt) (rest : List InPkt) (wait : Nat) : Prop :=
  d.nextPkt T false = some (pk, rest) ∧ wait = 0 ∨
  d.nextPkt T false = none ∧ d.nextPkt T true = some (pk, rest) ∧
    (beWait = true ∧ wait = 0x10 ∨ beWait = false ∧ spineWait = true ∧ wait = 0x11 ∨
      beWait = false ∧ spineWait = false ∧ Tab.get d.tileBe [] T = [] ∧ wait = 0)

/-- The memories take the packet whole at the buffer, which the pool gave and the one reader it has holds. -/
def storedWhole (s t : State) (pk : InPkt) (h : Nat) (d' : Dev) : Prop :=
  t.mem = s.mem.run [.store (2048 * (h % 2 ^ 18)) pk.bytes] ∧
  ∀ e r, s.dev.readersOf pk.fc pk.stamp = [(e, r)] → t.dev.bufOf (h % 2 ^ 18) = { d'.bufOf (h % 2 ^ 18) with readers := 1 } ∧
    ∃ p : Stored, (t.dev.foutOf e).inq = (s.dev.foutOf e).inq ++ [p] ∧ p.buf = h % 2 ^ 18 ∧ p.len = pk.bytes.length ∧ p.stamp = pk.stamp ∧
      p.src = pk.fc ∧ p.who = r ∧ p.raw = []

/-- R163, R166, R178, R179, R184, R185: the datapath takes the first packet that may go: of a channel that is no ingress channel or with a
false header it keeps nothing; a packet that the merge, the policer and the contract let pass is stored whole at its buffer and handed
to its readers, at once or, a best-effort one that waits, from the tile's queue; any other leaves the memories as they were. -/
def PacketsTaken : Prop := ∀ (s : State) (T : Nat) (b c : Bool), Awake s →
  (s.dev.nextPkt T false = none → s.dev.nextPkt T true = none → b = true ∨ c = true ∨ Tab.get s.dev.tileBe [] T = [] →
    Does (.ingressPacket T b c) s s.dev) ∧
  (∀ pk rest wait, takenPacket s.dev T b c pk rest wait → pk.old = false → ∀ d : Dev, d = { s.dev with tileIn := Tab.set s.dev.tileIn T rest } →
    ∀ w, w = s.dev.viewAt pk.stamp →
    (fcDir w pk.fc ≠ 1 → Does (.ingressPacket T b c) s d) ∧
    (fcDir w pk.fc = 1 → pk.bad = true → s.dev.cutReaders pk.fc pk.stamp = [] → Does (.ingressPacket T b c) s d) ∧
    (fcDir w pk.fc = 1 → pk.bad = false → pktValid pk.bytes (fcEss w pk.fc) = false → Does (.ingressPacket T b c) s d) ∧
    (fcDir w pk.fc = 1 → pk.bad = false → pktValid pk.bytes (fcEss w pk.fc) = true →
      ((s.dev.measured w pk).1 = false ∨ s.dev.fdpRuns (pk.fc / 128) = false → Within (.ingressPacket T b c) s noPackets (fun t =>
        t.tileIn = d.tileIn ∧ t.tileBe = s.dev.tileBe ∧ t.bufs = s.dev.bufs ∧ t.pools = s.dev.pools ∧ t.fout = s.dev.fout ∧
        t.meters = s.dev.meters)) ∧
      ((s.dev.measured w pk).1 = true → s.dev.fdpRuns (pk.fc / 128) = true → w.f (A.FCH_POL0 pk.fc) F.FCH_POL0_CIR = 0 →
        fcMode w pk.fc F.FCH_MODE_CLASS = 0 → ∀ h d', s.dev.allocBuf (pk.fc / 8192) (w.f (A.FCH_POOL pk.fc) F.FCH_POOL_POOL) (fcHolder w pk.fc) .datapath = (some h, d') →
        Completes (.ingressPacket T b c) s (fun t => t.pending = s.pending ∧ t.dev.tileIn = d.tileIn ∧
          (noPackets t.dev).agrees (noPackets s.dev) ∧ storedWhole s t pk h d')) ∧
      ((s.dev.measured w pk).1 = true → (s.dev.letIn w pk (s.dev.measured w pk).2.f).1 = 0 → fcMode w pk.fc F.FCH_MODE_CLASS = 1 → wait ≠ 0 →
        Within (.ingressPacket T b c) s noPackets (fun t => t.tileIn = d.tileIn ∧ t.bufs = s.dev.bufs ∧ ∃ p : InPkt,
          t.tileBe = Tab.set s.dev.tileBe (pk.fc / 128) (Tab.get s.dev.tileBe [] (pk.fc / 128) ++ [p]) ∧
          p.fc = pk.fc ∧ p.path = pk.path ∧ p.port = pk.port ∧ p.stamp = pk.stamp ∧ p.bytes = pk.bytes ∧ p.wait = wait)))) ∧
  (∀ pk rest, s.dev.nextPkt T false = none → b = false → c = false → Tab.get s.dev.tileBe [] T = pk :: rest → pk.old = false →
    ∀ w, w = s.dev.viewAt pk.stamp →
    (s.dev.fdpRuns (pk.fc / 128) = false → Within (.ingressPacket T b c) s noPackets (fun t =>
      t.tileBe = Tab.set s.dev.tileBe T rest ∧ t.tileIn = s.dev.tileIn ∧ t.bufs = s.dev.bufs ∧ t.fout = s.dev.fout)) ∧
    (s.dev.fdpRuns (pk.fc / 128) = true → ∀ h d',
      s.dev.allocBuf (pk.fc / 8192) (w.f (A.FCH_POOL pk.fc) F.FCH_POOL_POOL) (fcHolder w pk.fc) .datapath = (some h, d') →
      Completes (.ingressPacket T b c) s (fun t => t.pending = s.pending ∧ t.dev.tileBe = Tab.set s.dev.tileBe T rest ∧
        (noPackets t.dev).agrees (noPackets s.dev) ∧ storedWhole s t pk h d')))

/-- R168, R169: a number that the merge has accepted on either path it accepts on neither path again, unless 32 packets in a row were too old. -/
def MergeTakesEachNumberOnce : Prop := ∀ (w : View) (fc p p' : Nat) (bs : List Byte) (m : Meas), fcMode w fc F.FCH_MODE_MERGE = 1 →
  fcEss w fc ≠ 6 → 1 ≤ w.f (A.FCH_MERGE fc) F.FCH_MERGE_WIN → (measMerge w fc p bs m).1 = true →
  (if p' = 0 then (measMerge w fc p bs m).2.f.oldA else (measMerge w fc p bs m).2.f.oldB) < 32 →
  (measMerge w fc p' bs (measMerge w fc p bs m).2).1 = false

/-- R170, R180: a path is silent when 1 ms has passed since its last packet while the other path delivered one, no earlier than that one;
RESYNC restarts an ingress channel's model at its next packet. (For a path that has delivered none the millisecond begins at the other's
first packet: the model's choice, log entry 101.) -/
def PathsAndResync : Prop := ∀ (s : State) (fc m : Nat), Awake s → ∀ f, f = Tab.get s.dev.fin {} fc →
  (fcDir s.dev.live fc = 1 → fcMode s.dev.live fc F.FCH_MODE_MERGE ≠ 0 →
    (∀ o at_, f.silentA = false → f.sinceA = some o → at_ = max ((f.lastA.getD o) + 1000 * usTU) o → Does (.pathSilent fc 0) s
      { s.dev.advanceTo at_ with fin := Tab.set s.dev.fin fc { f with silentA := true } }) ∧
    (∀ o at_, f.silentB = false → f.sinceB = some o → at_ = max ((f.lastB.getD o) + 1000 * usTU) o → Does (.pathSilent fc 1) s
      { s.dev.advanceTo at_ with fin := Tab.set s.dev.fin fc { f with silentB := true } })) ∧
  (fcDir s.dev.live fc ≠ 1 ∨ fcMode s.dev.live fc F.FCH_MODE_MERGE = 0 ∨ f.silentA = true ∨ f.sinceA = none → Does (.pathSilent fc 0) s s.dev) ∧
  (fcDir s.dev.live fc ≠ 1 ∨ fcMode s.dev.live fc F.FCH_MODE_MERGE = 0 ∨ f.silentB = true ∨ f.sinceB = none → Does (.pathSilent fc 1) s s.dev) ∧
  (Reaches m (A.FCH_CTL fc) s → fcDir s.dev.live fc = 1 → Does (.flowResync m fc) s (s.dev.wrote m fun d =>
    { d with fin := Tab.set d.fin fc { f with resync := true } })) ∧
  (Reaches m (A.FCH_CTL fc) s → fcDir s.dev.live fc ≠ 1 → Does (.flowResync m fc) s (s.dev.wrote m id))

end Sys2Proof.Machine

section
open Sys2Proof Sys2Proof.Machine

/-- Frames are received, their packets taken, each number once, from either path. -/
def Obligations.FramesBecomePackets : Prop := FramesReceived ∧ PacketsTaken ∧ MergeTakesEachNumberOnce ∧ PathsAndResync

end

namespace Sys2Proof.Machine

/-- The entry's packet leaves it for the device after: its reader is done with the buffer (R185). -/
def Dev.done (d : Dev) (p : Stored) : Dev := if p.raw = [] then d.dropReader p.buf else d

/-- What a channel remembers of the source frames it has met, with one more if it is new (R202). -/
def frameMet (o : FlowOut) (b : Binding) (new : Bool) : List SrcFrame :=
  if new = true ∧ ∀ x ∈ o.seen, ¬ (x.src = b.src ∧ x.tS = b.tS) then o.seen ++ [⟨b.src, b.tS, false, false⟩] else o.seen

end Sys2Proof.Machine

section
open Sys2Proof Sys2Proof.Machine

/-- R184, R186, R188, R189, R190, R196, R205, R206, R207: an egress channel takes the packets its source stored in order: a paced channel
keeps one for its slot, a cut-through channel requests its departure at once, a best-effort channel queues it at its port; one that no
binding takes, or that is refused, gives its buffer back. -/
def Obligations.EgressTakesPackets : Prop := ∀ (s : State) (fc : Nat) (sw : Bool), Awake s → ∀ o, o = s.dev.foutOf fc →
  (o.inq = [] → Does (.egressPacket ⟨fc, sw⟩) s s.dev) ∧
  ∀ p rest, o.inq = p :: rest → ∀ d : Dev, d = s.dev.setFout fc { o with inq := rest } →
  (o.bindOf p.who = none → Does (.egressPacket ⟨fc, sw⟩) s (d.done p)) ∧
  ∀ b, o.bindOf p.who = some b →
  (s.dev.fdpRuns (fc / 128) = false → Does (.egressPacket ⟨fc, sw⟩) s (d.done p)) ∧
  (s.dev.fdpRuns (fc / 128) = true →
    (ef b.words 0 F.FCH_MODE_CLASS ≠ 1 → ef b.words 0 F.FCH_MODE_CUT ≠ 1 → ∀ b' n, o.frame p.who b p = (b', n) →
      ∀ o', o' = { o.setBind p.who (some { b' with pos := b'.pos + 1 }) with inq := rest, seen := frameMet o b' n } →
      (b.cur ≠ some (p.ts, p.fst) → b'.pos = 0 ∧ b'.tS = mediaT p.stamp p.clk p.ts ∧
        b'.slot = slotFrom b.words (mediaT p.stamp p.clk p.ts + egDelay b.words - usTU)) ∧
      (b'.why = 0 → packetOfs b.words b'.pos * (tper b.words).2 < (tper b.words).1 * secTU →
        Does (.egressPacket ⟨fc, sw⟩) s (s.dev.setFout fc { o' with held := o.held ++ [⟨p, b'.slot, b'.pos, b'.tS⟩] })) ∧
      (b'.why = 0xFE → packetOfs b.words b'.pos * (tper b.words).2 < (tper b.words).1 * secTU →
        (o.seqFrom = none → Does (.egressPacket ⟨fc, sw⟩) s ((s.dev.setFout fc { o' with q := (o.q + 1) % 2 ^ 32 }).toCal (egPort b.words)
          ⟨(b'.slot + egTrof b.words).toNat + packetOfs b.words b'.pos, fc, b'.pos, p, b.words, o.q, egTs b.words p (some b'.slot), false, none, false⟩)) ∧
        (o.seqFrom ≠ none → Does (.egressPacket ⟨fc, sw⟩) s (s.dev.setFout fc { o' with ready := o.ready ++ [⟨p, b'.slot, b'.pos, b'.tS⟩] }))) ∧
      (b'.why ≠ 0 → b'.why ≠ 0xFE → Does (.egressPacket ⟨fc, sw⟩) s ((s.dev.setFout fc o').done p)) ∧
      ((tper b.words).1 * secTU ≤ packetOfs b.words b'.pos * (tper b.words).2 →
        Does (.egressPacket ⟨fc, sw⟩) s ((s.dev.setFout fc o').done p))) ∧
    (ef b.words 0 F.FCH_MODE_CLASS ≠ 1 → ef b.words 0 F.FCH_MODE_CUT = 1 → ∀ lane, lane = egPort b.words →
      ∀ slow : Prop, slow = (∃ i, p.inPort = some i ∧ laneWidth s.dev.live (lane / 8) < laneWidth s.dev.live (i / 8)) →
      (p.ovr = true ∨ (s.dev.portOf lane).up = false ∨ slow ∧ p.raw ≠ [] → Does (.egressPacket ⟨fc, sw⟩) s (d.done p)) ∧
      (p.ovr = false → (s.dev.portOf lane).up = true → ¬ (slow ∧ p.raw ≠ []) →
        Does (.egressPacket ⟨fc, sw⟩) s ((s.dev.setFout fc { o with inq := rest, q := (o.q + 1) % 2 ^ 32 }).setPort lane { s.dev.portOf lane with
          cal := (s.dev.portOf lane).cal ++ [⟨s.dev.now, fc, 0, p, b.words, o.q, egTs b.words p none, false, some s.dev.now, false⟩] }))) ∧
    (ef b.words 0 F.FCH_MODE_CLASS = 1 → ∀ lane, lane = egPort b.words →
      (4096 ≤ (s.dev.portOf lane).be.length → Does (.egressPacket ⟨fc, sw⟩) s (d.done p)) ∧
      ((s.dev.portOf lane).be.length < 4096 → ∀ ok d2,
        s.dev.contract s.dev.live (fcHolder s.dev.live fc) lane (egLen b.words p.ulen) s.dev.now true true = (ok, d2) →
        (ok = false → Does (.egressPacket ⟨fc, sw⟩) s ((d2.setFout fc { o with inq := rest }).done p)) ∧
        (ok = true → Does (.egressPacket ⟨fc, sw⟩) s ((d2.setFout fc { o with inq := rest, q := (o.q + 1) % 2 ^ 32 }).setPort lane
          { s.dev.portOf lane with be := (s.dev.portOf lane).be ++
            [⟨s.dev.now, fc, 0, p, b.words, o.q, egTs b.words p none, true, some s.dev.now, sw⟩] })))))

end

namespace Sys2Proof.Machine

/-- R190, R200, R202, R203, R217: at a slot's decision instant the packets kept for it are numbered and their departures requested, and a
slot for which none came counts as a gap; at a slot point the count of slots goes on. -/
def SlotsDecidedAndBegun : Prop := ∀ (s : State) (fc : Nat), Awake s → ∀ o, o = s.dev.foutOf fc →
  (o.nextDecision = none → Does (.slotDecision fc) s s.dev) ∧
  (∀ who ws sl, o.nextDecision = some (who, ws, sl) → (who = 0 → o.swPend = false) → (∀ e ∈ o.held, e.slot ≠ sl ∨ e.p.who ≠ who) →
    ∀ lim, lim = ef ws 0x58 F.FCH_EPER_GAP_LIM → ∀ next, next = some (slotFrom ws (sl + 1)) →
    Does (.slotDecision fc) s ((s.dev.advanceTo (slotDelta ws sl).toNat).setFout fc { o with
      nextSlot := if who = 0 then next else o.nextSlot, oldNext := if who = 1 then next else o.oldNext
      elderNext := if who = 2 then next else o.elderNext
      gapRun := o.gapRun + 1, lostSaid := o.lostSaid || decide (0 < lim ∧ lim ≤ o.gapRun + 1) })) ∧
  (∀ ws sl b e l1 l2, o.nextDecision = some (0, ws, sl) → o.swPend = false → o.bind = some b → o.held = l1 ++ e :: l2 → e.slot = sl → e.p.who = 0 →
    (∀ x ∈ l1 ++ l2, x.slot ≠ sl) → o.retire = none → o.seqFrom = none →
    Does (.slotDecision fc) s (((s.dev.advanceTo (slotDelta ws sl).toNat).setFout fc { o with
      nextSlot := some (slotFrom ws (sl + 1)), held := l1 ++ l2, gapRun := 0, lostSaid := false, filled := sl :: o.filled
      bind := some (b.decided sl true), elder := o.elder.map (fun x => x.decided sl false), lastNew := some e.tS, firstNew := false
      seen := (o.seen.map (fun x => if x.src = b.src ∧ x.tS = e.tS then { x with new := true } else x)).filter (fun x => decide (e.tS ≤ x.tS))
      q := (o.q + 1) % 2 ^ 32 }).toCal (egPort ws)
        ⟨(sl + egTrof ws).toNat + packetOfs ws e.pos, fc, e.pos, e.p, ws, o.q, egTs ws e.p (some sl), false, none, false⟩)) ∧
  (o.nextPoint = none → Does (.slotStart fc) s s.dev) ∧
  (∀ b sl, o.bind = some b → o.nextPoint = some sl → o.swS ≤ sl → Does (.slotStart fc) s ((s.dev.advanceTo sl.toNat).setFout fc
    { o with nextPoint := some (slotFrom b.words (sl + 1)), sinceBind := (if sl = o.swS then 0 else o.sinceBind) + 1 }))

/-- R198, R356: a retired binding is released at its instant when the switch is done; the NEW of a migration takes OLD's next number when
OLD has taken all that comes before. -/
def BindingsEnd : Prop := ∀ (s : State) (fc : Nat), Awake s → ∀ o, o = s.dev.foutOf fc →
  (∀ r, o.elder = none → o.retire = some r → r.paced = true → o.swPend = false → (∀ e ∈ o.held, e.p.who ≠ 1) → (∀ p ∈ o.inq, p.who ≠ 1) →
    Does (.bindingRelease fc) s ((s.dev.advanceTo o.relAt.toNat).setFout fc { o with retire := none, oldNext := none })) ∧
  (∀ r, o.elder = some r → (∀ e ∈ o.held, e.p.who ≠ 2) → (∀ p ∈ o.inq, p.who ≠ 2) →
    Does (.bindingRelease fc) s ((s.dev.advanceTo o.elderAt.toNat).setFout fc { o with elder := none, elderNext := none })) ∧
  (o.elder = none → (∀ r ∈ o.retire, r.paced = false ∨ o.swPend = true) → Does (.bindingRelease fc) s s.dev) ∧
  (o.inq ≠ [] → Does (.migSeqHandoff fc) s s.dev) ∧
  (s.dev.fout.find? (fun e => e.2.seqFrom == some fc) = none → Does (.migSeqHandoff fc) s s.dev) ∧
  (∀ new n, o.inq = [] → s.dev.fout.find? (fun e => e.2.seqFrom == some fc) = some (new, n) → n.ready = [] → (∃ e ∈ n.held, e.p.who = 0) →
    Does (.migSeqHandoff fc) s (s.dev.setFout new { n with
      q := (o.q + (o.held.filter (fun e => decide (e.slot < o.oldEnd))).length) % 2 ^ 32, seqFrom := none }))

/-- A device without what a departure changes but its port: the buffers, the channel's last timestamp, the meters, the clock. -/
def noDeparture (d : Dev) : Dev := { noClock d with fout := [], bufs := [], pools := [], banks := [], meters := [], ports := [], hostq := [], out := [] }

/-- The instant a frame passes the ball that the calendar starts at `t`: HPTP_LAT_OUT before (R70, R191). -/
def atBall (d : Dev) (lane t : Nat) : Nat := ((t : Int) - sgn 32 (d.lv (A.HPTP_LAT_OUT lane) F.HPTP_LAT_OUT_LAT)).toNat

/-- R193, R194, R207, R212: a request reaches its port's calendar; the first request of the calendar takes the wire when it is due and the port is free, as the
frame its channel's settings make of the stored packet; a host frame goes when no scheduled frame waits. -/
def Departures : Prop := ∀ (s : State) (lane : Nat), Awake s → ∀ p, p = s.dev.portOf lane →
  (∀ l1 e l2, p.cal = l1 ++ e :: l2 → (∀ x ∈ l1, x.arr ≠ none) → e.arr = none →
    (s.dev.subUp lane = true → Does (.calendarRequest lane) s (s.dev.setPort lane { p with cal := l1 ++ { e with arr := some s.dev.now } :: l2 })) ∧
    (s.dev.subUp lane = false → Does (.calendarRequest lane) s ((s.dev.setPort lane { p with cal := l1 ++ l2 }).done e.p))) ∧
  ((∀ x ∈ p.cal, x.arr ≠ none) → Does (.calendarRequest lane) s s.dev) ∧
  (s.dev.subUp lane = false → Does (.packetDeparture lane) s s.dev) ∧
  (s.dev.subUp lane = true → p.be = [] → (∀ x ∈ (s.dev.hostqOf (lane / 8)).tx, x.sub ≠ subIdx s.dev.live lane) →
    (p.cal = [] → Does (.packetDeparture lane) s s.dev) ∧
    (∀ e, p.cal = [e] → e.arr.isSome → ∀ at_, at_ = e.start p.freeAt → ∀ lim, lim = ef e.words 0x78 F.FCH_ESLIP_SLIP_LIM * nsTU →
      (ef e.words 0 F.FCH_MODE_DROP_LATE = 1 → e.t + lim < at_ → Does (.packetDeparture lane) s ((s.dev.setPort lane { p with cal := [] }).done e.p)) ∧
      (ef e.words 0 F.FCH_MODE_DROP_LATE = 0 ∨ at_ ≤ e.t + lim → e.p.raw = [] → ∀ bs, bs = egFrame e.words (s.mem.bytes (2048 * e.p.buf) e.p.len) e.seqOut e.tsOut →
        ptpAt s.dev.live bs = none → Within (.packetDeparture lane) s noDeparture (fun t =>
          t.out = .frame lane (atBall s.dev lane at_) (bs ++ fcsOf bs) :: s.dev.out ∧ (t.foutOf e.fc).lastTs = e.tsOut ∧ t.hostq = s.dev.hostq ∧
          t.ports = Tab.set (s.dev.setPort lane { p with cal := [] }).ports lane
            { p with cal := [], freeAt := at_ + wireTU s.dev.live lane (bs.length + 4) })))) ∧
  (s.dev.subUp lane = true → p.be = [] → p.cal = [] → ∀ x l, (s.dev.hostqOf (lane / 8)).tx = x :: l → x.sub = subIdx s.dev.live lane →
    ∀ bs, bs = s.mem.bytes (2048 * x.buf) x.len → ptpAt s.dev.live bs = none → Within (.packetDeparture lane) s noDeparture (fun t =>
      t.out = .frame lane (atBall s.dev lane (max s.dev.now p.freeAt)) (bs ++ fcsOf bs) :: s.dev.out ∧ t.hostqOf (lane / 8) = { s.dev.hostqOf (lane / 8) with tx := l })) ∧
  (s.dev.subUp lane = true → p.cal = [] → (∀ x ∈ (s.dev.hostqOf (lane / 8)).tx, x.sub ≠ subIdx s.dev.live lane) → ∀ e l, p.be = e :: l → e.p.raw = [] →
    ∀ bs, bs = egFrame e.words (s.mem.bytes (2048 * e.p.buf) e.p.len) e.seqOut e.tsOut → ptpAt s.dev.live bs = none →
    Within (.packetDeparture lane) s noDeparture (fun t =>
      t.out = .frame lane (atBall s.dev lane (max s.dev.now p.freeAt)) (bs ++ fcsOf bs) :: s.dev.out ∧ (t.portOf lane).be = l ∧ t.hostq = s.dev.hostq))

end Sys2Proof.Machine

section
open Sys2Proof Sys2Proof.Machine

/-- Slots are decided and begun, bindings end, and packets depart. -/
def Obligations.SlotsDepart : Prop := SlotsDecidedAndBegun ∧ BindingsEnd ∧ Departures

/-- R211, R212, R213, R214, R368: the host's queues of a port octet and its links. -/
def Obligations.HostQueuesAndLinks : Prop := ∀ (s : State) (m n : Nat), Awake s → ∀ q, q = s.dev.hostqOf n →
  (∀ e, e = q.rx.headD [0, 0, 0, 0, 0] → Within (.hostRxPop m n) s (fun d => { d with regs := { d.regs with per := [] }, hostq := [], out := [] })
    (fun t => t.out = .readData m [e.headD 0] :: s.dev.out ∧ t.hostqOf n = (if s.dev.owns m houseDom then { q with rx := q.rx.tail } else q) ∧
      (∀ k, k ≠ n → t.hostqOf k = s.dev.hostqOf k) ∧ ∀ i < e.length, t.perW (A.PRT_HRX0 n + 4 * i) m = BitVec.ofNat 32 (e.getD i 0))) ∧
  (∀ v, Reaches m (A.PRT_HFREE n) s → s.dev.freeOutcome v.toNat houseDom true ≠ 0 →
    Completes (.hostFree m n v) s (fun t => t.dev.bufs = s.dev.bufs ∧ t.mem = s.mem ∧ t.pending = s.pending)) ∧
  (∀ v, Reaches m (A.PRT_HFREE n) s → s.dev.freeOutcome v.toNat houseDom true = 0 → Does (.hostFree m n v) s (s.dev.wrote m fun d => d.freeBuf (v.toNat % 2 ^ 18))) ∧
  (s.dev.owns m houseDom = false → Does (.hostAlloc m n) s (s.dev.emit (.readData m [0]))) ∧
  (∀ r d', s.dev.owns m houseDom = true → s.dev.allocBuf (n / 4) (s.dev.lv (A.PRT_HCFG n) F.PRT_HCFG_TXPOOL) houseDom .explicit = (r, d') →
    Does (.hostAlloc m n) s (d'.emit (.readData m [match r with | some h => h + 2 ^ 31 | none => 0]))) ∧
  (∀ v, Reaches m (A.PRT_HTX1 n) s → ∀ h, h = s.dev.im (A.PRT_HTX0 n) F.PRT_HTX0_HANDLE → ∀ b, b = s.dev.bufOf (h % 2 ^ 18) →
    (64 ≤ q.tx.length → Does (.hostTransmit m n v) s (s.dev.wrote m fun d => d.setIm (A.PRT_HQSTAT n) F.PRT_HQSTAT_HTX_FULL 1)) ∧
    (q.tx.length < 64 → b.alloc = true → b.dom = houseDom → b.holder = .explicit → Does (.hostTransmit m n v) s (s.dev.wrote m fun d =>
      (d.setBuf (h % 2 ^ 18) { b with holder := .device }).setHostq n { q with tx := q.tx ++ [⟨h % 2 ^ 18, h, fget v F.PRT_HTX1_LEN, fget v F.PRT_HTX1_SUB⟩] }))) ∧
  (∀ lane v, subEn s.dev.live lane = true → s.dev.laneRuns lane = true → ∀ a, a = A.PRT_LINK (lane / 8) (subIdx s.dev.live lane) →
    Does (.linkTrainingFail lane) s (s.dev.setIm a F.PRT_LINK_LT_FAIL 1) ∧
    (fget v F.PRT_LINK_UP = 1 → Does (.portLinkChange lane v) s ((s.dev.setImmW a ((s.dev.immW a &&& 0xFFFFFF90#32) ||| (v &&& 0x6F#32))).setPort lane
      { s.dev.portOf lane with up := true })) ∧
    (fget v F.PRT_LINK_UP = 0 → (∀ e ∈ (s.dev.portOf lane).cal, e.arr = none) → Does (.portLinkChange lane v) s
      ((s.dev.setImmW a ((s.dev.immW a &&& 0xFFFFFF90#32) ||| (v &&& 0x6F#32))).setPort lane { s.dev.portOf lane with up := false }))) ∧
  (∀ lane v, subEn s.dev.live lane = false ∨ s.dev.laneRuns lane = false →
    Does (.linkTrainingFail lane) s s.dev ∧ Does (.portLinkChange lane v) s s.dev)

end

namespace Sys2Proof.Machine

/-- The channel's driver shows its waveform: nothing takes the pin from it, and its leader does not hold it off (R222, R228, R239). -/
abbrev pinHeld (d : Dev) (pc : Nat) : Prop :=
  d.wantPin pc ≠ none ∧ (d.pcOf pc).inSafe = false ∧ (d.pcOf pc).oe = true ∧ (d.pcOf pc).pin = ((d.pcOf pc).wlevel != (d.pcOf pc).inv) ∧ d.pairBlocks pc = false

/-- A complementary output follows this channel (R239). -/
abbrev leads (d : Dev) (pc : Nat) : Prop := (d.pcOf pc).mode = 4 ∧ pc % 2 = 0 ∧ (d.pcOf (pc + 1)).mode = 5

/-- Of the pins, the trips' blanking and what leaves the device, only this changed: channel `c` at `pc` took the level `l`, by an edge at `t`
that leaves earlier by `lat`; with the complement of a leader it may be another pin too. -/
def edgeLeft (d u : Dev) (pc : Nat) (c : PinCh) (t : Nat) (l : Bool) (lat : Int) : Prop :=
  u.pcOf pc = { c with wlevel := l, pin := l != c.inv, lastEdge := some t } ∧ .edge pc ((t : Int) - lat).toNat (l != c.inv) ∈ u.out ∧
  (∀ k, k ≠ pc → ¬ (leads d pc ∧ k = pc + 1) → u.pcOf k = d.pcOf k) ∧
  (¬ leads d pc → u.out = .edge pc ((t : Int) - lat).toNat (l != c.inv) :: d.out)

/-- A device without its pins, the trip inputs, what it sent and the clock. -/
def noPins (d : Dev) : Dev := { noClock d with pins := [], trips := [], out := [] }

/-- R223, R226, R227, R233: the earliest edge, of the interpolator or of the edge queue, is placed at its instant, later by what the minimum spacing asks, and leaves
LAT_OUT before, as it stood at the request; one to the level that stands moves nothing, and one that dead time leaves too short is not placed; an entry of the queue
that reaches the interpolator too late is skipped or placed at once. -/
def EdgesPlaced : Prop := ∀ (s : State) (pc : Nat), Awake s → ∀ c, c = s.dev.pcOf pc →
  ∀ at_ : Nat → Nat, (∀ t, at_ t = (match c.lastEdge with | some e => max t (e + pinSpacing pc) | none => t)) →
  (∀ e q, c.mode = 3 → c.q = e :: q → e.arr = true → ∀ te, te = e.moved.getD e.t → (∀ r ∈ c.reqs.head?, te < r.t) →
    (c.inSafe = true ∨ e.level = c.wlevel → Does (.edgePlacement pc) s ((s.dev.advanceTo te).setPc pc { c with q := q, running := true })) ∧
    (c.inSafe = false → Completes (.edgePlacement pc) s (fun t => (t.dev.pcOf pc).q = q ∧ (t.dev.pcOf pc).wlevel = e.level)) ∧
    (e.level ≠ c.wlevel → pinHeld s.dev pc → Within (.edgePlacement pc) s noPins (fun t =>
      edgeLeft s.dev t pc { c with q := q, running := true } (at_ te) e.level e.lat ∧ max s.dev.now te ≤ t.now))) ∧
  (∀ r rs, c.reqs = r :: rs → (c.mode = 3 → ∀ e ∈ c.q.head?, e.arr = true → r.t ≤ e.moved.getD e.t) →
    ∀ c', c' = { c with reqs := rs, running := c.running && !(r.why == 2 && c.trainOver) } → ∀ base, base = (s.dev.advanceTo r.t).setPc pc c' →
    (r.level = c.wlevel ∨ base.tooShort pc r = true → Does (.edgePlacement pc) s base) ∧
    (base.tooShort pc r = false → Completes (.edgePlacement pc) s (fun t => (t.dev.pcOf pc).reqs = rs ∧ (t.dev.pcOf pc).wlevel = r.level)) ∧
    (r.level ≠ c.wlevel → base.tooShort pc r = false → pinHeld s.dev pc → Within (.edgePlacement pc) s noPins (fun t =>
      edgeLeft s.dev t pc c' (at_ r.t) r.level r.lat ∧ max s.dev.now r.t ≤ t.now))) ∧
  (c.reqs = [] → (c.mode = 3 → ∀ e ∈ c.q.head?, e.arr = false) → Does (.edgePlacement pc) s s.dev) ∧
  (∀ l1 e l2, c.q = l1 ++ e :: l2 → (∀ x ∈ l1, x.arr = true) → e.arr = false → ∀ pol, pol = s.dev.lv (A.PCH_MODE pc) F.PCH_MODE_LATE_POL →
    ∀ lat, lat = s.dev.latOut pc →
    (s.dev.now + 24 * nsTU ≤ e.t → Does (.edgeRequestArrival pc) s (s.dev.setPc pc { c with q := l1 ++ { e with arr := true, lat := lat } :: l2 })) ∧
    (e.t < s.dev.now + 24 * nsTU → pol = 1 → Does (.edgeRequestArrival pc) s (s.dev.setPc pc { c with q := l1 ++ l2 })) ∧
    (e.t < s.dev.now + 24 * nsTU → pol ≠ 1 → Does (.edgeRequestArrival pc) s (s.dev.setPc pc
      { c with q := l1 ++ { e with moved := some (s.dev.now + 24 * nsTU), arr := true, lat := lat } :: l2 }))) ∧
  ((∀ e ∈ c.q, e.arr = true) → Does (.edgeRequestArrival pc) s s.dev)

end Sys2Proof.Machine

section
open Sys2Proof Sys2Proof.Machine

/-- R229, R230, R234-R237: the waveform's next period begins, at its grid point or at the one RESTART names; a period of a pulse train is active from A to B
and one of an edge-aligned PWM from its start for its duty; the train's last edge goes to IDLE; at C the settings of the commit begin a new waveform on
their own grid. -/
def Obligations.WaveformsRun : Prop := ∀ (s : State) (pc : Nat), Awake s → ∀ c, c = s.dev.pcOf pc → ∀ ws, ws = c.words → ∀ lat, lat = s.dev.latOut pc →
  (c.nextPeriod = none ∨ c.inSafe = true ∨ periodic c.mode = false → Does (.periodStart pc) s s.dev) ∧
  (c.restartN = none → c.nextPeriod = if c.running = true ∧ c.stopped = false ∧ c.trainOver = false then some (c.nextN, false) else none) ∧
  (∀ n r, c.nextPeriod = some (n, r) → ∀ g, g = pinGamma ws c.anchor n → c.inSafe = false → periodic c.mode = true →
    (∀ x, c.cPoint = some x ∨ c.safePend = some x → g < (x : Int)) →
    ∀ c', c' = { c with nextN := n + 1, sinceC := c.sinceC + 1, fresh := false, restartN := if r then none else c.restartN
                        running := r || c.running, stopped := !r && c.stopped, trainCnt := if r then 0 else c.trainCnt, raw := c.raw && (!r || c.goes) } →
    Completes (.periodStart pc) s (fun t => (t.dev.pcOf pc).nextN = n + 1 ∧ (t.dev.pcOf pc).sinceC = c.sinceC + 1 ∧ (t.dev.pcOf pc).words = ws) ∧
    (c.mode = 2 → c.safePend = none → c.reqs = [] →
      ∀ a, a = g + (pf ws 0x20 F.PCH_CMPA_NS * nsTU + pf ws 0x28 F.PCH_CMPFR_A_FR : Nat) →
      ∀ b, b = g + (pf ws 0x24 F.PCH_CMPB_NS * nsTU + pf ws 0x28 F.PCH_CMPFR_B_FR : Nat) → a ≤ b →
      ∀ first, first = (c.fresh || r && !c.goes) →
      ∀ last, last = decide (0 < pf ws 0x2C F.PCH_COUNT_COUNT ∧ pf ws 0x2C F.PCH_COUNT_COUNT ≤ c'.trainCnt + 1) →
      Does (.periodStart pc) s ((s.dev.advanceTo g.toNat).setPc pc { c' with
        trainCnt := c'.trainCnt + 1
        reqs := (if first = true ∧ g < a then [⟨g.toNat, false, 0, lat⟩] else []) ++
          [⟨a.toNat, true, 0, lat⟩, ⟨b.toNat, if last then c.idle else false, if last then 2 else 0, lat⟩] })) ∧
    (c.mode = 4 → ¬ leads s.dev pc → c.safePend = none → c.reqs = [] → c.pend = none → c.sched = [] → c.raw = false →
      pf ws 0x30 F.PCH_PWM_CENTRE = 0 → pf ws 0x3C F.PCH_TRIG_EN = 0 → pf ws 0x40 F.PCH_TRIG_EN = 0 →
      ∀ on, on = c.duty * pinPnum ws / (pinPden ws * 2 ^ 24) → ∀ p, p = (pinGamma ws c.anchor (n + 1) - g).toNat → on < p →
      pf ws 0x34 F.PCH_PWMW_MINPW * 4096 ≤ on → on + pf ws 0x34 F.PCH_PWMW_MINPW * 4096 ≤ p → g ≥ 0 →
      Does (.periodStart pc) s ((s.dev.advanceTo g.toNat).setPc pc { c' with
        rfrCnt := 0, reqs := [⟨g.toNat, true, 0, lat⟩, ⟨g.toNat + on, false, 0, lat⟩] }))) ∧
  (c.cPoint = none → Does (.waveformSwitch pc) s s.dev) ∧
  (∀ t nw, c.cPoint = some t → nw = pinWords s.dev.regs.live pc →
    Completes (.waveformSwitch pc) s (fun u => (u.dev.pcOf pc).words = nw ∧ (u.dev.pcOf pc).cPoint = none ∧ t ≤ u.dev.now) ∧
    (periodic (pf nw 0 F.PCH_MODE_MODE) = true → c.inSafe = false → c.mode ≠ 4 →
    ∀ B, B = pinAnchor nw c.nextAnchor → Does (.waveformSwitch pc) s ((s.dev.advanceTo t).setPc pc { c with
      words := nw, anchor := B, nextN := pinIndex nw B t, restartN := none, sinceC := 0, running := true, stopped := false, cPoint := none, fresh := true
      trainCnt := 0, rfrCnt := 0, raw := false, pend := none, trigs := [], q := [], lastPush := none
      sched := c.sched.filter (fun x => decide (t < x.2)), wlevel := if c.oe then c.pin != (pf nw 0 F.PCH_MODE_INV == 1) else c.wlevel
      duty := if pf nw 0 F.PCH_MODE_MODE = 4 then pf nw 0x38 F.PCH_DUTY0_DUTY else c.duty, reqs := c.reqs.filter (fun r => decide (r.t < t)) })))

end

namespace Sys2Proof.Machine

/-- A payload is numbered, kept for replay and sent (R411). -/
def Dev.sentFlit (d : Dev) (b : FlitBody) : Dev :=
  { d with zyn := { d.zyn with txSeq := (d.zyn.txSeq + 1) % 65536, replay := d.zyn.replay ++ [⟨d.zyn.txSeq, b⟩] }, out := .flit ⟨d.zyn.txSeq, b⟩ d.zyn.rxSeq :: d.out }

/-- A payload sent goes out at once: the link is UP and the replay buffer has room. -/
abbrev canSend (d : Dev) : Prop := d.zyn.link = .up ∧ d.zyn.dead = false ∧ d.zyn.replay.length < 1024

/-- What happens on a channel is mirrored: the pair is JOINED and this side drives the channel (R418). -/
abbrev mirrors (d : Dev) (pc : Nat) : Prop := d.joined = true ∧ d.paired pc = true ∧ d.zyn.driving.contains pc = true

/-- An item of a channel, applied at an instant, goes to the twin too where the channel is mirrored (R418). -/
def Dev.via (d : Dev) (pc at_ : Nat) (it : PinItem) : Dev := if mirrors d pc then d.sentFlit (.pin (shortOf at_) it) else d

/-- R233, R418: an edge queue takes a push while it has room and the push keeps the order, one at the last entry's instant in its place, and a mirrored channel tells the twin; it refuses another;
a channel whose pair the other side drives takes none. -/
def EdgeQueueTakesPushes : Prop := ∀ (s : State) (m pc : Nat) (l : Bool), Awake s → Reaches m (A.PCH_EQ2 pc) s → ∀ c, c = s.dev.pcOf pc →
  ∀ t, t = unshort s.dev.now ((s.dev.immW (A.PCH_EQ0 pc)).toNat + (s.dev.immW (A.PCH_EQ1 pc)).toNat * 2 ^ 32) →
  (s.dev.shadowed pc = true ∨ c.mode ≠ 3 ∧ c.mode ≠ 12 → Does (.edgeQueuePush m pc l) s (s.dev.wrote m id)) ∧
  (s.dev.shadowed pc = false → c.mode = 3 ∨ c.mode = 12 →
    (32 ≤ c.q.length ∨ s.dev.isHS pc = true ∨ (∃ p, c.lastPush = some p ∧ t < p) →
      Does (.edgeQueuePush m pc l) s (s.dev.wrote m fun d => d.setIm (A.PCH_STAT pc) F.PCH_STAT_Q_REFUSED 1)) ∧
    (c.q.length < 32 → s.dev.isHS pc = false → (∀ p, c.lastPush = some p → p ≤ t) →
      ∀ keep, keep = (if c.q.getLast?.any (fun e => e.t == t) then c.q.dropLast else c.q) →
      Completes (.edgeQueuePush m pc l) s (fun u => (u.dev.pcOf pc).q = keep ++ [{ t := t, level := l }] ∧ (u.dev.pcOf pc).lastPush = some t) ∧
      ((mirrors s.dev pc → canSend s.dev) → Does (.edgeQueuePush m pc l) s (s.dev.wrote m fun d =>
        (d.setPc pc { c with q := keep ++ [{ t := t, level := l }], lastPush := some t }).via pc s.dev.now (.push pc (shortOf t) l)))))

end Sys2Proof.Machine

section
open Sys2Proof Sys2Proof.Machine

/-- R233, R235, R238, R245, R418: the commands of a channel: its flush, restart and stop, the clear of the count, its duty and its load; a mirrored channel tells the twin, and one whose pair
the other side drives takes none. -/
def Obligations.PinCommands : Prop := ∀ (s : State) (m pc : Nat) (v : Word), Awake s → Reaches m (A.PCH_CTL pc) s → Reaches m (A.PCH_DUTY pc) s →
  ∀ c, c = s.dev.pcOf pc → ∀ t0, t0 = s.dev.now + 24 * nsTU → ∀ lat, lat = s.dev.latOut pc →
  ∀ p0, p0 = (if periodic c.mode then (pinGamma c.words c.anchor (pinIndex c.words c.anchor t0)).toNat else t0) →
  (s.dev.shadowed pc = true → ∀ i ∈ [Instr.qflush m pc, .cntClr m pc, .channelRestart m pc, .channelStop m pc, .pwmLoad m pc, .dutyWrite m pc v], Does i s (s.dev.wrote m id)) ∧
  (s.dev.shadowed pc = false →
    Completes (.qflush m pc) s (fun u => (u.dev.pcOf pc).q = []) ∧
    Completes (.cntClr m pc) s (fun u => (u.dev.pcOf pc).cnt = 0 ∧ (u.dev.pcOf pc).clrAt = some s.dev.now) ∧
    Completes (.channelRestart m pc) s (fun u => (u.dev.pcOf pc).restartN =
      if periodic c.mode = true ∧ c.inSafe = false then some (pinIndex c.words c.anchor t0) else c.restartN) ∧
    Completes (.channelStop m pc) s (fun u => periodic c.mode = true → c.inSafe = false →
      ((u.dev.pcOf pc).stopped = true ∧ (u.dev.pcOf pc).running = false ∧ (u.dev.pcOf pc).restartN = none) ∧
      (leads s.dev pc → (u.dev.pcOf (pc + 1)).stopped = true ∧ (u.dev.pcOf (pc + 1)).running = false)) ∧
    Completes (.pwmLoad m pc) s (fun u => ∀ k ∈ s.dev.loadGroup pc, (s.dev.pcOf k).causes = 0 → (u.dev.pcOf k).pend = some ((s.dev.pcOf k).shadow, t0)) ∧
    Completes (.dutyWrite m pc v) s (fun u => u.dev.im (A.PCH_DUTY pc) F.PCH_DUTY_DUTY = fget v F.PCH_DUTY_DUTY)) ∧
  (s.dev.shadowed pc = false → (mirrors s.dev pc → canSend s.dev) → ∀ via : Dev → Nat → PinItem → Dev, (∀ d t x, via d t x = d.via pc t x) →
    Does (.qflush m pc) s (s.dev.wrote m fun d => via (d.setPc pc { c with q := [] }) s.dev.now (.qflush pc)) ∧
    Does (.cntClr m pc) s (s.dev.wrote m fun d => via (d.setPc pc { c with cnt := 0, clrAt := some s.dev.now }) s.dev.now (.cntClr pc)) ∧
    (periodic c.mode = false ∨ c.inSafe = true →
      Does (.channelRestart m pc) s (s.dev.wrote m fun d => via d p0 (.restart pc)) ∧ Does (.channelStop m pc) s (s.dev.wrote m fun d => via d s.dev.now (.stop pc))) ∧
    (periodic c.mode = true → c.inSafe = false →
      Does (.channelRestart m pc) s (s.dev.wrote m fun d => via (d.setPc pc { c with restartN := some (pinIndex c.words c.anchor t0) }) p0 (.restart pc)) ∧
      (¬ leads s.dev pc → c.wlevel = false → Does (.channelStop m pc) s (s.dev.wrote m fun d => via (d.setPc pc
        { c with stopped := true, running := false, restartN := none, reqs := [⟨t0, c.idle, 0, lat⟩] }) s.dev.now (.stop pc))) ∧
      (∀ r rs, ¬ leads s.dev pc → c.wlevel = true → c.reqs = r :: rs → r.level = false → Does (.channelStop m pc) s (s.dev.wrote m fun d => via (d.setPc pc
        { c with stopped := true, running := false, restartN := none, reqs := [r, ⟨(pinGamma c.words c.anchor c.nextN).toNat, c.idle, 0, lat⟩] }) s.dev.now (.stop pc)))) ∧
    Within (.pwmLoad m pc) s (fun d => { d with pins := [], late := {}, zyn := {}, out := [] }) (fun u =>
      (∀ k, u.pcOf k = if (s.dev.loadGroup pc).contains k && (s.dev.pcOf k).causes == 0 then { s.dev.pcOf k with pend := some ((s.dev.pcOf k).shadow, t0) } else s.dev.pcOf k) ∧
      ∀ e, e = via s.dev p0 (.load pc) → u.zyn = e.zyn ∧ u.out = e.out) ∧
    (∀ x, x = fget v F.PCH_DUTY_DUTY → Does (.dutyWrite m pc v) s (s.dev.wrote m fun d => via ((d.setIm (A.PCH_DUTY pc) F.PCH_DUTY_DUTY x).setPc pc
      (if s.dev.lv (A.PCH_MODE pc) F.PCH_MODE_LOADGRP = 0 then { c with sched := c.sched ++ [(x, t0)] } else { c with shadow := x })) p0 (.duty pc x))))

end

namespace Sys2Proof.Machine

/-- R241: at a trigger instant every free TRIGOUT channel of the tile and room that selects the trigger is asked for its pulse, which takes the place of the
edges asked of it from that instant on, and no other channel is. -/
def TriggersPulse : Prop := ∀ (s : State) (pc i : Nat), Awake s → ∀ c, c = s.dev.pcOf pc → c.mode ≠ 9 →
  (c.trigs.find? (fun x => x.1 == i) = none → Does (.triggerInstant pc i) s s.dev) ∧
  ∀ x, c.trigs.find? (fun x => x.1 == i) = some x → Within (.triggerInstant pc i) s (fun d => { noClock d with pins := [] }) (fun u =>
    x.2 ≤ u.now ∧ u.pcOf pc = { c with trigs := c.trigs.erase x } ∧ ∀ k o, k ≠ pc → o = s.dev.pcOf k →
      ∀ hit, hit = (k / 64 = pc / 64 ∧ o.mode = 9 ∧ pf o.words 0x44 F.PCH_TOUT_LEADER = pc % 64 ∧ bitOf (pf o.words 0x44 F.PCH_TOUT_SEL) i = true ∧
        pcHolder s.dev.live k = pcHolder s.dev.live pc ∧ o.inSafe = false) →
      (¬ hit → u.pcOf k = o) ∧
      (hit → o.safePend = none →
        u.pcOf k = { o with reqs := o.reqs.filter (fun r => decide (r.t < x.2)) ++
          [⟨x.2, true, 0, s.dev.latOut k⟩, ⟨x.2 + pf o.words 0x44 F.PCH_TOUT_WIDTH * nsTU, false, 0, s.dev.latOut k⟩] }))

end Sys2Proof.Machine

section
open Sys2Proof Sys2Proof.Machine

/-- Edge queues take pushes, edges are placed, and a trigger asks for its pulses. -/
def Obligations.PinsPlaceEdges : Prop := EdgesPlaced ∧ EdgeQueueTakesPushes ∧ TriggersPulse

end

namespace Sys2Proof.Machine

/-- No chatter of a pin of the tile is proved between now and `t`: what stands has not held for the minimum spacing (R226, R274). -/
abbrev noChatter (d : Dev) (pc t : Nat) : Prop := ∀ k, k / 64 = pc / 64 → ∀ x, (d.pcOf k).chat = some x → t < x + pinSpacing k

/-- R223, R226, R243, R274, R484: a change of level at a pin is stamped LAT_IN before; one closer to the change before it than the minimum spacing is removed with it, and
what that one interrupted holds on; a change the mode delivers waits for FILT; more than CHAT_N of them within CHAT_W make chatter. -/
def InputsStamped : Prop := ∀ (s : State) (pc t : Nat) (l : Bool), Awake s → ∀ c, c = s.dev.pcOf pc → ∀ d : Dev, d = s.dev.advanceTo t →
  ∀ off, off = (match pinBank pc with | some b => s.dev.pwr.banksOff.contains b | none => false) →
  ∀ stamp, stamp = ((t : Int) - sgn 32 (s.dev.lv (A.PCH_LATI pc) F.PCH_LATI_LAT)).toNat →
  (l = c.inLevel → Does (.pinInputTransition pc l t) s s.dev) ∧
  Completes (.pinInputTransition pc l t) s (fun u => (u.dev.pcOf pc).inLevel = l) ∧
  (l ≠ c.inLevel → off = true → Does (.pinInputTransition pc l t) s (s.dev.setPc pc { c with inLevel := l })) ∧
  (l ≠ c.inLevel → off = false → (∀ h, c.held = some h → stamp < s.dev.qualDue pc h) → noChatter s.dev pc stamp →
    (∀ x r, c.trs = x :: r → stamp < x.1 + pinSpacing pc → Does (.pinInputTransition pc l t) s
      (d.setPc pc { c with inLevel := l, trs := r, held := c.ended, ended := none, chat := if c.chat = some x.1 then none else c.chat })) ∧
    ((∀ x ∈ c.trs.head?, x.1 + pinSpacing pc ≤ stamp) → ∀ deliv, deliv = deliveredMode (s.dev.pcMode pc) →
      ∀ win, win = s.dev.lv (A.PCH_LIM pc) F.PCH_LIM_CHAT_W * usTU → ∀ trs, trs = trimTrs (max (200 * usTU) win) ((stamp, l) :: c.trs) →
      ∀ n, n = s.dev.lv (A.PCH_LIM pc) F.PCH_LIM_CHAT_N →
      Does (.pinInputTransition pc l t) s (d.setPc pc { c with
        inLevel := l, trs := trs, ended := if deliv then c.held else none, held := if deliv then some ⟨stamp, l, 0, false⟩ else none
        chat := if s.dev.pcMode pc = 11 ∧ n ≠ 0 ∧ c.chatter = false ∧ c.chat = none ∧ n < (trs.filter (fun y => decide (stamp < y.1 + win))).length
          then some stamp else c.chat })))

/-- R243, R244, R245, R273, R276, R289: a change that held for FILT, and that EDGE selects, is captured, or counted while its gate was open at its stamp, or as a limit ahead
ends a move with no step at or after t_q + Λ, or goes to the queue of an angle unit's line; a read of the capture FIFO gives its head. -/
def InputsQualify : Prop := ∀ (s : State) (pc : Nat), Awake s → ∀ c, c = s.dev.pcOf pc →
  (∀ i h, i = .inputQualified pc ∨ i = .limitQualified pc ∨ (∃ a, i = .homeFound a ∧ homePin s.dev.live a = some pc) → c.held = some h →
    Completes i s (fun t => (t.dev.pcOf pc).held = none ∧ s.dev.qualDue pc h ≤ t.dev.now) ∧
    (noChatter s.dev pc (s.dev.qualDue pc h) →
    ∀ d : Dev, d = (s.dev.advanceTo (s.dev.qualDue pc h)).setPc pc { c with held := none, ended := none } →
    ∀ sel, sel = bitOf (s.dev.lv (A.PCH_IN pc) F.PCH_IN_EDGE) (if h.level then 0 else 1) → ∀ mode, mode = s.dev.pcMode pc →
    (sel = false ∧ mode ≠ 8 ∨ deliveredMode mode = false → Does i s d) ∧
    (mode = 8 → (s.dev.quadLines pc = [] → Does i s d) ∧
      (∀ u j y l, s.dev.quadLines pc = [(u, j)] → y = Tab.get s.dev.au {} u → l = Tab.get y.inq [] j →
        (l.length < 64 → Does i s { d with au := Tab.set d.au u { y with inq := Tab.set y.inq j (l ++ [h]) } }) ∧
        (64 ≤ l.length → Does i s { d with au := Tab.set d.au u { y with ovr := some (y.ovr.getD h.stamp) } }))) ∧
    (sel = true → mode = 6 →
      (c.fifo.length < 16 → Does i s (d.setPc pc { d.pcOf pc with fifo := c.fifo ++ [h] })) ∧
      (16 ≤ c.fifo.length → Does i s (d.setIm (A.PCH_STAT pc) F.PCH_STAT_CAP_LOST 1))) ∧
    (sel = true → mode = 7 → ∀ open_, open_ = (s.dev.lvb (A.PCH_IN pc) F.PCH_IN_GATE_EN = false ∨
        (s.dev.pcOf (64 * (pc / 64) + s.dev.lv (A.PCH_IN pc) F.PCH_IN_GATE)).levelAt h.here = true) →
      (¬ open_ ∨ (∃ x, c.clrAt = some x ∧ h.here ≤ x) → Does i s d) ∧
      (open_ → (∀ x, c.clrAt = some x → x < h.here) → Does i s (d.setPc pc { d.pcOf pc with cnt := (c.cnt + 1) % 2 ^ 48 }))) ∧
    (sel = true → mode = 11 →
      (h.level ≠ s.dev.lvb (A.PCH_LIM pc) F.PCH_LIM_ACT ∨ tileAxes s.dev.live (pc / 64) = [] → Does i s d) ∧
      (h.level = s.dev.lvb (A.PCH_LIM pc) F.PCH_LIM_ACT → ∀ a x, tileAxes s.dev.live (pc / 64) = [a] → x = s.dev.axOf a → x.moving = true →
        (if x.neg then lnegPin s.dev.live a else lposPin s.dev.live a) = some pc →
        h.stamp + s.dev.lv (A.PCH_IN pc) F.PCH_IN_FILT * nsTU + 20 * nsTU ≤ x.tNext →
        Does i s (d.setAx a { x with st := .idle, result := if x.st = .homeSeek then 4 else 3 }))))) ∧
  (c.held = none → Does (.inputQualified pc) s s.dev ∧ Does (.limitQualified pc) s s.dev) ∧
  (∀ a, homePin s.dev.live a = none → Does (.homeFound a) s s.dev) ∧
  (∀ m, c.fifo = [] → Does (.capturePop m pc) s ((s.dev.setLatch (A.PCH_CAP0 pc) m [0, 0, 0]).emit (.readData m [0]))) ∧
  (∀ m h l own w, c.fifo = h :: l → own = s.dev.ownsReg m (A.PCH_CAP0 pc) → w = 1 + b2n h.level * 2 + (if own then l.length else l.length + 1) * 256 →
    ∀ d : Dev, d = s.dev.setLatch (A.PCH_CAP0 pc) m [w, h.stamp % 2 ^ 64 % 2 ^ 32, h.stamp % 2 ^ 64 / 2 ^ 32] →
    Does (.capturePop m pc) s ((if own then d.setPc pc { c with fifo := l } else d).emit (.readData m [w])))

end Sys2Proof.Machine

section
open Sys2Proof Sys2Proof.Machine

/-- Inputs are stamped and qualified. -/
def Obligations.InputsAreTimed : Prop := InputsStamped ∧ InputsQualify

/-- R247, R248, R249, R255: the tile timers: arming, the three starts, the match of CMP and the wrap at the tick at which they come, the stop that freezes the value. -/
def Obligations.TimersRun : Prop := ∀ (s : State) (m T i : Nat) (v : Word), Awake s → ∀ x, x = s.dev.tmr T i → ∀ c, c = tmrCfg s.dev.live T i →
  (Reaches m (A.TMR_ARM1 T i) s → ∀ t, t = unshort s.dev.now ((s.dev.immW (A.TMR_ARM0 T i)).toNat + v.toNat * 2 ^ 32) →
    (s.dev.tmrOn T i 2 = true → s.dev.now ≤ t → Does (.timerArm m T i v) s (s.dev.wrote m fun d => d.setTmr T i { x with armed := some t })) ∧
    (s.dev.tmrOn T i 2 = true → t < s.dev.now → Within (.timerArm m T i v) s (fun d => { d.lessImm (A.TMR_CTL T i) with timers := [], late := {} })
      (fun u => (u.tmr T i).started = true ∧ (u.tmr T i).s = t ∧ u.im (A.TMR_CTL T i) F.TMR_CTL_LATE = 1 ∧
        ∀ k, k ≠ 8 * T + i → Tab.get u.timers {} k = Tab.get s.dev.timers {} k)) ∧
    (s.dev.tmrOn T i 2 = false → Does (.timerArm m T i v) s (s.dev.wrote m id))) ∧
  (takeCopy (fun x => x == .timer T i) s.dev.fabric = none → Does (.timerGlobalStart T i) s s.dev) ∧
  (∀ e rest, takeCopy (fun x => x == .timer T i) s.dev.fabric = some (e, rest) →
    (s.dev.tmrOn T i 1 = true → x.started = false → x.armed = none → s.dev.now ≤ e.p.stamp + s.dev.lv (A.TMR_SOFS T i) F.TMR_SOFS_SOFS * nsTU →
      Does (.timerGlobalStart T i) s (s.dev.setTmr T i { x with armed := some (e.p.stamp + s.dev.lv (A.TMR_SOFS T i) F.TMR_SOFS_SOFS * nsTU) })) ∧
    (s.dev.tmrOn T i 1 = false ∨ x.started = true ∨ x.armed ≠ none → Does (.timerGlobalStart T i) s s.dev)) ∧
  (∀ t, x.armed = some t → Does (.timerStart T i) s ((s.dev.advanceTo t).setTmr T i { started := true, s := t })) ∧
  (x.armed = none → Does (.timerStart T i) s s.dev) ∧
  (x.started = false → Does (.timerMatch T i) s s.dev ∧ Does (.timerWrap T i) s s.dev) ∧
  (x.started = true → c.dir ≤ 2 → ∀ k,
    (x.matchTick < k → (c.value k).1 = c.cmp → (∀ j, x.matchTick < j → j < k → (c.value j).1 ≠ c.cmp) →
      Does (.timerMatch T i) s ((s.dev.advanceTo (x.s + k * c.tick)).setTmr T i { x with matchTick := k })) ∧
    (∀ w, w = (if c.dir = 1 then c.top else 0) → x.wrapTick < k → (c.value k).1 = w → (∀ j, x.wrapTick < j → j < k → (c.value j).1 ≠ w) →
      Does (.timerWrap T i) s ((s.dev.advanceTo (x.s + k * c.tick)).setTmr T i { x with wrapTick := k }))) ∧
  (Reaches m (A.TMR_CTL T i) s → Does (.timerStop m T i) s (s.dev.wrote m fun d => d.setTmr T i { frozen := some (x.read c s.dev.now).1 }))

end

namespace Sys2Proof.Machine

/-- Cause bits set on channels at t_c, where no group and no axis takes part: a channel of a bank with supply that held none of the causes 0 to 7 is on its way into safe
state at t_c + Λ, with nothing placed from then on and its queue, frozen duty and restart gone (R46, R257, R258, R259). -/
def causesSet (d u : Dev) (pcs : List Nat) (bits tc : Nat) : Prop := ∀ k c, c = d.pcOf k →
  ∀ c', c' = { c with cause := c.cause ||| bits, causeAt := if c.cause = 0 then tc else c.causeAt } →
  u.pcOf k = if pcs.contains k then
    if c.causes = 0 ∧ d.bankLost k = false then { c' with
      safePend := some (tc + 20 * nsTU), resume := none, restartN := none, reqs := c.reqs.filter (fun r => decide (r.t < tc + 20 * nsTU)), pend := none, q := [] }
    else c'
  else c

/-- Cause bits cleared: a channel whose last cause of 0 to 7 goes resumes 24 ns later, when its bank has its supply (R46, R260). -/
def causesCleared (d u : Dev) (pcs : List Nat) (bits : Nat) : Prop := ∀ k c, c = d.pcOf k → ∀ rest, rest = c.cause &&& (511 ^^^ bits) →
  u.pcOf k = if pcs.contains k && c.cause &&& bits != 0 then
    { c with cause := rest, causeAt := d.now, resume := if c.causes ≠ 0 ∧ rest % 256 = 0 ∧ d.bankLost k = false then some (d.now + 24 * nsTU) else c.resume }
  else c

end Sys2Proof.Machine

section
open Sys2Proof Sys2Proof.Machine

/-- R262, R263, R264, R265: a trip input asserts once its level has held for FILT, waits for the end of a blanking window, and sets its cause on the channels of its mask; of the
assertions held in a window the last one stands at its end if the input still asserts, and the others are counted; a clear is refused while the input is asserted. -/
def Obligations.TripsAct : Prop := ∀ (s : State) (i t m : Nat) (l : Bool), Awake s → ∀ x, x = s.dev.tripOf i → ∀ filt, filt = s.dev.lv (A.TRIP_CFG i) F.TRIP_CFG_FILT * nsTU →
  Completes (.tripInputTransition i l t) s (fun u => (u.dev.tripOf i).level = l ∧ t ≤ u.dev.now) ∧
  ((∀ p, x.held = some p → t < p + filt) → ∀ d : Dev, d = s.dev.advanceTo t →
    (l = x.level → Does (.tripInputTransition i l t) s d) ∧
    (l ≠ x.level → s.dev.pwr.banksOff.contains i = true → Does (.tripInputTransition i l t) s (d.setTrip i { x with level := l })) ∧
    (l ≠ x.level → s.dev.pwr.banksOff.contains i = false → s.dev.lvb (A.TRIP_CFG i) F.TRIP_CFG_EN = true → l = s.dev.lvb (A.TRIP_CFG i) F.TRIP_CFG_POL →
      Does (.tripInputTransition i l t) s (d.setTrip i { x with level := l, held := some t })) ∧
    (l ≠ x.level → s.dev.pwr.banksOff.contains i = false → s.dev.lvb (A.TRIP_CFG i) F.TRIP_CFG_EN = false ∨ l ≠ s.dev.lvb (A.TRIP_CFG i) F.TRIP_CFG_POL →
      Does (.tripInputTransition i l t) s (d.setTrip i { x with level := l, held := none, asserted := false }))) ∧
  (x.held = none → Does (.trip i) s s.dev) ∧
  (∀ p, x.held = some p → ∀ d : Dev, d = s.dev.advanceTo (p + filt) → ∀ x' : Trip, x' = { x with held := none, asserted := true } →
    ∀ inside, inside = (∃ y ∈ x.blank, y.1 ≤ p + filt ∧ p + filt < y.2) →
    (inside → Does (.trip i) s (d.setTrip i { x' with blankHeld := x.blankHeld ++ [p + filt] })) ∧
    (¬ inside →
      (x.tripped = true → Does (.trip i) s ((d.setTrip i x').incIm (A.TRIP_CNT i) F.TRIP_CNT_TRIPS 1)) ∧
      (x.tripped = false → Completes (.trip i) s (fun u => (u.dev.tripOf i).tripped = true ∧ (u.dev.tripOf i).asserted = true ∧
        ∀ k ∈ tripPcs s.dev.live i, bitOf (u.dev.pcOf k).cause (i % 4) = true)) ∧
      (x.tripped = false → tileGrps s.dev.live (i / 4) = [] → tileAxes s.dev.live (i / 4) = [] → Within (.trip i) s
        (fun d => { noClock (d.lessImm (A.TRIP_CNT i)) with pins := [], trips := [] })
        (fun u => u.tripOf i = { x' with tripped := true } ∧ causesSet s.dev u (tripPcs s.dev.live i) (2 ^ (i % 4)) (p + filt) ∧
          u.im (A.TRIP_CNT i) F.TRIP_CNT_TRIPS = min (s.dev.im (A.TRIP_CNT i) F.TRIP_CNT_TRIPS + 1) 65535 ∧ p + filt ≤ u.now)))) ∧
  (x.blank = [] → Does (.blankWindowEnd i) s s.dev) ∧
  (∀ b w rest, x.blank = (b, w) :: rest → ∀ d : Dev, d = (s.dev.advanceTo w).setTrip i { x with blank := rest, blankHeld := [] } →
    (x.blankHeld = [] → Does (.blankWindowEnd i) s d) ∧
    (x.asserted = false → Within (.blankWindowEnd i) s (fun d => { noClock (d.lessImm (A.TRIP_CNT i)) with trips := [] }) (fun u => u.trips = d.trips ∧ w ≤ u.now ∧
      u.im (A.TRIP_CNT i) F.TRIP_CNT_BLANKED = min (s.dev.im (A.TRIP_CNT i) F.TRIP_CNT_BLANKED + x.blankHeld.length) 65535 ∧
      u.im (A.TRIP_CNT i) F.TRIP_CNT_TRIPS = s.dev.im (A.TRIP_CNT i) F.TRIP_CNT_TRIPS)) ∧
    (x.blankHeld ≠ [] → x.asserted = true → x.tripped = false → tileGrps s.dev.live (i / 4) = [] → tileAxes s.dev.live (i / 4) = [] →
      Within (.blankWindowEnd i) s (fun d => { noClock (d.lessImm (A.TRIP_CNT i)) with pins := [], trips := [] })
        (fun u => (u.tripOf i).tripped = true ∧ causesSet s.dev u (tripPcs s.dev.live i) (2 ^ (i % 4)) w ∧
          u.im (A.TRIP_CNT i) F.TRIP_CNT_BLANKED = min (s.dev.im (A.TRIP_CNT i) F.TRIP_CNT_BLANKED + (x.blankHeld.length - 1)) 65535))) ∧
  (Reaches m (A.TRIP_CTL i) s →
    (x.asserted = true → Does (.tripClear m i) s (s.dev.wrote m fun d => d.setIm (A.TRIP_CTL i) F.TRIP_CTL_CLR_REFUSED 1)) ∧
    (x.asserted = false → Within (.tripClear m i) s (fun d => { d with pins := [], trips := [], late := {} })
      (fun u => u.tripOf i = { x with tripped := false } ∧ causesCleared s.dev u (tilePcs (i / 4)) (2 ^ (i % 4)))))

/-- R258, R259, R260, R266: at t_c + Λ the pin takes the level that SAFE gives; 24 ns after the last cause went the channel takes the live settings and resumes its mode, a periodic one at
IDLE until its first grid point; the stamped loss of the engine of a pin tile sets cause 6, and its debug halt cause 7, on the driven channels that ask for it. -/
def Obligations.SafeStateEntersAndLeaves : Prop := ∀ (s : State) (pc : Nat), Awake s → ∀ c, c = s.dev.pcOf pc →
  (c.safePend = none → noChatter s.dev pc (s.dev.now + 20 * nsTU) → Does (.safeLevelApply pc) s s.dev) ∧
  (∀ t, c.safePend = some t → Completes (.safeLevelApply pc) s (fun u => (u.dev.pcOf pc).inSafe = true ∧ (u.dev.pcOf pc).safePend = none)) ∧
  (∀ t, c.safePend = some t → noChatter s.dev pc t → c.mode ≠ 10 ∨ c.wlevel = false →
    ∀ c', c' = { c with safePend := none, inSafe := true, running := false, reqs := [], sched := [], trigs := [], wlevel := c.wlevel && c.mode != 12 } →
    c.inSafe = false → s.dev.wantPin pc ≠ none → c.oe = true → ∀ safe, safe = s.dev.lv (A.PCH_SAFE pc) F.PCH_SAFE_SAFE →
    (safe = 2 → Does (.safeLevelApply pc) s (((s.dev.advanceTo t).setPc pc { c' with oe := false }).emit (.driver pc t false))) ∧
    (safe ≠ 2 → ∀ l, l = (if safe = 0 then c.inv else if safe = 1 then !c.inv else c.pin) →
      (l = c.pin → Does (.safeLevelApply pc) s ((s.dev.advanceTo t).setPc pc c')) ∧
      (l ≠ c.pin → ∀ e, e = (match c.lastEdge with | some e => max t (e + pinSpacing pc) | none => t) →
        Within (.safeLevelApply pc) s noPins (fun u => u.pcOf pc = { c' with pin := l, lastEdge := some e } ∧
        (∀ k, k ≠ pc → u.pcOf k = s.dev.pcOf k) ∧ u.out = .edge pc ((e : Int) - s.dev.latOut pc).toNat l :: s.dev.out)))) ∧
  (c.resume = none → Does (.channelResume pc) s s.dev) ∧
  (∀ t ws, c.resume = some t → ws = pinWords s.dev.regs.live pc → ∀ mode, mode = pf ws 0 F.PCH_MODE_MODE →
    Within (.channelResume pc) s noPins (fun u => (∀ k, k ≠ pc → ¬ (mode = 4 ∧ k = pc + 1) → u.pcOf k = s.dev.pcOf k) ∧
      (u.pcOf pc).inSafe = false ∧ (u.pcOf pc).resume = none ∧ (u.pcOf pc).safePend = none ∧ (u.pcOf pc).words = ws ∧ (u.pcOf pc).cause = c.cause ∧ t ≤ u.now ∧
      ((s.dev.setPc pc { c with inSafe := false }).wantPin pc ≠ none → (u.pcOf pc).oe = true ∧ (mode ≠ 5 → (u.pcOf pc).pin = ((u.pcOf pc).wlevel != (u.pcOf pc).inv))) ∧
      (mode = 1 → (u.pcOf pc).wlevel = (pf ws 0 F.PCH_MODE_LEVEL == 1)) ∧ (mode = 3 → (u.pcOf pc).wlevel = (pf ws 0 F.PCH_MODE_IDLE == 1)) ∧
      (mode = 12 → (u.pcOf pc).wlevel = false) ∧
      (periodic mode = true → (u.pcOf pc).wlevel = (pf ws 0 F.PCH_MODE_IDLE == 1) ∧ (u.pcOf pc).running = false ∧
        (u.pcOf pc).restartN = some (pinIndex ws c.anchor t)))) ∧
  (∀ T lost, lost = (s.dev.tileOffline T || (s.dev.engOf T).resetting) → ∀ told : Dev → Prop,
    told = (fun u => ∀ k, u.engOf k = if k = T then { s.dev.engOf k with unstamped := none } else s.dev.engOf k) →
    Completes (.engineLossStamp T) s (fun u => told u.dev) ∧
    (T < 256 ∨ lost = false ∧ (s.dev.engOf T).st ≠ .halted → Within (.engineLossStamp T) s (fun d => { d with eng := [] }) told) ∧
    (256 ≤ T → tileGrps s.dev.live (T - 256) = [] → tileAxes s.dev.live (T - 256) = [] →
      (lost = true → Within (.engineLossStamp T) s (fun d => { d with pins := [], eng := [] })
        (fun u => told u ∧ causesSet s.dev u (s.dev.safeChosen (T - 256) F.PCH_SAFE_ENG_SAFE) 64 s.dev.now)) ∧
      (lost = false → (s.dev.engOf T).st = .halted → Within (.engineLossStamp T) s (fun d => { d with pins := [], eng := [] })
        (fun u => told u ∧ causesSet s.dev u (s.dev.safeChosen (T - 256) F.PCH_SAFE_HALT_SAFE) 128 s.dev.now))))

end

namespace Sys2Proof.Machine

/-- What AX_CMD keeps of a write: NR and AT (R271). -/
def axKept (a : Nat) (v : Word) (d : Dev) : Dev :=
  (d.setIm (A.AX_CMD a) F.AX_CMD_NR (fget v F.AX_CMD_NR)).setIm (A.AX_CMD a) F.AX_CMD_AT (fget v F.AX_CMD_AT)

/-- An axis that takes commands, and can tell the twin where its channel is mirrored (R418). -/
def axFree (d : Dev) (a : Nat) : Prop := d.axShadowed a = false ∧ ∀ pc, d.axChan a = some pc → mirrors d pc → canSend d

/-- The command `w` of an axis, applied at an instant, with the move values of its registers, goes to the twin where the axis' channel is mirrored (R418). -/
def Dev.axVia (d : Dev) (a at_ : Nat) (w : Word) : Dev :=
  match d.axChan a with
  | none => d
  | some pc => d.via pc at_ (.axis a (d.immW (A.AX_STEPS a)).toNat (d.immW (A.AX_PCRU a)).toNat (d.immW (A.AX_PSTA a)).toNat
      (shortOf (unshort d.now ((d.immW (A.AX_T a 0)).toNat + (d.immW (A.AX_T a 1)).toNat * 2 ^ 32))) w)

/-- The word of AX_CMD with a command bit: the host's NR and AT and that bit (R271). -/
def axWord (v b : Word) : Word := v &&& 0x1FFFF#32 ||| b

/-- The limit and home pins of an axis. -/
def limPins (w : View) (a : Nat) : List Nat := [lposPin w a, lnegPin w a, homePin w a].filterMap id

/-- R257, R269-R276: GO and HOME_GO refuse what the axis cannot do, with the reason in RESULT, or plan the first step 24 ns ahead, later by DSETUP after a change of direction and not
before the instant asked for; LATE says that the first step comes after what was asked; STOP lets the profile decelerate and ABORT ends it; CLR ends a hard stop and clears the causes that
this axis alone has set; a mirrored axis tells the twin, and one with a channel the other side drives takes no command. -/
def AxisCommands : Prop := ∀ (s : State) (m a : Nat) (v : Word), Awake s → Reaches m (A.AX_CMD a) s →
  ∀ all, all = [Instr.axisGo m a v, .homeGo m a v, .axisStop m a v, .axisAbort m a v, .axisClr m a v] →
  (s.dev.axShadowed a = true → ∀ i ∈ all, Does i s (s.dev.wrote m id)) ∧
  (s.dev.axShadowed a = false → ∀ i ∈ all, Completes i s (fun u => u.dev.im (A.AX_CMD a) F.AX_CMD_NR = fget v F.AX_CMD_NR ∧ u.dev.im (A.AX_CMD a) F.AX_CMD_AT = fget v F.AX_CMD_AT)) ∧
  (axFree s.dev a → noChatter s.dev (64 * (a / 8)) s.dev.now →
  ∀ x, x = s.dev.axOf a → ∀ w, w = s.dev.live →
  ∀ does : Instr → Word → Nat → (Dev → Dev) → Prop, (∀ i b r f, does i b r f = Does i s (s.dev.wrote m fun d => (f (axKept a v d)).axVia a r (axWord v b))) →
  ∀ now, now = s.dev.now → ∀ GO HOME STOP ABORT CLR : Word, GO = 0x1000000 → HOME = 0x2000000 → STOP = 0x4000000 → ABORT = 0x8000000 → CLR = 0x10000000 →
  ∀ steps, steps = sgn 32 (s.dev.immW (A.AX_STEPS a)).toNat → ∀ pcru psta, pcru = (s.dev.immW (A.AX_PCRU a)).toNat → psta = (s.dev.immW (A.AX_PSTA a)).toNat →
  ∀ ask, ask = unshort s.dev.now ((s.dev.immW (A.AX_T a 0)).toNat + (s.dev.immW (A.AX_T a 1)).toNat * 2 ^ 32) → ∀ T, T = (if fget v F.AX_CMD_AT = 1 then ask else s.dev.now) →
  ∀ e, e = s.dev.now + 24 * nsTU →
  ∀ turn : Bool → Bool, (∀ l, turn l = decide ((match x.dirAt.getLast? with | some y => y.2 | none => x.dirLevel) ≠ l ∧ (dirPin w a).isSome)) →
  ∀ t0 : Bool → Nat, (∀ l, t0 l = max (if turn l then e + s.dev.lv (A.AX_TIME a) F.AX_TIME_DSETUP * nsTU else e) T) →
  ∀ plan : Bool → Axis, (∀ l, plan l = { x with
    dirAt := if turn l then x.dirAt ++ [(e, l)] else x.dirAt, dirLevel := if (dirPin w a).isSome then x.dirLevel else l, neg := !l }) →
  ∀ late : Bool → Dev → Dev, (∀ l d, late l d = if T < t0 l then d.setIm (A.AX_STAT a) F.AX_STAT_LATE 1 else d) →
  (x.st ≠ .idle → does (.axisGo m a v) GO now (·.setAx a { x with result := 0xA }) ∧ does (.homeGo m a v) HOME now (·.setAx a { x with result := 0xA })) ∧
  (x.st = .idle →
    ∀ ok, ok = (w.b (A.AX_OPT a) F.AX_OPT_EN = true ∧ (∃ pc, stepPin w a = some pc ∧ s.dev.lv (A.AX_TIME a) F.AX_TIME_SWIDTH + pinSpacing pc / nsTU ≤ pcru) ∧
      pcru ≤ psta ∧ steps ≠ 0) → ∀ fwd, fwd = decide (0 ≤ steps) →
    (¬ ok → does (.axisGo m a v) GO now (·.setAx a { x with result := 0xE })) ∧
    (ok → s.dev.aheadActive a (!fwd) = true → does (.axisGo m a v) GO now (·.setAx a { x with result := 0xB })) ∧
    (ok → s.dev.aheadActive a (!fwd) = false → s.dev.axSafe a = true → does (.axisGo m a v) GO now (·.setAx a { x with result := 0xD })) ∧
    (ok → s.dev.aheadActive a (!fwd) = false → s.dev.axSafe a = false → does (.axisGo m a v) GO (t0 fwd) (fun d => late fwd (d.setAx a { plan fwd with
      st := .move, n := steps.natAbs, j := 0, tNext := t0 fwd, nr := fget v F.AX_CMD_NR, pcru := pcru, psta := psta }))) ∧
    ∀ pos, pos = !(w.b (A.AX_OPT a) F.AX_OPT_HOME_DIR) → ∀ able, able = (w.b (A.AX_OPT a) F.AX_OPT_EN = true ∧ stepPin w a ≠ none) →
    (¬ able → does (.homeGo m a v) HOME now (·.setAx a { x with result := 0xE })) ∧
    (able → s.dev.limActive (homePin w a) = true → does (.homeGo m a v) HOME now (·.setAx a { x with result := 0xC })) ∧
    (able → s.dev.limActive (homePin w a) = false → s.dev.aheadActive a (!pos) = true → does (.homeGo m a v) HOME now (·.setAx a { x with result := 0xB })) ∧
    (able → s.dev.limActive (homePin w a) = false → s.dev.aheadActive a (!pos) = false →
      (s.dev.axSafe a = true → does (.homeGo m a v) HOME now (·.setAx a { x with result := 0xD })) ∧
      (s.dev.axSafe a = false → ∀ n, n = w.f (A.AX_HMAX a) F.AX_HMAX_HMAX → does (.homeGo m a v) HOME (t0 pos) (fun d => late pos (d.setAx a { plan pos with
        st := if n = 0 then .idle else .homeSeek, result := if n = 0 then 6 else x.result, homed := false, n := n, j := 0, tNext := t0 pos }))))) ∧
  (x.moving = false → does (.axisAbort m a v) ABORT now id ∧ does (.axisStop m a v) STOP now id) ∧
  (x.moving = true → Completes (.axisAbort m a v) s (fun t => (t.dev.axOf a).st = .idle ∧ (t.dev.axOf a).result = 7)) ∧
  (x.moving = true → e < x.tNext ∨ x.n ≤ x.j →
    does (.axisAbort m a v) ABORT now (·.setAx a { x with st := .idle, result := 7 }) ∧
    (x.st = .homeSeek → does (.axisStop m a v) STOP now (·.setAx a { x with st := .idle, result := 7 })) ∧
    (x.st = .move → does (.axisStop m a v) STOP now (·.setAx a { x with n := min x.n (x.j + 1 + min x.j x.nr) }))) ∧
  (s.dev.limActive (lposPin w a) = true ∨ s.dev.limActive (lnegPin w a) = true ∨
      (∃ pc ∈ limPins w a, ∃ y ∈ (s.dev.pcOf pc).trs.head?, (s.dev.pcOf pc).chatter = true ∧ s.dev.now < y.1 + s.dev.lv (A.PCH_LIM pc) F.PCH_LIM_CHAT_W * usTU) →
    does (.axisClr m a v) CLR now (·.setIm (A.AX_STAT a) F.AX_STAT_CLR_REFUSED 1)) ∧
  (s.dev.limActive (lposPin w a) = false → s.dev.limActive (lnegPin w a) = false → (∀ pc ∈ limPins w a, (s.dev.pcOf pc).chatter = false) →
    Within (.axisClr m a v) s (fun d => { d.lessImm (A.AX_CMD a) with pins := [], axes := [], late := {}, zyn := {}, out := [] })
      (fun u => u.axOf a = { x with st := if x.st = .hardStop then .idle else x.st, stopped := [] } ∧ (∀ b, b ≠ a → u.axOf b = s.dev.axOf b) ∧
        ∀ others, others = (s.dev.axes.filter (fun y => y.1 != a)).flatMap (·.2.stopped) →
          causesCleared s.dev u (x.stopped.filter (fun pc => !(others.contains pc))) 48 ∧
        ∀ told, told = s.dev.axVia a now (axWord v CLR) → u.zyn = told.zyn ∧ u.out = told.out)))

/-- R269, R270, R271, R275, R276: the direction pin takes its level at its instant; a step pulse counts the position and the step, and the next follows after the gap of the profile, or of
the homing speed; the last step ends the move. -/
def AxesMove : Prop := ∀ (s : State) (a : Nat), Awake s → ∀ x, x = s.dev.axOf a → ∀ w, w = s.dev.live →
  (x.dirAt = [] → Does (.dirEdge a) s s.dev) ∧
  (∀ t l rest, x.dirAt = (t, l) :: rest → ∀ d : Dev, d = (s.dev.advanceTo t).setAx a { x with dirAt := rest, dirLevel := l } →
    Completes (.dirEdge a) s (fun u => u.dev.axOf a = { x with dirAt := rest, dirLevel := l } ∧
      ∀ pc, dirPin w a = some pc → (s.dev.pcOf pc).inSafe = false → (u.dev.pcOf pc).wlevel = l) ∧
    (dirPin w a = none → Does (.dirEdge a) s d) ∧
    (∀ pc c, dirPin w a = some pc → c = s.dev.pcOf pc →
      (c.inSafe = true ∨ l = c.wlevel → Does (.dirEdge a) s d) ∧
      (l ≠ c.wlevel → pinHeld s.dev pc → Within (.dirEdge a) s (fun d => { noPins d with axes := [] }) (fun u => u.axes = d.axes ∧
        edgeLeft s.dev u pc c (match c.lastEdge with | some e => max t (e + pinSpacing pc) | none => t) l (s.dev.latOut pc))))) ∧
  (noChatter s.dev (64 * (a / 8)) x.tNext → (x.moving = false → Does (.stepPulse a) s s.dev) ∧
  (x.moving = true → ∀ gap, gap = (if x.st = .homeSeek then s.dev.lv (A.AX_PHOME a) F.AX_PHOME_PHOME else axGap x.n x.nr x.pcru x.psta x.j) * nsTU →
    ∀ x' : Axis, x' = { x with
      pos := wrapPos (if x.neg then x.pos - 1 else x.pos + 1), j := x.j + 1, tNext := x.tNext + gap, placed := (x.tNext :: x.placed).take 16 } →
    ∀ x'' : Axis, x'' = (if x.n ≤ x.j + 1 then { x' with st := .idle, result := if x.st = .homeSeek then 6 else 1 } else x') →
    Completes (.stepPulse a) s (fun u => u.dev.axOf a = x'' ∧ x.tNext ≤ u.dev.now) ∧
    (stepPin w a = none → Does (.stepPulse a) s ((s.dev.advanceTo x.tNext).setAx a x'')) ∧
    (∀ pc c, stepPin w a = some pc → c = s.dev.pcOf pc → c.reqs = [] → c.safePend = none → c.wlevel = false → pinHeld s.dev pc →
      Within (.stepPulse a) s (fun d => { noPins d with axes := [] }) (fun u => u.axOf a = x'' ∧ (∀ b, b ≠ a → u.axOf b = s.dev.axOf b) ∧
        edgeLeft s.dev u pc { c with reqs := [⟨x.tNext + s.dev.lv (A.AX_TIME a) F.AX_TIME_SWIDTH * nsTU, false, 0, s.dev.latOut pc⟩] }
          (match c.lastEdge with | some e => max x.tNext (e + pinSpacing pc) | none => x.tNext) true (s.dev.latOut pc)))))

end Sys2Proof.Machine

section
open Sys2Proof Sys2Proof.Machine

/-- Axes take their commands and move. -/
def Obligations.AxesRun : Prop := AxisCommands ∧ AxesMove

end

namespace Sys2Proof.Machine

/-- The waveform of a channel is at a level. -/
def levelNow (u : Dev) (pc : Nat) (l : Bool) : Prop := (u.pcOf pc).wlevel = l

/-- A device without its pins, the trip inputs, the groups, what it sent and the clock. -/
def noGroups (d : Dev) : Dev := { noPins d with grps := [] }

/-- The edge at the head of a queue that has reached the interpolator, with its instant. -/
def headAt (c : PinCh) (l : Bool) (t : Nat) : Prop := ∃ e ∈ c.q.head?, e.arr = true ∧ e.level = l ∧ e.moved.getD e.t = t

end Sys2Proof.Machine

section
open Sys2Proof Sys2Proof.Machine

/-- R279, R280, R281, R282: a demand begins where its member's queue rises: the high side goes up, and the member pulls in when no other member does, of two at one instant the lower one first;
it holds after PULL, by chopping with its hold duty; its end takes the member down, and the high side with the last demand; a demand that ends before its pull-in is dropped. -/
def Obligations.GroupsShareTheHighSide : Prop := ∀ (s : State) (g k : Nat), Awake s → ∀ pc, pc = 64 * (g / 16) + k → ∀ hs, hs = hsPin s.dev.live g → hs ≠ pc →
  ∀ c, c = s.dev.pcOf pc → ∀ x, x = s.dev.grpOf g →
  (∀ e q a, c.q = e :: q → a = e.moved.getD e.t → e.arr = true → e.level = true → (s.dev.groupOf g k).isSome → s.dev.safeHeld pc = false →
    (x.demands.any (fun m => m.k == k) = false → Completes (.groupDemandStart g k) s (fun u => (u.dev.pcOf pc).q = q ∧ a ≤ u.dev.now ∧
      (∃ y ∈ (u.dev.grpOf g).demands, y.k = k ∧ y.a = a))) ∧
    (c.inSafe = false → (s.dev.pcOf hs).inSafe = false → (∀ e' ∈ q.head?, e'.arr = false ∨ e'.level = true) →
    (x.demands = [] → (∀ o ∈ grpMembers s.dev.live g, o.2 % 64 < k → ¬ headAt (s.dev.pcOf o.2) true a) →
      Within (.groupDemandStart g k) s noGroups (fun u => u.grpOf g = { x with demands := [⟨k, a, .pulling, a⟩] } ∧
      levelNow u hs true ∧ levelNow u pc true ∧ (u.pcOf pc).q = q ∧ a ≤ u.now)) ∧
    (∀ m, x.demands = [m] → m.k ≠ k → m.st = .pulling → m.a < a → Within (.groupDemandStart g k) s noGroups (fun u =>
      u.grpOf g = { x with demands := [m, ⟨k, a, .waiting, 0⟩] } ∧ levelNow u hs true ∧ (u.pcOf pc).wlevel = c.wlevel ∧ (u.pcOf pc).q = q)))) ∧
  (∀ e q b, c.q = e :: q → b = e.moved.getD e.t → e.arr = true → e.level = false →
    Completes (.groupDemandEnd g k) s (fun u => (u.dev.pcOf pc).q = q ∧ b ≤ u.dev.now ∧ ∀ y ∈ (u.dev.grpOf g).demands, y.k ≠ k) ∧
    (∀ m, x.demands = [m] → m.k = k → c.inSafe = false → (s.dev.pcOf hs).inSafe = false →
    (∀ o ∈ grpMembers s.dev.live g, o.2 ≠ pc → ∀ t, t ≤ b → ¬ headAt (s.dev.pcOf o.2) true t) → (∀ e' ∈ q.head?, b < e'.moved.getD e'.t ∨ e'.arr = false) →
    Within (.groupDemandEnd g k) s noGroups (fun u => u.grpOf g = { demands := [], lastE := if m.st = .pulling then b else x.lastE } ∧ levelNow u hs false ∧ (u.pcOf pc).q = q ∧
      (m.st ≠ .waiting → levelNow u pc false ∧ (u.pcOf pc).reqs = []) ∧ (m.st = .waiting → (u.pcOf pc).wlevel = c.wlevel)))) ∧
  ((∀ e ∈ c.q.head?, e.arr = false ∨ e.level = false) → Does (.groupDemandStart g k) s s.dev) ∧
  ((∀ e ∈ c.q.head?, e.arr = false ∨ e.level = true) → Does (.groupDemandEnd g k) s s.dev) ∧
  ((∀ m ∈ x.demands, m.k = k → m.st ≠ .pulling) → Does (.pullInEnd g k) s s.dev) ∧
  (∀ m, x.demands.find? (fun y => y.k == k && y.st == .pulling) = some m → ∀ e, e = m.p + s.dev.lv (A.PCH_GPULL pc) F.PCH_GPULL_PULL * usTU →
    Completes (.pullInEnd g k) s (fun u => (u.dev.grpOf g).lastE = e ∧ e ≤ u.dev.now) ∧
    (x.demands = [m] → Does (.pullInEnd g k) s ((s.dev.advanceTo e).setGrp g { demands := [{ m with st := .holding, p := e }], lastE := e }))) ∧
  ((∀ m ∈ x.demands, m.k = k → m.st ≠ .holding) → Does (.holdChop g k) s s.dev) ∧
  (∀ m, x.demands.find? (fun y => y.k == k && y.st == .holding) = some m → ∀ per, per = s.dev.lv (A.GRP_HOLDP g) F.GRP_HOLDP_HOLD_P * nsTU →
    ∀ on, on = s.dev.lv (A.PCH_GHOLD pc) F.PCH_GHOLD_HOLD_DUTY * per / 2 ^ 24 →
    ∀ x' : Grp, x' = { x with demands := x.demands.map (fun y => if y = m then { y with p := m.p + per } else y) } →
    ∀ minpw, minpw = s.dev.lv (A.PCH_PWMW pc) F.PCH_PWMW_MINPW * 4096 →
    Completes (.holdChop g k) s (fun u => u.dev.grpOf g = x' ∧ m.p ≤ u.dev.now ∧
      (c.inSafe = false → levelNow u.dev pc (decide (minpw ≤ on)))) ∧
    (c.inSafe = true → Does (.holdChop g k) s ((s.dev.advanceTo m.p).setGrp g x')) ∧
    (c.inSafe = false → c.safePend = none → c.reqs = [] → ¬ leads s.dev pc → minpw ≤ on → on + minpw ≤ per →
      Within (.holdChop g k) s noGroups (fun u => u.grpOf g = x' ∧ levelNow u pc true ∧ (u.pcOf pc).reqs = [⟨m.p + on, false, 0, s.dev.latOut pc⟩] ∧
        ∀ j, j ≠ pc → u.pcOf j = s.dev.pcOf j)))

end

namespace Sys2Proof.Machine

/-- A device without its angle units and the clock. -/
def noAngle (d : Dev) : Dev := { noClock d with au := [] }

/-- Tracking is lost with a cause: the unit seeks, and no output entry is left (R293, R302). -/
def trackLost (d : Dev) (u cause : Nat) : Prop :=
  (d.auOf u).st = .seek ∧ (d.auOf u).lossCause = cause ∧ ∀ o < 4, (d.auOf u).out o = []

end Sys2Proof.Machine

section
open Sys2Proof Sys2Proof.Machine

/-- R289, R290, R293, R297: the first stamp on its way from a line reaches the unit; an edge of line A or B moves the count, of 64 bits, by one in the direction of the sequence of the two
lines; a stamp that was lost, or one that came closer to the other line's than the minimum spacing, loses the track; the index sets the count where none was known, and loses the track where
the two differ by more than ZTOL; no edge for STALL_T stalls the unit. -/
def Obligations.EncoderCounts : Prop := ∀ (s : State) (u line : Nat) (l : Bool) (t : Nat) (lost : Bool), Awake s → ∀ x, x = s.dev.auOf u → ∀ w, w = s.dev.live → line < 3 →
  ((∀ h ∈ (Tab.get x.inq [] line).head?, (h.level, h.stamp, x.ovr.isSome) ≠ (l, t, lost)) → Does (.encoderEdge u line l t lost) s s.dev) ∧
  (∀ h rest, Tab.get x.inq [] line = h :: rest → l = h.level → t = h.stamp → lost = x.ovr.isSome → ∀ y, y = { x with inq := Tab.set x.inq line rest } →
    ∀ x', x' = (if line = 0 then { y with lvA := l, lastA := some t } else if line = 1 then { y with lvB := l, lastB := some t } else { y with lvZ := l }) →
    ∀ same, same = (if line = 0 then x.lvA == l else if line = 1 then x.lvB == l else x.lvZ == l) →
    Completes (.encoderEdge u line l t lost) s (fun d => (d.dev.auOf u).inq = y.inq ∧ t ≤ d.dev.now ∧
      (d.dev.auOf u).lvA = x'.lvA ∧ (d.dev.auOf u).lvB = x'.lvB ∧ (d.dev.auOf u).lvZ = x'.lvZ) ∧
    (∀ o, x.ovr = some o → x.st ≠ .off → same = true → Within (.encoderEdge u line l t lost) s noAngle (fun d => trackLost d u 4 ∧ (d.auOf u).c = x.c ∧ (d.auOf u).edges = [] ∧
      (d.auOf u).ovr = none ∧ ∀ k, k ≠ u → d.auOf k = s.dev.auOf k)) ∧
    (x.ovr = none → x.st = .off ∨ s.dev.auRuns u = false ∨ same = true → Does (.encoderEdge u line l t lost) s ((s.dev.advanceTo t).setAu u x')) ∧
    (x.ovr = none → x.st ≠ .off → s.dev.auRuns u = true → same = false →
    (line < 2 → ∀ other, other = (if line = 0 then x.lastB else x.lastA) →
      ∀ pin, pin = (if line = 0 then w.f (A.AU_CFG u) F.AU_CFG_PIN_A else w.f (A.AU_CFG u) F.AU_CFG_PIN_B) →
      ((∃ o, other = some o ∧ t < o + pinSpacing pin ∧ o < t + pinSpacing pin) → Within (.encoderEdge u line l t lost) s noAngle (fun d => trackLost d u 3 ∧ (d.auOf u).c = x.c)) ∧
      ((∀ o, other = some o → o + pinSpacing pin ≤ t ∨ t + pinSpacing pin ≤ o) → ¬ (x.st = .seek ∧ x.setc.isSome) → x.suspect = none → w.f (A.AU_CHK u) F.AU_CHK_CHK_GAP = 0 →
        ∀ fwd, fwd = (((quadIdx x'.lvA x'.lvB + 4 - quadIdx x.lvA x.lvB) % 4 = 1) ↔ w.b (A.AU_CFG u) F.AU_CFG_REV = false) →
        Within (.encoderEdge u line l t lost) s noAngle (fun d => ((fwd → (d.auOf u).c = wrapC (x.c + 1) ∧ (d.auOf u).neg = false) ∧
          (¬ fwd → (d.auOf u).c = wrapC (x.c - 1) ∧ (d.auOf u).neg = true)) ∧
          (d.auOf u).st = x.st ∧ (d.auOf u).stall = false ∧
          ∃ e, (d.auOf u).edges.head? = some e ∧ e.c = (d.auOf u).c ∧ e.t = (match x.edges with | k :: _ => max t (k.t + 1) | [] => t)))) ∧
    (line = 2 → ∀ z, z = w.f (A.AU_ZCOUNT u) F.AU_ZCOUNT_ZCOUNT → ∀ C, C = auC w u →
      ∀ off, off = ((x.c - (z : Int)) % (C : Int)).toNat →
      (w.b (A.AU_CFG u) F.AU_CFG_Z_EN = false ∨ l = x.neg ∨ s.dev.encSupplied u = false → Does (.encoderEdge u line l t lost) s ((s.dev.advanceTo t).setAu u x')) ∧
      (w.b (A.AU_CFG u) F.AU_CFG_Z_EN = true → l = !x.neg → s.dev.encSupplied u = true →
        (x.st = .seek → Within (.encoderEdge u line l t lost) s noAngle (fun d => (d.auOf u).st = .sync ∧ (d.auOf u).c = z)) ∧
        (x.st = .sync → min off (C - off) ≤ w.f (A.AU_CHK u) F.AU_CHK_ZTOL → Does (.encoderEdge u line l t lost) s ((s.dev.advanceTo t).setAu u x')) ∧
        (x.st = .sync → w.f (A.AU_CHK u) F.AU_CHK_ZTOL < min off (C - off) → Within (.encoderEdge u line l t lost) s noAngle (fun d => trackLost d u 2 ∧ (d.auOf u).c = z)))))) ∧
  (x.st = .off ∨ x.stall = true → Does (.stallTimeout u) s s.dev) ∧
  (x.st ≠ .off → x.stall = false → ∀ last, last = (match x.suspect with | some e => some e.t | none => x.edges.head?.map (·.t)) →
    (last = none → Does (.stallTimeout u) s s.dev) ∧
    (∀ k, last = some k →
      Does (.stallTimeout u) s ((s.dev.advanceTo (k + s.dev.lv (A.AU_STALL u) F.AU_STALL_STALL_T * usTU)).setAu u { x with stall := true })))

/-- R293, R296, R299, R300, R302, R304-R308: an angle unit's output queues, kept by position, of which the entry due first fires, its arming, resynchronisation and read; the freeze of an
exposure's statements and their packet, by the settings that serve the exposure, which the flow channel takes with the stamp of its instant. -/
def Obligations.AngleCommands : Prop := ∀ (s : State) (m u o : Nat) (v : Word), Awake s → ∀ x, x = s.dev.auOf u →
  ((∀ e ∈ x.out o, e.tp = none) → Does (.outputFire u o) s s.dev) ∧
  ((∃ e ∈ x.out o, e.tp.isSome) → Completes (.outputFire u o) s (fun d => ∃ e ∈ x.out o, ∃ t, e.tp = some t ∧ t ≤ d.dev.now ∧
    (∀ f ∈ x.out o, ∀ t', f.tp = some t' → t ≤ t') ∧
    (d.dev.auOf u).out o = if e.rep then entInsert ((x.out o).erase e) (e.again e.neg) else (x.out o).erase e)) ∧
  (∀ e t, x.out o = [e] → e.tp = some t → ∀ d : Dev, d = (s.dev.advanceTo t).setOut u o (if e.rep then [e.again e.neg] else []) →
    ∀ pc c, pc = s.dev.lv (A.AU_OUT u o) F.AU_OUT_PIN → c = s.dev.pcOf pc →
    (c.mode ≠ 3 ∨ c.inSafe = true ∨ e.level = c.wlevel → Does (.outputFire u o) s d) ∧
    (c.mode = 3 → e.level ≠ c.wlevel → pinHeld s.dev pc → Within (.outputFire u o) s (fun d => { noPins d with au := [] }) (fun n => n.au = d.au ∧
      edgeLeft s.dev n pc c (match c.lastEdge with | some b => max t (b + pinSpacing pc) | none => t) e.level (s.dev.latOut pc)))) ∧
  (Reaches m (A.AU_Q2 u o) s → ∀ e, e = (⟨sgn 32 (s.dev.immW (A.AU_Q1 u o)).toNat * 2 ^ 32 + ((s.dev.immW (A.AU_Q0 u o)).toNat : Int), fget v F.AU_Q2_DIR,
      fget v F.AU_Q2_LEVEL == 1, fget v F.AU_Q2_REPEAT == 1, fget v F.AU_Q2_PULSE == 1, none, false, false⟩ : AuEnt) →
    (32 ≤ (x.out o).length ∨ e.dir = 0 → Does (.angleQueuePush m u o v) s (s.dev.wrote m fun d => d.setIm (A.AU_QSTAT u o) F.AU_QSTAT_Q_REFUSED 1)) ∧
    ((x.out o).length < 32 → e.dir ≠ 0 → x.st ≠ .sync ∨ x.qual = false ∨ x.stall = true ∨ s.dev.lvb (A.AU_OUT u o) F.AU_OUT_EN = false →
      Does (.angleQueuePush m u o v) s (s.dev.wrote m fun d => d.setOut u o (entInsert (x.out o) e)))) ∧
  (Reaches m (A.AU_QSTAT u o) s → (x.out o ≠ [] → Does (.angleQueueFlush m u o) s (s.dev.wrote m fun d => d.setOut u o [])) ∧
    (x.out o = [] → Does (.angleQueueFlush m u o) s (s.dev.wrote m id))) ∧
  (Reaches m (A.AU_SETC1 u) s → Does (.setcArm m u v) s (s.dev.wrote m fun d => d.setAu u
    { x with setc := some (sgn 64 ((s.dev.immW (A.AU_SETC0 u)).toNat + v.toNat * 2 ^ 32)), setcLate := x.suspect.isSome })) ∧
  (Reaches m (A.AU_CTL u) s → (x.st = .sync → Within (.angleResync m u) s (fun d => { d with au := [], late := {} }) (fun d => trackLost d u 5 ∧ (d.auOf u).c = x.c)) ∧
    (x.st ≠ .sync → Does (.angleResync m u) s (s.dev.wrote m id))) ∧
  (∀ e, e = s.dev.estimate u s.dev.now → Does (.anglePosRead m u) s ((s.dev.setLatch (A.AU_POS0 u) m
    [unsgn 32 e.1, unsgn 32 (e.1 / 2 ^ 32), unsgn 32 e.2.1, s.dev.now % 2 ^ 64 % 2 ^ 32, s.dev.now % 2 ^ 64 / 2 ^ 32]).emit (.readData m [unsgn 32 e.1]))) ∧
  (s.dev.auRuns u = false ∨ s.dev.expoNext u s.dev.now = none → Does (.exposureFreeze u) s s.dev) ∧
  (s.dev.auRuns u = true → ∀ n te, s.dev.expoNext u s.dev.now = some (n, te) → ∀ d : Dev, d = s.dev.advanceTo (te + holdMax (s.dev.capView te) u - 2 * usTU) →
    Does (.exposureFreeze u) s (d.setAu u { x with nextAt := te + 1, expo := some (n, te, d.holdoverAt te, d.expoStates u te) })) ∧
  (x.expo = none → Does (.anglePacketInject u) s s.dev) ∧
  (∀ n te hold sts, x.expo = some (n, te, hold, sts) → ∀ w, w = s.dev.capView te → ∀ fc, fc = w.f (A.AU_EXP u) F.AU_EXP_FLOWCH → ∀ t, t = te + holdMax w u →
    Within (.anglePacketInject u) s (fun d => { noAngle d with tileIn := [] }) (fun d => (d.auOf u).expo = none ∧ (d.auOf u).seq = x.seq + 1 ∧ t ≤ d.now ∧
      (∀ k ∈ sts.map (·.1), (d.auOf k).bad = 0) ∧ ∃ pk ts, d.tileIn = Tab.set s.dev.tileIn (fc / 128) (Tab.get s.dev.tileIn [] (fc / 128) ++ [pk]) ∧
        pk.fc = fc ∧ pk.stamp = t ∧ pk.path = 0 ∧ pk.port = none ∧ pk.bad = false ∧ ∃ head, head.length = 20 ∧ head.head? = some (BitVec.ofNat 8 (16 + sts.length)) ∧
        pk.bytes = angleFrame (w.f (A.AU_RTP u) F.AU_RTP_PT) x.seq ts (w.f (A.AU_SSRC u) F.AU_SSRC_SSRC)
          (head ++ sts.flatMap (fun e => wheelEntry e.1 (s.dev.auOf e.1).bad (w.f (A.AU_RTP e.1) F.AU_RTP_WHEEL_ID) e.2))))

end

namespace Sys2Proof.Machine

/-- The engine runs a word of the operation now: RUN or TRAP, no word in progress, neither SLICE nor the handler's limit reached, the word legal, no breakpoint
before it (R312, R315, R328, R332, R347). -/
def runsWord (d : Dev) (T op : Nat) : Prop := ∀ e, e = d.engOf T →
  e.between = true ∧ e.sliceDue = false ∧ e.handlerDue = false ∧ e.resetting = false ∧ d.engGated T = false ∧
  mOp e.word = op ∧ illegalWord (decide (256 ≤ T)) (e.st == .trap) e.word = false ∧ d.breakAt T e e.word = false

/-- The device when a word is over that leaves the engine `e` and goes on at `pc`, charged as `n` words to the dispatch, its slice and its domain's budget (R327, R345). -/
def Dev.wordOver (d : Dev) (T n pc : Nat) (e : Eng) : Dev :=
  { d.setEng T { e with
      charged := if e.inInit then e.charged else e.charged + n, pc := pc, hwords := if e.st = .trap then e.hwords + 1 else e.hwords,
      sliceLeft := if e.st = .trap then e.sliceLeft else e.sliceLeft - 1, passBp := false, wait := none } with
    budget := if e.inInit = false ∧ e.dom < 256 then Tab.upd d.budget 0 (budKey T e.dom) (· - (n : Int)) else d.budget }

/-- The same after a word that began now: the first of a dispatch begins its time. -/
def Dev.afterWord (d : Dev) (T n pc : Nat) (e : Eng) : Dev := d.wordOver T n pc { e with began := if e.charged = 0 then d.now else e.began }

/-- The flags of an engine. -/
def Eng.flags4 (e : Eng) (z n c v : Bool) : Eng := { e with fz := z, fn := n, fc := c, fv := v }

/-- The operations on registers: the command, its code, the operands a and b, the result and the engine that its result and flags leave (R318, R319). `k` is e with
the result written; flags are taken when SETF is set, but for those an operation always sets. -/
def aluWord (T : Nat) (e : Eng) (w : Micro) (now : Nat) (i : Instr) (op : Nat) (r : Option Word64) (e' : Eng) : Prop :=
  ∀ a b, a = e.opA w → b = e.opB w → ∀ k : Word64 → Eng, (∀ x, k x = e.wr (mDst w) x) →
  ∀ zn : Word64 → Eng, (∀ x, zn x = if mSetf w then (k x).flags4 (x == 0) x.msb e.fc e.fv else k x) →
  i = .nop T ∧ op = 0 ∧ r = none ∧ e' = e ∨
  i = .mov T ∧ op = 1 ∧ r = some b ∧ e' = zn b ∨
  i = .add T ∧ op = 2 ∧ r = some (a + b) ∧ e' = (if mSetf w then (k (a + b)).flags4 (a + b == 0) (a + b).msb (decide (2 ^ 64 ≤ a.toNat + b.toNat))
    (decide (a.toInt + b.toInt < -(2 ^ 63) ∨ 2 ^ 63 ≤ a.toInt + b.toInt)) else k (a + b)) ∨
  i = .sub T ∧ op = 3 ∧ r = some (a - b) ∧ e' = (if mSetf w then (k (a - b)).flags4 (a == b) (a - b).msb (decide (b.toNat ≤ a.toNat))
    (decide (a.toInt - b.toInt < -(2 ^ 63) ∨ 2 ^ 63 ≤ a.toInt - b.toInt)) else k (a - b)) ∨
  i = .and T ∧ op = 4 ∧ r = some (a &&& b) ∧ e' = zn (a &&& b) ∨
  i = .or T ∧ op = 5 ∧ r = some (a ||| b) ∧ e' = zn (a ||| b) ∨
  i = .xor T ∧ op = 6 ∧ r = some (a ^^^ b) ∧ e' = zn (a ^^^ b) ∨
  (∃ x, i = .shl T ∧ op = 7 ∧ x = BitVec.ofNat 64 (a.toNat * 2 ^ (b.toNat % 64)) ∧ r = some x ∧ e' = zn x) ∨
  (∃ x, i = .shr T ∧ op = 8 ∧ x = BitVec.ofNat 64 (a.toNat / 2 ^ (b.toNat % 64)) ∧ r = some x ∧ e' = zn x) ∨
  (∃ x, i = .sar T ∧ op = 9 ∧ x = BitVec.ofInt 64 (a.toInt / 2 ^ (b.toNat % 64)) ∧ r = some x ∧ e' = zn x) ∨
  i = .mul T ∧ op = 0xA ∧ r = some (a * b) ∧ e' = zn (a * b) ∨
  (∃ x, i = .mulh T ∧ op = 0xB ∧ x = BitVec.ofNat 64 (a.toNat * b.toNat / 2 ^ 64) ∧ r = some x ∧ e' = zn x) ∨
  (∃ x, i = .ext T ∧ op = 0xC ∧ x = BitVec.ofNat 64 (a.toNat / 2 ^ (mOfs w % 64) % 2 ^ (mOfs w / 64 % 64 + 1)) ∧ r = some x ∧ e' = zn x) ∨
  (∃ x : Word64, i = .ins T ∧ op = 0xD ∧ (∀ j < 64, x.getLsbD j = if mOfs w % 64 ≤ j ∧ j < mOfs w % 64 + (mOfs w / 64 % 64 + 1) then b.getLsbD (j - mOfs w % 64)
    else (e.rd (mDst w)).getLsbD j) ∧ r = some x ∧ e' = zn x) ∨
  (∃ x : Nat, i = .ffs T ∧ op = 0xE ∧ (x < 64 ∧ a.getLsbD x = true ∧ (∀ j < x, a.getLsbD j = false) ∨ x = 64 ∧ a = 0) ∧ r = some (BitVec.ofNat 64 x) ∧
    e' = (k (BitVec.ofNat 64 x)).flags4 (a == 0) e.fn e.fc e.fv) ∨
  i = .cmp T ∧ op = 0xF ∧ r = none ∧ e' = e.flags4 (a == b) (a - b).msb (decide (b.toNat ≤ a.toNat)) (decide (a.toInt - b.toInt < -(2 ^ 63) ∨ 2 ^ 63 ≤ a.toInt - b.toInt)) ∨
  i = .tcmp T ∧ op = 0x10 ∧ r = none ∧ e' = e.flags4 (a == b) (decide (0 < sgn 64 (unsgn 64 ((b.toNat : Int) - a.toNat)))) false false ∨
  i = .tnow T ∧ op = 0x11 ∧ r = some (BitVec.ofNat 64 now) ∧ e' = k (BitVec.ofNat 64 now)

end Sys2Proof.Machine

section
open Sys2Proof Sys2Proof.Machine

/-- R15, R316, R318, R319, R327, R345: an operation on registers writes its result and flags, goes on where its condition says, and is charged as one word; nothing else changes. -/
def Obligations.WordsCompute : Prop := ∀ (s : State) (T op : Nat) (i : Instr) (r : Option Word64) (e' : Eng), Awake s → runsWord s.dev T op → ∀ e, e = s.dev.engOf T →
  aluWord T e e.word s.dev.now i op r e' →
  Does i s (s.dev.afterWord T 1 (if e'.cond e.word r (e.inbox.any (fun x => x.dom == e.dom)) then mAlt e.word else mNxt e.word) e')

end

namespace Sys2Proof.Machine

/-- The engine begins to wait in its word (R317, R329). -/
def Dev.waiting (d : Dev) (T : Nat) (e : Eng) (k : Wait) (st : EngSt) : Dev :=
  d.setEng T { e with began := if e.charged = 0 then d.now else e.began, wait := some k, waitAt := d.now, st := st }

/-- The word traps with a cause and a detail: 17 words are charged, the frame stands at the end of the pantry, and the engine goes on at TRAP_VEC (R327, R331). -/
def Traps (i : Instr) (s : State) (T cause detail : Nat) : Prop := ∀ e, e = s.dev.engOf T → e.st = .run → e.inInit = false →
  Stores i s { s.dev.setEng T { e with
      began := if e.charged = 0 then s.dev.now else e.began, charged := e.charged + 17, st := .trap, hwords := 0, wait := none, lastCause := cause, pc := e.img.trapVec } with
    budget := if e.dom < 256 then Tab.upd s.dev.budget 0 (budKey T e.dom) (· - 17) else s.dev.budget }
    [.pantry T 0x3FE00 ((frameWords e cause e.pc detail).flatMap (leBytes 8))]

end Sys2Proof.Machine

section
open Sys2Proof Sys2Proof.Machine

/-- R316, R321, R323, R329, R330, R331: the operations that steer the engine: call, return and computed jump, the waits, the trap and the return from one, and the special registers. -/
def Obligations.WordsSteer : Prop := ∀ (s : State) (T : Nat), Awake s → ∀ e w, e = s.dev.engOf T → w = e.word → ∀ go : Option Word64 → Eng → Nat,
  (∀ r e', go r e' = if e'.cond w r (e.inbox.any (fun x => x.dom == e.dom)) then mAlt w else mNxt w) → ∀ a, a = e.opA w →
  (runsWord s.dev T 0x18 → (e.stack.length < 8 → Does (.call T) s (s.dev.afterWord T 1 (mAlt w) { e with stack := mNxt w :: e.stack, above := e.above.tail })) ∧
    (8 ≤ e.stack.length → Traps (.call T) s T 2 0)) ∧
  (runsWord s.dev T 0x19 → (∀ x l, e.stack = x :: l → Does (.ret T) s (s.dev.afterWord T 1 x { e with stack := l, above := x :: e.above })) ∧ (e.stack = [] → Traps (.ret T) s T 2 0)) ∧
  (runsWord s.dev T 0x1A → Does (.jx T) s (s.dev.afterWord T 1 ((a.toNat + mImm w) % 8192) e)) ∧
  (runsWord s.dev T 0x1B →
    (e.tags ≠ [] → Does (.waitev T) s (s.dev.waiting T e .finish e.st)) ∧
    (e.tags = [] → e.inInit = false → ∀ d : Dev, d = s.dev.afterWord T 1 (mNxt w) e →
      Does (.waitev T) s (d.setEng T { d.engOf T with st := .idle, lastDom := e.dom, busyAt := none })) ∧
    (e.tags = [] → e.inInit = true → ∀ d : Dev, d = s.dev.afterWord T 1 (mNxt w) e → ∀ e', e' = { d.engOf T with st := .idle, inInit := false, busyAt := none } →
      (T < 256 → Does (.waitev T) s (d.setEng T e')) ∧
      (256 ≤ T → Within (.waitev T) s (fun d => { d with pins := [], eng := [] }) (fun u => u.engOf T = e' ∧ causesCleared s.dev u (tilePcs (T - 256)) 64)))) ∧
  (runsWord s.dev T 0x1C → ∀ t, t = unshort s.dev.now a.toNat → ∀ lim, lim = s.dev.now + s.dev.lv (A.TENG_CFG T) F.TENG_CFG_WAIT_MAX * nsTU →
    (lim < t → Traps (.waitt T) s T 7 a.toNat) ∧
    (t ≤ s.dev.now → Does (.waitt T) s (s.dev.afterWord T 1 (go none { e with fz := true }) { e with fz := true })) ∧
    (s.dev.now < t → t ≤ lim → Does (.waitt T) s (s.dev.waiting T e (.untilT t) (if e.st = .run then .wait else e.st)))) ∧
  (runsWord s.dev T 0x1D → ∀ busy, busy = e.tags.any (fun x => (mImm w % 256).testBit x.1) →
    (busy = false → Does (.waitm T) s (s.dev.afterWord T 1 (go none e) e)) ∧
    (busy = true → Does (.waitm T) s (s.dev.waiting T e (.tags (mImm w % 256)) (if e.st = .run then .wait else e.st)))) ∧
  (runsWord s.dev T 0x1E → e.st = .run → e.inInit = false → ∀ d : Dev, d = s.dev.afterWord T 17 e.img.trapVec e → ∀ cause, cause = 16 + mImm w % 16 →
    Stores (.trap T) s (d.setEng T { d.engOf T with st := .trap, hwords := 0, lastCause := cause })
      [.pantry T 0x3FE00 ((frameWords { e with sliceLeft := e.sliceLeft - 1 } cause (mNxt w) 0).flatMap (leBytes 8))]) ∧
  (runsWord s.dev T 0x1F → ∀ e', e' = e.fromFrame s.mem T → Does (.rett T) s (s.dev.afterWord T 16 e'.pc { e' with sliceLeft := e'.sliceLeft + 1 })) ∧
  (runsWord s.dev T 0x20 → ∀ v : Word64, v = BitVec.ofNat 64 (s.dev.special T e (mImm w % 256)) → ∀ e', e' = e.wr (mDst w) v →
    Does (.rds T) s (s.dev.afterWord T 1 (go (some v) e') e')) ∧
  (runsWord s.dev T 0x21 → ∀ b, b = (e.opB w).toNat → ∀ e', e' = (if mImm w % 256 = 5 then { e with cb := b % 2 ^ 18, cbOwn := e.cbOwn && b % 2 ^ 18 == e.cb }
    else e.flags4 (b.testBit 0) (b.testBit 1) (b.testBit 2) (b.testBit 3)) → Does (.wrs T) s (s.dev.afterWord T 1 (go none e') e'))

/-- R320, R321, R322: loads and stores of the pantry move the width FN gives, little-endian, or trap when misaligned or outside what the dispatch may reach; XADD adds in place; MRD and MWR start a
transfer of their tag, and their bytes move when it completes. -/
def Obligations.WordsReachMemory : Prop := ∀ (s : State) (T : Nat), Awake s → ∀ e w, e = s.dev.engOf T → w = e.word → ∀ go : Option Word64 → Eng → Nat,
  (∀ r e', go r e' = if e'.cond w r (e.inbox.any (fun x => x.dom == e.dom)) then mAlt w else mNxt w) → ∀ n, n = 2 ^ (mFn w % 4) →
  ∀ zn : Word64 → Eng, (∀ x, zn x = if mSetf w then (e.wr (mDst w) x).flags4 (x == 0) x.msb e.fc e.fv else e.wr (mDst w) x) →
  (∀ i op p ctx, i = .ld T ∧ op = 0x24 ∧ p = e.panAddrA w ∧ ctx = false ∨ i = .ldc T ∧ op = 0x26 ∧ p = e.cb + mOfs w ∧ ctx = true → runsWord s.dev T op →
    (p % n ≠ 0 → Traps i s T 3 p) ∧ (p % n = 0 → s.dev.panDenied T e p n false ctx = true → Traps i s T 4 p) ∧
    (p % n = 0 → s.dev.panDenied T e p n false ctx = false → ∀ v, v = leNat (s.mem.pbytes T p n) → ∀ x : Word64, x = (if mFn w / 4 % 2 = 1 then BitVec.ofInt 64 (sgn (8 * n) v) else BitVec.ofNat 64 v) →
      Does i s (s.dev.afterWord T 1 (go (some x) (zn x)) (zn x)))) ∧
  (∀ i op p ctx, i = .st T ∧ op = 0x25 ∧ p = e.panAddrA w ∧ ctx = false ∨ i = .stc T ∧ op = 0x27 ∧ p = e.cb + mOfs w ∧ ctx = true → runsWord s.dev T op →
    (p % n ≠ 0 → Traps i s T 3 p) ∧ (p % n = 0 → s.dev.panDenied T e p n true ctx = true → Traps i s T 4 p) ∧
    (p % n = 0 → s.dev.panDenied T e p n true ctx = false → Stores i s (s.dev.afterWord T 1 (go none e) e) [.pantry T p (leBytes n (e.opB w).toNat)])) ∧
  (runsWord s.dev T 0x28 → ∀ p, p = e.panAddrA w → (p % 8 ≠ 0 → Traps (.xadd T) s T 3 p) ∧ (p % 8 = 0 → s.dev.panDenied T e p 8 true false = false →
    ∀ old : Word64, old = BitVec.ofNat 64 (leNat (s.mem.pbytes T p 8)) → ∀ e', e' = e.wr (mDst w) old →
      Stores (.xadd T) s (s.dev.afterWord T 1 (go (some old) e') e') [.pantry T p (leBytes 8 (old + e.opB w).toNat)])) ∧
  (∀ i op toStore, i = .mrd T ∧ op = 0x2C ∧ toStore = false ∨ i = .mwr T ∧ op = 0x2D ∧ toStore = true → runsWord s.dev T op →
    ∀ tag len a p, tag = mFn w % 8 → len = mOfs w % 2 ^ 11 + 1 → a = (e.opA w).toNat → p = (e.rd (mSrb w)).toNat → Tab.get? e.tags tag = none →
    (s.dev.storeHeld e.dom (a : Int) len = false → Traps i s T 5 a) ∧
    (s.dev.storeHeld e.dom (a : Int) len = true → s.dev.panDenied T e p len (!toStore) false = false → ∀ e', e' = { e with tags := Tab.set e.tags tag ⟨toStore, a, p, len⟩ } →
      Does i s (s.dev.afterWord T 1 (go none e') e'))) ∧
  (∀ tag, Tab.get? e.tags tag = none → Does (.transferComplete T tag) s s.dev) ∧
  (∀ tag x, Tab.get? e.tags tag = some x → Stores (.transferComplete T tag) s (s.dev.setEng T { e with tags := Tab.del e.tags tag })
    [if x.write then .store x.store (s.mem.pbytes T x.pantry x.len) else .pantry T x.pantry (s.mem.bytes x.store x.len)])

/-- R321, R325, R339, R343: the operations that act beyond the engine: buffers allocated and freed, a pulse emitted, an entry pushed to an edge queue or an angle output, a register written or read in the
dispatch's domain, or the trap when the domain has no right to it. -/
def Obligations.WordsReachOut : Prop := ∀ (s : State) (T : Nat), Awake s → ∀ e w, e = s.dev.engOf T → w = e.word → ∀ go : Option Word64 → Eng → Nat,
  (∀ r e', go r e' = if e'.cond w r (e.inbox.any (fun x => x.dom == e.dom)) then mAlt w else mNxt w) → ∀ a b, a = e.opA w → b = e.opB w →
  (runsWord s.dev T 0x2E → ∀ q P, q = tileQuad T → P = mImm w % 64 → ∀ mine, mine = (poolEn s.dev.live q P && (poolBanks s.dev.live q P).all (fun k => s.dev.bankHolder k == e.dom)) →
    (mine = false → Traps (.balloc T) s T 5 0) ∧
    (mine = true → ∀ h d', s.dev.allocBuf q P e.dom .explicit = (h, d') → ∀ v : Word64, v = BitVec.ofNat 64 (h.getD 0) → ∀ e', e' = { e.wr (mDst w) v with fz := h.isNone } →
      Does (.balloc T) s (d'.afterWord T 1 (go (some v) e') e'))) ∧
  (runsWord s.dev T 0x2F → ∀ oc d', s.dev.tryFree a.toNat e.dom false = (oc, d') → ∀ e' : Eng, e' = { e with fz := oc != 0 } →
    Does (.bfree T) s (d'.afterWord T 1 (go none e') e')) ∧
  (runsWord s.dev T 0x30 → ∀ arg, arg = b.toNat % 2 ^ 32 → (0x40 ≤ arg % 256 → Traps (.emit T) s T 1 0) ∧
    (arg % 256 < 0x40 → ∀ p : Pulse, p = ⟨engId T, unshort s.dev.now a.toNat, arg⟩ → DoesAnd (.emit T) s (s.dev.afterWord T 1 (go none e) e) (fun t => t.carries p))) ∧
  (runsWord s.dev T 0x31 → ∀ pc, pc = 64 * (T - 256) + mOfs w % 64 → ∀ t l, t = unshort s.dev.now a.toNat → l = (mFn w % 2 == 1) →
    (s.dev.shadowed pc = true → ∀ e' : Eng, e' = { e with fz := false } → Does (.pushq T) s (s.dev.afterWord T 1 (go none e') e')) ∧
    (s.dev.shadowed pc = false → ∀ ok d' d'', s.dev.pushEdge pc t l = (d', ok) → d'' = (if ok then d'.mirrorOut pc s.dev.now (.push pc (shortOf t) l) else d') →
      ∀ e' : Eng, e' = { e with fz := !ok } → Does (.pushq T) s (d''.afterWord T 1 (go none e') e'))) ∧
  (runsWord s.dev T 0x32 → ∀ u o, u = mOfs w % 8 → o = mOfs w / 8 % 4 → (auHolder s.dev.live u ≠ e.dom → Traps (.pusha T) s T 6 (A.AU_Q2 u o)) ∧
    (auHolder s.dev.live u = e.dom → ∀ v : Word, v = BitVec.ofNat 32 (mImm w % 32) → ∀ ok d', s.dev.pushAngle u o ⟨sgn 64 a.toNat, fget v F.AU_Q2_DIR, fget v F.AU_Q2_LEVEL == 1,
      fget v F.AU_Q2_REPEAT == 1, fget v F.AU_Q2_PULSE == 1, none, false, false⟩ = (d', ok) → ∀ e' : Eng, e' = { e with fz := !ok } → Does (.pusha T) s (d'.afterWord T 1 (go none e') e'))) ∧
  ∀ e0 : Eng, e0 = { e with began := if e.charged = 0 then s.dev.now else e.began } → ∀ d0, d0 = s.dev.setEng T e0 →
  (runsWord s.dev T 0x33 → ∀ r, r = mImm w → (s.dev.immAdmits e.dom r = false → Traps (.regw T) s T 6 r) ∧
    (s.dev.immAdmits e.dom r = true → s.dev.downAt r = true → Does (.regw T) s (s.dev.afterWord T 1 (go none { e with fz := true }) { e with fz := true })) ∧
    (s.dev.immAdmits e.dom r = true → s.dev.downAt r = false → ∀ d' ops, d0.domWrite e.dom (engineReader T) r (BitVec.ofNat 32 (e.rd (mSrb w)).toNat) s.mem = (d', ops) → d'.pwr.inReset = false →
      d'.engOf T = e0 → d'.now = s.dev.now → ∀ e' : Eng, e' = { e0 with fz := false } → Stores (.regw T) s (d'.afterWord T 1 (go none e') e') ops)) ∧
  (runsWord s.dev T 0x34 → ∀ d' v, d0.domRead e.dom (engineReader T) (mImm w) s.mem = (d', v) → d'.now = s.dev.now → ∀ e', e' = e0.wr (mDst w) (BitVec.ofNat 64 v) →
    Does (.regr T) s (d'.afterWord T 1 (go (some (BitVec.ofNat 64 v)) e') e'))

end

namespace Sys2Proof.Machine

/-- The dispatch of an entry begins: registers, flags and stack clear, the event in hand, the slice full (R324, R326, R347). -/
def Dev.dispatched (d : Dev) (T : Nat) (x : InEnt) (l : List InEnt) (ent : Nat) : Dev :=
  let e := d.engOf T;
  d.setEng T { e with
    inbox := l, step := false, st := .run, back := .run, pc := ent % 2 ^ 13, x := [], fz := false, fn := false, fc := false, fv := false, stack := [], above := []
    ev := x.p, chan := x.chan, dom := x.dom, didx := x.idx, cb := if x.chan = 0xFF then e.img.tileCtx else e.img.ctxBase + x.chan * 2 ^ e.img.ctxLog, cbOwn := true
    slice := d.lv (A.TENG_CFG T) F.TENG_CFG_SLICE, sliceLeft := d.lv (A.TENG_CFG T) F.TENG_CFG_SLICE, hwords := 0, charged := 0, began := d.now, wait := none
    busyAt := some (e.busyAt.getD d.now) }

/-- An engine halted at an instant, until its stamp comes still to be told (R332, R339). -/
def haltedAt (now : Nat) (e : Eng) : Eng :=
  { e with st := .halted, back := e.st, step := false, haltReq := false, haltAt := now, busyAt := some (e.busyAt.getD now), unstamped := some (3, 1) }

end Sys2Proof.Machine

section
open Sys2Proof Sys2Proof.Machine

/-- R317, R326, R328, R329, R343, R346, R347: an idle engine takes the first entry of a domain that has a share and a budget left, or counts it unhandled; waits end, and a dispatch ends at its slice,
at its turn, or, in a handler, with the stop of the engine. -/
def Obligations.DispatchesRun : Prop := ∀ (s : State) (T : Nat), Awake s → ∀ e w, e = s.dev.engOf T → w = e.word →
  ∀ ovr : Nat → Eng, (∀ c, ovr c = { e with st := .idle, wait := none, lastDom := e.dom, busyAt := none, lastCause := c }) →
  (e.st ≠ .idle ∧ e.st ≠ .halted ∨ e.resetting = true ∨ s.dev.engGated T = true ∨ e.tags ≠ [] ∨ e.inbox = [] → Does (.dispatch T) s s.dev) ∧
  (∀ x l, e.st = .idle → e.resetting = false → s.dev.engGated T = false → e.tags = [] → e.inbox = x :: l → (∀ y ∈ l, y.dom = x.dom ∧ epochScoped y.p = false) →
    ∀ share left, share = (x.dom == houseDom || (roomShare s.dev.live T x.dom).isSome) → left = s.dev.budgetLeft T x.dom → ∀ ent, ent = Tab.get e.img.disp 0 x.idx →
    (x.dom = houseDom ∨ 0 < left → share = true → ent / 2 ^ 15 ≠ 0 → Does (.dispatch T) s (s.dev.dispatched T x l ent)) ∧
    (x.dom = houseDom ∨ 0 < left → share = false ∨ ent / 2 ^ 15 = 0 → Does (.dispatch T) s (s.dev.setEng T { e with inbox := l, step := false })) ∧
    (x.dom ≠ houseDom → share = true → left ≤ 0 → x.held = false → Does (.dispatch T) s (s.dev.setEng T { e with inbox := e.inbox.map (fun y => { y with held := true }) }))) ∧
  (e.wait = none ∨ e.st = .halted ∧ e.step = false ∨ e.resetting = true ∨ s.dev.engGated T = true → Does (.waitEnd T) s s.dev) ∧
  (e.st ≠ .halted → e.resetting = false → s.dev.engGated T = false → ∀ st', st' = (if e.st = .wait then EngSt.run else e.st) →
    (∀ t, e.wait = some (.untilT t) → ∀ d : Dev, d = s.dev.advanceTo t → ∀ n, n = d.waitCharge e → ∀ e', e' = { e with fz := false, st := st' } →
      Does (.waitEnd T) s (d.wordOver T (1 + n) (e'.nextPc w none) e')) ∧
    (∀ m, e.wait = some (.tags m) → (∀ x ∈ e.tags, m.testBit x.1 = false) → ∀ e', e' = { e with st := st' } →
      Does (.waitEnd T) s (s.dev.wordOver T (1 + s.dev.waitCharge e) (e'.nextPc w none) e')) ∧
    (e.wait = some .finish → e.tags = [] → e.inInit = false → ∀ d : Dev, d = s.dev.wordOver T 1 (mNxt w) e → ∀ e', e' = { d.engOf T with st := .idle, lastDom := e.dom, busyAt := none } →
      (e.haltReq = false → Does (.waitEnd T) s (d.setEng T e')) ∧
      (e.haltReq = true → Does (.waitEnd T) s (d.setEng T (haltedAt s.dev.now e'))))) ∧
  (e.st = .halted → e.step = true → e.resetting = false → s.dev.engGated T = false →
    (∃ t, e.wait = some (.untilT t)) ∨ (∃ m, e.wait = some (.tags m) ∧ ∀ x ∈ e.tags, m.testBit x.1 = false) ∨ e.wait = some .finish ∧ e.tags = [] →
    Completes (.waitEnd T) s (fun t => (t.dev.engOf T).st = .halted ∧ (t.dev.engOf T).wait = none ∧ (t.dev.engOf T).step = false)) ∧
  (e.between = true → e.inInit = false →
    (e.sliceDue = true → Does (.sliceOver T) s (s.dev.setEng T (ovr 8))) ∧ (e.sliceDue = false → Does (.sliceOver T) s s.dev) ∧
    (e.handlerDue = true → Does (.trapHandlerLimit T) s (s.dev.setEng T { e with st := .stopped, wait := none, lastCause := 9, unstamped := some (0, 9) })) ∧
    (e.handlerDue = false → Does (.trapHandlerLimit T) s s.dev) ∧
    (e.charged ≠ 0 → Does (.turnExpiry T) s ((s.dev.advanceTo (e.began + turnOf s.dev.live T * nsTU)).setEng T (ovr 8)))) ∧
  (e.between = false → Does (.sliceOver T) s s.dev ∧ Does (.trapHandlerLimit T) s s.dev ∧ Does (.turnExpiry T) s s.dev)

/-- R332, R333, R334, R335, R355: halting, resuming and stepping an engine, its debug values; loads are queued with a reset of the tile, served one at a time, and end with their checks' result or the start of
INIT; a migration's OLD hands its model to NEW. -/
def Obligations.EnginesControlled : Prop := ∀ (s : State) (m T : Nat) (v : Word), Awake s → ∀ e, e = s.dev.engOf T →
  (Reaches m (A.TENG_DBG T) s →
    (e.st = .idle ∨ e.st = .run ∨ e.st = .wait ∨ e.st = .trap → Does (.engineHalt m T) s (s.dev.wrote m fun d =>
      d.setEng T (if e.wait = some .finish then { e with haltReq := true } else haltedAt s.dev.now e))) ∧
    (e.st = .offline ∨ e.st = .loading ∨ e.st = .stopped ∨ e.st = .halted → Does (.engineHalt m T) s (s.dev.wrote m id)) ∧
    (e.st ≠ .halted → Does (.engineResume m T) s (s.dev.wrote m id) ∧ Does (.engineStep m T) s (s.dev.wrote m id)) ∧
    (e.st = .halted → Does (.engineStep m T) s (s.dev.wrote m fun d => d.setEng T { e with step := true }) ∧
      (e.wait = none → Within (.engineResume m T) s (fun d => { d with pins := [], eng := [], late := {} }) (fun u =>
        u.engOf T = { e with
          st := e.back, step := false, passBp := e.back != .idle, unstamped := none, waitAt := e.waitAt + (s.dev.now - e.haltAt), haltAt := s.dev.now
          busyAt := if e.back = .idle then none else e.busyAt } ∧ (∀ k, k ≠ T → u.engOf k = s.dev.engOf k) ∧
        (T < 256 → u.pins = s.dev.pins) ∧ (256 ≤ T → causesCleared s.dev u (tilePcs (T - 256)) 128))))) ∧
  (Reaches m (A.TENG_DBGV1 T) s → (e.st = .halted → Does (.debugValueWrite m T v) s (s.dev.wrote m fun d =>
      d.setEng T (e.setDbgItem (s.dev.im (A.TENG_DBGSEL T) F.TENG_DBGSEL_SEL) ((s.dev.immW (A.TENG_DBGV0 T)).toNat + v.toNat * 2 ^ 32)))) ∧
    (e.st ≠ .halted → Does (.debugValueWrite m T v) s (s.dev.wrote m id))) ∧
  (Reaches m (A.TENG_LDCMD T) s → ∀ i p, i = .engineLoad m T ∧ p = false ∨ i = .enginePatch m T ∧ p = true →
    Completes i s (fun u => u.dev.loadQ = s.dev.loadQ.filter (· != T) ++ [T] ∧ (u.dev.engOf T).resetting = true ∧ (u.dev.engOf T).ldQueued = true ∧ (u.dev.engOf T).ldPatch = p) ∧
    (e.wait = none → (∀ c < 32, (s.dev.dmaOf c).move.any (·.meets T) = false) → (∀ c < 16, ¬ ((s.dev.cvuOf c).st = .scanning ∧ (s.dev.cvuOf c).space ≠ 0 ∧ (s.dev.cvuOf c).tile = T)) →
      Does i s (s.dev.wrote m fun d =>
        { d.setEng T { e with resetting := true, ldQueued := true, ldPatch := p } with loadQ := d.loadQ.filter (· != T) ++ [T] }))) ∧
  (s.dev.flashBoot = false →
    (s.dev.loadQ = [] → Does .loadStart s s.dev) ∧
    (∀ k l, s.dev.loadQ = k :: l → ∀ x, x = s.dev.engOf k →
      (s.dev.eng.any (fun y => y.2.ldBusy) = true ∨ x.resetting = true ∨ x.st ≠ .offline → Does .loadStart s s.dev) ∧
      (s.dev.eng.any (fun y => y.2.ldBusy) = false → x.resetting = false → x.st = .offline →
        (s.dev.activated 2 k = false → Does .loadStart s (s.dev.govReq 2 k)) ∧
        (s.dev.activated 2 k = true → Does .loadStart s ({ s.dev with loadQ := l }.setEng k { x with st := .loading, ldQueued := false, ldBusy := true }))))) ∧
  (e.st ≠ .loading ∨ e.resetting = true → Does (.loadEnd T) s s.dev) ∧
  (e.st = .loading → e.resetting = false → s.dev.pwr.steward = false → s.dev.pwr.bootWait = false → ∀ a dom hdr bs held, a = s.dev.im (A.TENG_LDADDR T) F.TENG_LDADDR_ADDR / 8 * 8 → dom = wholeHolder s.dev.live T →
    hdr = s.mem.bytes a 0x2C0 → held = (s.dev.storeHeld dom (a : Int) 0x2C0 && s.dev.storeHeld dom (a : Int) (imgLen hdr)) → bs = (if held then s.mem.bytes a (imgLen hdr) else hdr) →
    (∀ r, r = s.dev.loadCheck T e.ldPatch bs held → r ≠ 0 → Does (.loadEnd T) s (s.dev.setEng T { e with st := .offline, ldBusy := false, ldResult := r })) ∧
    (s.dev.loadCheck T e.ldPatch bs held = 0 → imgKind bs ≠ 3 → imgSealed bs = false → ∀ body, body = (bs.drop 0x2C0).take (imgBodyLen bs) →
      Stores (.loadEnd T) s (s.dev.startInit T (imgState bs e.img) ((imgWords bs body).foldl (fun t x => Tab.set t x.1 x.2) []))
        [.pantry T (imgField bs 0x24 4) ((body.drop (imgWordsLen bs)).take (imgPdLen bs))])) ∧
  (∀ old, (∀ x ∈ Tab.get? s.dev.mig old, x.2.2 ≠ 0 ∨ (Tab.get s.dev.fin {} x.1).held = false ∨ s.dev.oldSettled old = false) → Does (.migrationHandoff old) s s.dev) ∧
  (∀ old new t, Tab.get? s.dev.mig old = some (new, t, 0) → (Tab.get s.dev.fin {} new).held = true → s.dev.oldSettled old = true →
    Does (.migrationHandoff old) s { s.dev with
      fin := Tab.set s.dev.fin new { Tab.get s.dev.finOld {} old with held := false }, finOld := if s.dev.regs.retiring = none then Tab.del s.dev.finOld old else s.dev.finOld
      srcFrame := (match Tab.get? s.dev.srcFrame old with | some x => Tab.set s.dev.srcFrame new x | none => s.dev.srcFrame) })

end

namespace Sys2Proof.Machine

/-- The pulse wakes nothing: the device is not in SLEEP, or no entry of HIRQ_WAKE matches (R395). -/
def quiet (d : Dev) (id : Nat) : Prop := d.pwr.st = .sleep → d.wakeMatch id = false

/-- The message of a vector: the address and the data its table entry holds (R131). -/
def Dev.vectorSays (d : Dev) (f v : Nat) : Output :=
  .msix f v ((d.msixWord f (4 * v)).toNat + (d.msixWord f (4 * v + 1)).toNat * 2 ^ 32) (d.msixWord f (4 * v + 2))

/-- A message goes out, or stays pending while its vector is masked (R393). -/
def Dev.sends (d : Dev) (f v : Nat) : Dev :=
  if fget (d.msixWord f (4 * v + 3)) ⟨0, 1⟩ = 0 then { d with out := d.vectorSays f v :: d.out } else { d with msixPend := Tab.set d.msixPend (f * 2048 + v) 1 }

/-- The house controller's own counter takes one; the quadrants' are in their records (R406). -/
def Dev.houseCounts (d : Dev) (ctl a : Nat) (f : Fld) : Dev := if ctl = 4 then d.incIm a f 1 else d

/-- The function of the next message: the next enabled one of FMASK after the last one used for the domain (R391). -/
def nextIs (d : Dev) (ctl dom f : Nat) : Prop :=
  ∀ en, en = d.enabledOf (fget (irqWord d ctl dom) F.QIRQ_DOM_FMASK) → (en.filter (fun g => decide (Tab.get d.irqLast 0 (ctl * 257 + dom) ≤ g)) ++ en).head? = some f

/-- The message of a class, and its window (R390, R391). -/
def Dev.messaged (d : Dev) (ctl dom cls f : Nat) : Dev :=
  let w := irqWord d ctl dom;
  { (d.sends f (fget w F.QIRQ_DOM_VBASE + cls)).houseCounts ctl A.HIRQ_MSGS F.HIRQ_MSGS_COUNT with
    irqLast := Tab.set d.irqLast (ctl * 257 + dom) (f + 1)
    irq := Tab.set d.irq (irqKey ctl dom cls) { d.irqOf ctl dom cls with
      st := if fget w F.QIRQ_DOM_MASK_W = 0 then .idle else .hold, winEnd := d.now + fget w F.QIRQ_DOM_MASK_W * usTU } }

/-- No function of FMASK is enabled: the class waits (R391, R396). -/
def Dev.targetless (d : Dev) (ctl dom cls : Nat) : Dev :=
  (d.houseCounts ctl A.HIRQ_NOTGT F.HIRQ_NOTGT_COUNT).setIrq ctl dom cls { d.irqOf ctl dom cls with st := .waiting, ntEpoch := d.sq.num + 1 }

/-- What a controller does with a pulse of a class of a domain, once it has left the fabric (R390, R391, R392, R396). -/
def Notes (i : Instr) (s : State) (l : List FabEntry) (ctl dom cls : Nat) : Prop :=
  ∀ x, x = s.dev.irqOf ctl dom cls →
  (x.st = .idle → ∀ f, nextIs s.dev ctl dom f → DoesAnd i s (s.dev.messaged ctl dom cls f) (fun u => u.fabric = l)) ∧
  (x.st = .idle → s.dev.enabledOf (fget (irqWord s.dev ctl dom) F.QIRQ_DOM_FMASK) = [] → DoesAnd i s (s.dev.targetless ctl dom cls) (fun u =>
    (∀ e ∈ l, e ∈ u.fabric) ∧ (x.ntEpoch ≠ s.dev.sq.num + 1 → u.carries ⟨(if ctl < 4 then ctl else 0) * 0x4000 + 0x2200, s.dev.now, (dom + cls * 512) % 2 ^ 32⟩))) ∧
  (x.st = .waiting ∨ x.st = .holdPend → DoesAnd i s s.dev (fun u => u.fabric = l)) ∧
  (x.st = .hold → DoesAnd i s (s.dev.setIrq ctl dom cls { x with st := .holdPend }) (fun u => u.fabric = l))

end Sys2Proof.Machine

section
open Sys2Proof Sys2Proof.Machine

/-- R324, R387, R388, R389: a tile controller sends a pulse to the engine's inbox, to its quadrant controller, to both or to neither, as its source's TGT says; a subscription's copy enters with index 0xFF;
an inactive engine's copy is counted and discarded, a full or gated engine holds its own, and a host copy never waits for it. -/
def Obligations.TileControllersRoute : Prop := ∀ (s : State) (T src : Nat) (p : Pulse) (em : Option Nat) (held : Bool) (l : List FabEntry), Awake s → quiet s.dev p.id →
  ∀ e, e = s.dev.engOf T → ∀ d1, d1 = s.dev.incIm (A.TIRQ_DROP T) F.TIRQ_DROP_COUNT 1 → ∀ dropped, dropped = (if e.dropEpoch = s.dev.sq.num + 1 then d1 else d1.setEng T { e with dropEpoch := s.dev.sq.num + 1 }) →
  ∀ drops : Dev → Prop, (∀ u, drops u ↔ (e.dropEpoch ≠ s.dev.sq.num + 1 → u.carries ⟨(if T < 256 then T / 64 else T - 256) * 0x4000 + 0x2201, s.dev.now, T % 2 ^ 32⟩)) →
  ∀ takes, takes = (!s.dev.engGated T && s.dev.inboxRoom T (inboxDom s.dev p)) →
  (s.dev.fabric = ⟨p, .ctl, src, em, held⟩ :: l → idTile p.id = some T → ∀ t, t = tgtOf (s.dev.viewAt p.stamp) T p →
    ∀ host : List FabEntry, host = (if 2 ≤ t then [⟨p, .host, 1300 + T, em, held⟩] else []) →
    (t % 2 = 0 → DoesAnd (.tilePulseAccept T) s s.dev (fun u => u.fabric = l ++ host)) ∧
    (t % 2 = 1 → s.dev.engInactive T = true → DoesAnd (.tilePulseAccept T) s dropped (fun u => (∀ x ∈ l ++ host, x ∈ u.fabric) ∧ drops u)) ∧
    (t % 2 = 1 → s.dev.engInactive T = false → takes = true →
      DoesAnd (.tilePulseAccept T) s (s.dev.setEng T { e with inbox := e.inbox ++ [⟨p, inboxDom s.dev p, dispIdx p, chanIdx p, false⟩] }) (fun u => u.fabric = l ++ host)) ∧
    (t = 3 → s.dev.engInactive T = false → takes = false → DoesAnd (.tilePulseAccept T) s s.dev (fun u => u.fabric = ⟨p, .eng T, src, em, held⟩ :: (l ++ host))) ∧
    (t = 1 → s.dev.engInactive T = false → takes = false → (∀ x ∈ l, Dest.forTile T x = false) →
      DoesAnd (.tilePulseAccept T) s s.dev (fun u => u.fabric = ⟨p, .ctl, src, em, held || !s.dev.engGated T⟩ :: l))) ∧
  (∀ dst, dst = .sub T ∨ dst = .eng T → s.dev.fabric = ⟨p, dst, src, em, held⟩ :: l →
    (s.dev.engInactive T = true → DoesAnd (.tilePulseAccept T) s dropped (fun u => (∀ x ∈ l, x ∈ u.fabric) ∧ drops u)) ∧
    (s.dev.engInactive T = false → takes = true → DoesAnd (.tilePulseAccept T) s (s.dev.setEng T { e with
      inbox := e.inbox ++ [if dst = .sub T then ⟨p, inboxDom s.dev p, 0xFF, 0xFF, false⟩ else ⟨p, inboxDom s.dev p, dispIdx p, chanIdx p, false⟩] }) (fun u => u.fabric = l))) ∧
  ((∀ x ∈ s.dev.fabric, Dest.forTile T x = false) → Does (.tilePulseAccept T) s s.dev)

/-- R390, R391, R392, R393, R394, R395, R396: quadrant and house controllers turn pulses into messages of their domain's word, with one window per class; privileged pulses go at once to every enabled
function; a window's end, a function enabled and a vector unmasked send what waits; in SLEEP a matching pulse wakes the device. -/
def Obligations.ControllersSendMessages : Prop := ∀ (s : State), Awake s →
  (∀ q src p em held l dst, quiet s.dev p.id → s.dev.fabric = ⟨p, dst, src, em, held⟩ :: l → idQuad p.id = q → dst = .host ∨ dst = .ctl ∧ 0x2100 ≤ idLocal p.id ∧ idLocal p.id < 0x2300 →
    ∀ dom, dom = (if pulseDom s.dev p em ≤ 0x100 then pulseDom s.dev p em else houseDom) → Notes (.quadrantPulseAccept q) s l q dom (quadClass p.id)) ∧
  (∀ src p em held l, quiet s.dev p.id → s.dev.fabric = ⟨p, .ctl, src, em, held⟩ :: l → 0x3000 ≤ idLocal p.id → privileged p.id = false →
    Notes .housePulseAccept s l 4 (pulseDom s.dev p em) (idLocal p.id / 256 % 8)) ∧
  (∀ src p em held l, quiet s.dev p.id → s.dev.fabric = ⟨p, .ctl, src, em, held⟩ :: l → 0x3000 ≤ idLocal p.id → privileged p.id = true →
    ∀ fs, fs = s.dev.enabledOf (s.dev.lv A.HIRQ_PRIV F.HIRQ_PRIV_PMASK) →
    (fs = [] → DoesAnd .privilegedPulse s (s.dev.houseCounts 4 A.HIRQ_NOTGT F.HIRQ_NOTGT_COUNT) (fun u => u.fabric = l)) ∧
    (fs ≠ [] → DoesAnd .privilegedPulse s (fs.foldl (fun d f => (d.sends f (s.dev.lv A.HIRQ_PRIV F.HIRQ_PRIV_PVEC)).houseCounts 4 A.HIRQ_MSGS F.HIRQ_MSGS_COUNT) s.dev)
      (fun u => u.fabric = l))) ∧
  (∀ src p em held l i, s.dev.pwr.st = .sleep → s.dev.wakeMatch p.id = true → s.dev.fabric = ⟨p, .ctl, src, em, held⟩ :: l →
    i = .housePulseAccept ∧ 0x3000 ≤ idLocal p.id ∧ privileged p.id = false ∨ i = .privilegedPulse ∧ 0x3000 ≤ idLocal p.id ∧ privileged p.id = true ∨
      (∃ q, i = .quadrantPulseAccept q ∧ idQuad p.id = q ∧ 0x2100 ≤ idLocal p.id ∧ idLocal p.id < 0x2300) →
    Completes i s (fun t => t.dev.pwr = { s.dev.pwr with st := .run, req := none, govQ := t.dev.pwr.govQ } ∧ t.dev.carries ⟨0x3511, s.dev.now, 1⟩ ∧ t.dev.carries ⟨0x3510, s.dev.now, 0⟩)) ∧
  (∀ ctl dom cls x, x = s.dev.irqOf ctl dom cls →
    (x.st = .idle ∨ x.st = .waiting → Does (.maskWindowEnd ctl dom cls) s s.dev) ∧
    (x.st = .hold → Does (.maskWindowEnd ctl dom cls) s ((s.dev.advanceTo x.winEnd).setIrq ctl dom cls { x with st := .idle })) ∧
    (x.st = .holdPend → ∀ f, nextIs s.dev ctl dom f → Does (.maskWindowEnd ctl dom cls) s ((s.dev.advanceTo x.winEnd).messaged ctl dom cls f)) ∧
    (x.st = .holdPend → s.dev.enabledOf (fget (irqWord s.dev ctl dom) F.QIRQ_DOM_FMASK) = [] →
      Does (.maskWindowEnd ctl dom cls) s ((s.dev.advanceTo x.winEnd).targetless ctl dom cls))) ∧
  (∀ f bme msix hot x, x = Tab.get s.dev.pcie {} f → ∀ d, d = ({ s.dev with pcie := Tab.set s.dev.pcie f { x with d3hot := x.d3hot || hot } }.setIm
      (A.HPCI_FUNC f) F.HPCI_FUNC_BME (b2n bme)).setIm (A.HPCI_FUNC f) F.HPCI_FUNC_MSIX_EN (b2n msix) →
    Completes (.functionEnable f ⟨bme, hot⟩ msix) s (fun u => u.dev.pcie = d.pcie ∧ u.dev.im (A.HPCI_FUNC f) F.HPCI_FUNC_BME = b2n bme ∧
      u.dev.im (A.HPCI_FUNC f) F.HPCI_FUNC_MSIX_EN = b2n msix) ∧
    ((∀ e ∈ s.dev.irq, (Tab.get s.dev.irq {} e.1).st ≠ .waiting) → Does (.functionEnable f ⟨bme, hot⟩ msix) s d) ∧
    (∀ ctl dom cls x, dom < 257 → cls < 8 → s.dev.irq = [(irqKey ctl dom cls, x)] → x.st = .waiting →
      (∀ g, nextIs d ctl dom g → Does (.functionEnable f ⟨bme, hot⟩ msix) s (d.messaged ctl dom cls g)) ∧
      (d.enabledOf (fget (irqWord d ctl dom) F.QIRQ_DOM_FMASK) = [] → Does (.functionEnable f ⟨bme, hot⟩ msix) s d))) ∧
  (∀ f dw v, (8192 ≤ dw → Does (.vectorUnmask f ⟨dw, v⟩) s s.dev) ∧
    (dw < 8192 → ∀ k, k = f * 2048 + dw / 4 → ∀ d : Dev, d = { s.dev with msixTab := Tab.set s.dev.msixTab (8192 * f + dw) (if dw % 4 = 3 then v &&& 1 else v) } →
    ∀ open_, open_ = (fget (d.msixWord f (4 * (dw / 4) + 3)) ⟨0, 1⟩ = 0) →
    (open_ → Tab.get s.dev.msixPend 0 k = 1 →
      Does (.vectorUnmask f ⟨dw, v⟩) s { d with msixPend := Tab.del s.dev.msixPend k, out := d.vectorSays f (dw / 4) :: s.dev.out }) ∧
    (¬ open_ ∨ Tab.get s.dev.msixPend 0 k ≠ 1 → Does (.vectorUnmask f ⟨dw, v⟩) s d)))

end

namespace Sys2Proof.Machine

/-- R363, R364: GIVE of a bank that may go takes it from its holder and starts its scrub, and any other is refused and counted; the scrub's end zeroes the bank, hands it to the target and tells. -/
def BanksChangeHands : Prop := ∀ (s : State) (m b : Nat) (v : Word), Awake s → ∀ x, x = s.dev.bankOf b → ∀ w, w = v ||| 0x10000000#32 →
  ∀ tgt, tgt = fget w F.QMEM_BANK_TARGET → ∀ may, may = (x.pool.isNone && !(s.dev.pendingPool b) && (x.st == .held) && decide (tgt ≤ 0x100)) →
  (Reaches m (A.QMEM_BANK b) s →
    (may = true → Does (.bankGive m b v) s (s.dev.wrote m fun d => d.setBank b { x with
      refused := x.refused && fget w F.QMEM_BANK_REFUSED == 0, holder := 0x1FF, st := .scrubbing, target := tgt, noscrub := fget w F.QMEM_BANK_NOSCRUB == 1 })) ∧
    (may = false → Does (.bankGive m b v) s (s.dev.wrote m fun d => d.setBank b { x with refused := true }))) ∧
  (x.st ≠ .scrubbing → Does (.scrubComplete b) s s.dev) ∧
  (x.st = .scrubbing → Completes (.scrubComplete b) s (fun t => t.pending = s.pending ∧ t.dev.agrees (s.dev.setBank b { x with holder := x.target, st := .held }) ∧
    t.mem.pantry = s.mem.pantry ∧ (∀ a, t.mem.byte a = if x.noscrub = false ∧ a / 2 ^ 18 = b then 0 else s.mem.byte a) ∧
    (s.dev.evEn (qmemPage (b / 512)) 3 = true → t.dev.carries ⟨storeId (b / 512) 3, s.dev.now, (b % 512 + x.target * 512) % 2 ^ 32⟩)))

end Sys2Proof.Machine

section
open Sys2Proof Sys2Proof.Machine

/-- R372: one March test runs at a time in a quadrant or a tile; a destructive one needs a free bank of the house, or a tile that is OFFLINE or STOPPED; its end shows what failed, tells, and leaves a destructive
test's memory zero. -/
def Obligations.MemoryTestsRun : Prop := ∀ (s : State) (m : Nat) (v : Word), Awake s →
  (∀ q, ∀ w, w = v ||| 0x400#32 → ∀ b pres, b = 512 * q + fget w F.QMEM_MTCMD_BANK → pres = (fget w F.QMEM_MTCMD_PRESERVE == 1) → ∀ x, x = s.dev.bankOf b →
    ∀ may, may = (!(Tab.get s.dev.btest {} q).running && (pres || (x.holder == houseDom && x.pool.isNone && x.st == .held))) → Reaches m (A.QMEM_MTCMD q) s →
    (may = true → ∀ f : Dev → Dev, (∀ d, f d = (({ d with btest := Tab.set d.btest q ⟨true, b, pres⟩ } : Dev).setImmW (A.QMEM_MTSTAT q) 1#32).setImmW (A.QMEM_MTADDR q) 0) →
      (pres = true → Does (.bankTestGo m q v) s (s.dev.wrote m f)) ∧
      (pres = false → Does (.bankTestGo m q v) s (s.dev.wrote m fun d => (f d).setBank b { x with holder := 0x1FF, st := .testing }))) ∧
    (may = false → Does (.bankTestGo m q v) s (s.dev.wrote m id))) ∧
  (∀ q fails t, t = Tab.get s.dev.btest {} q →
    (t.running = false → Does (.bankTestEnd q fails) s s.dev) ∧
    (t.running = true → ∀ d : Dev, d = (({ s.dev with btest := Tab.set s.dev.btest q { t with running := false } } : Dev).setImmW (A.QMEM_MTSTAT q)
        (BitVec.ofNat 32 ((if fails = [] then 2 else 3) + min fails.length (2 ^ 16 - 1) * 2 ^ 16))).setImmW (A.QMEM_MTADDR q) (BitVec.ofNat 32 (fails.headD 0 % 2 ^ 29)) →
      Completes (.bankTestEnd q fails) s (fun u => u.pending = s.pending ∧ u.mem.pantry = s.mem.pantry ∧
        (t.preserve = true → u.dev.agrees d) ∧ (t.preserve = false → u.dev.agrees (d.setBank t.bank { s.dev.bankOf t.bank with holder := houseDom, st := .held })) ∧
        (∀ a, u.mem.byte a = if t.preserve = false ∧ a / 2 ^ 18 = t.bank then 0 else s.mem.byte a) ∧
        (s.dev.evEn (qmemPage q) 4 = true → u.dev.carries ⟨storeId q 4, s.dev.now, ((if fails = [] then 0 else 1) + t.bank % 512 * 2) % 2 ^ 32⟩)))) ∧
  (∀ T, ∀ w, w = v ||| 1#32 → ∀ pres, pres = (fget w F.TPAN_MTCMD_PRESERVE == 1) → Reaches m (A.TPAN_MTCMD T) s →
    ∀ may, may = (!(Tab.get s.dev.ptest {} T).running && (pres || (s.dev.engOf T).st == .offline || (s.dev.engOf T).st == .stopped)) →
    (may = true → Does (.pantryTestGo m T v) s (s.dev.wrote m fun d => ({ d with ptest := Tab.set d.ptest T ⟨true, 0, pres⟩ } : Dev).setImmW (A.TPAN_MTSTAT T) 1#32)) ∧
    (may = false → Does (.pantryTestGo m T v) s (s.dev.wrote m id))) ∧
  (∀ T fails t, t = Tab.get s.dev.ptest {} T →
    (t.running = false → Does (.pantryTestEnd T fails) s s.dev) ∧
    (t.running = true → Completes (.pantryTestEnd T fails) s (fun u => u.pending = s.pending ∧ u.mem.store = s.mem.store ∧
      u.dev.agrees (({ s.dev with ptest := Tab.set s.dev.ptest T { t with running := false } } : Dev).setImmW (A.TPAN_MTSTAT T)
        (BitVec.ofNat 32 ((if fails = [] then 2 else 3) + fails.headD 0 % 2 ^ 18 * 4 + min fails.length (2 ^ 12 - 1) * 2 ^ 20))) ∧
      (∀ T' p, p < 2 ^ 18 → u.mem.pbyte T' p = if t.preserve = false ∧ T' = T then 0 else s.mem.pbyte T' p) ∧
      (s.dev.evEn (qmemPage (tileQuad T)) 4 = true → u.dev.carries ⟨storeId (tileQuad T) 4, s.dev.now, (if fails = [] then 0 else 1) + 0x3FE⟩))))

end

namespace Sys2Proof.Machine

/-- R313, R370, R371: the host pantry port: a read latches the eight bytes at the master's PADDR and answers the low half, a write stores both halves as one word; a byte that is not the master's reads 0 and
refuses the write, and while the tile is down a read answers 0. -/
def PantryPort : Prop := ∀ (s : State) (m T : Nat) (v : Word), Awake s → ∀ p, p = s.dev.per (A.TPAN_PADDR T) m F.TPAN_PADDR_ADDR * 8 →
  (s.dev.panDown T = false → s.dev.panQual m T p = true → ∀ x, x = leNat (s.mem.pbytes T p 8) →
    Does (.pantryRead m T) s ((s.dev.setPerW (A.TPAN_PDATA1 T) m (BitVec.ofNat 32 (x / 2 ^ 32))).emit (.readData m [x % 2 ^ 32]))) ∧
  (s.dev.panDown T = true ∨ s.dev.panQual m T p = false → Does (.pantryRead m T) s ((s.dev.setPerW (A.TPAN_PDATA1 T) m 0).emit (.readData m [0]))) ∧
  (s.dev.panDown T = false → s.dev.panQual m T p = true → Reaches m (A.TPAN_PDATA1 T) s →
    Stores (.pantryWrite m T v) s (s.dev.wrote m id) [.pantry T p (leBytes 4 (s.dev.perW (A.TPAN_PDATA0 T) m).toNat ++ leBytes 4 v.toNat)]) ∧
  (s.dev.panQual m T p = false → m < 6 → s.dev.sq.refusedM.contains m = true →
    Does (.pantryWrite m T v) s ((s.dev.post m).incIm (A.HOWN_WREFUSED m) F.HOWN_WREFUSED_COUNT 1)) ∧
  (s.dev.panQual m T p = false → m < 6 → s.dev.sq.refusedM.contains m = false → ∀ d : Dev,
    d = (s.dev.post m).incIm (A.HOWN_WREFUSED m) F.HOWN_WREFUSED_COUNT 1 →
    Tells (.pantryWrite m T v) s { d with sq := { d.sq with refusedM := m :: d.sq.refusedM } } pgHOWN 0x3405 m)

end Sys2Proof.Machine

section
open Sys2Proof Sys2Proof.Machine

/-- Reads that clear or latch, the host pantry port, and pins and reads of the snapshots. -/
def Obligations.ReadsLatchAndClear : Prop := ReadsThatClear ∧ LatchingReads ∧ SnapshotPinsAndReads ∧ PantryPort

end

namespace Sys2Proof.Machine

/-- The channel executes the instruction `i` it stands at, whose OP is `op` (R374, R375). -/
def runsDma (s : State) (c op : Nat) (i : DmaInstr) : Prop :=
  let x := s.dev.dmaOf c;
  x.st = .run ∧ x.regMode = false ∧ x.move = none ∧ s.dev.storeHeld x.dom (s.dev.dmaPc c : Nat) 32 = true ∧ i = dmaFetch s.mem (s.dev.dmaPc c) ∧ i.ok = true ∧ i.op = op

/-- The channel stopped with a fault, or starting a program or a register-mode move; it has its instruction behind it. -/
def Dma.faulted (x : Dma) (code : Nat) : Dma := { x with st := .fault, fault := code, move := none, waitId := none, waitT := none, waitTimeout := none }
def Dev.dmaFresh (d : Dev) (c : Nat) (reg : Bool) : Dma :=
  { d.dmaOf c with st := .run, regMode := reg, index := 0, ctrs := [], crc := crcInit (d.lv (A.DMA_CFG c) F.DMA_CFG_POLY), bytes := 0, move := none, dom := dmaHolder d.live c }
def Dma.past (x : Dma) : Dma := { x with st := .run, index := x.index + 1 }

/-- The channel's pulse `j` goes out when EV_EN enables it (R378). -/
def dmaTells (d : Dev) (c j arg : Nat) (u : Dev) : Prop := d.evEn (dmaPage c) j = true → u.carries ⟨dmaId c j, d.now, (j + arg * 256) % 2 ^ 32⟩

/-- The argument of a FAULT pulse. -/
def Dma.faultArg (x : Dma) (code : Nat) : Nat := code + (if x.regMode then 0xFFFF else x.index % 65536) * 256

/-- A side of a move that lies in the media store, or in a pantry whose tile is online (R374, R462). -/
def sideUp (d : Dev) (space : Nat) : Prop := space < 2 ^ 11 ∧ (space % 4 = 0 ∨ space % 4 = 1 ∧ d.tileDown (space / 4) = false)
def sideBytes (mem : Mem) (space a n : Nat) : List Byte := if space % 4 = 0 then mem.bytes a n else mem.pbytes (space / 4) a n
def sideOp (space a : Nat) (bs : List Byte) : MemOp := if space % 4 = 0 then .store a bs else .pantry (space / 4) a bs

/-- The rows of a move in ascending order: what they write, and the running check register (R375, R376, R377). -/
def moveRun (mv : DmaMove) (chk : Bool) (poly : Nat) : List Nat → Mem → Nat → List MemOp × Nat
  | [], _, crc => ([], crc)
  | r :: l, mem, crc =>
    let bs := sideBytes mem mv.srcSpace (((mv.srcOff : Int) + (r : Int) * mv.srcStride) % 2 ^ 32).toNat mv.rowBytes;
    let op := sideOp mv.dstSpace (((mv.dstOff : Int) + (r : Int) * mv.dstStride) % 2 ^ 32).toNat bs;
    let rest := moveRun mv chk poly l (mem.run1 op) (if chk then crcRun poly crc bs else crc);
    (op :: rest.1, rest.2)

end Sys2Proof.Machine

section
open Sys2Proof Sys2Proof.Machine

/-- R373, R374, R375, R378, R379, R382: RUN starts the program, REGGO its one move, unless the channel is busy; STOP ends a busy channel with a fault; the program's instructions act, each when its bytes are
held and well formed, and the channel goes on or faults. -/
def Obligations.DmaProgramsRun : Prop := ∀ (s : State) (m c : Nat), Awake s → ∀ x, x = s.dev.dmaOf c →
  (Reaches m (A.DMA_CMD c) s →
    (x.busy = false → Does (.dmaRun m c) s (s.dev.wrote m fun d => d.setDma c (s.dev.dmaFresh c false)) ∧ Does (.dmaStop m c) s (s.dev.wrote m id) ∧
      ∀ y mv, y = s.dev.dmaFresh c true → mv = s.dev.regMove c → ∀ f, f = (if mv.rowBytes = 0 then 1 else s.dev.moveFault y.dom mv) →
        (f = 0 → Does (.dmaReggo m c) s (s.dev.wrote m fun d => d.setDma c { y with move := some mv })) ∧
        (f ≠ 0 → DoesAnd (.dmaReggo m c) s (s.dev.wrote m fun d => d.setDma c (y.faulted f)) (dmaTells s.dev c 7 (y.faultArg f)))) ∧
    (x.busy = true → Does (.dmaRun m c) s (s.dev.wrote m id) ∧ Does (.dmaReggo m c) s (s.dev.wrote m id) ∧
      DoesAnd (.dmaStop m c) s (s.dev.wrote m fun d => d.setDma c (x.faulted 9)) (dmaTells s.dev c 7 (x.faultArg 9)))) ∧
  (∀ i, i ∈ [Instr.dmaMove c, .dmaLoop c, .dmaWait c, .dmaSignal c, .dmaEnd c] →
    (x.st ≠ .run ∨ x.regMode = true ∨ x.move.isSome = true → Does i s s.dev) ∧
    (x.st = .run → x.regMode = false → x.move = none → s.dev.storeHeld x.dom (s.dev.dmaPc c : Nat) 32 = false →
      DoesAnd i s (s.dev.setDma c (x.faulted 0x0A)) (dmaTells s.dev c 7 (x.faultArg 0x0A))) ∧
    (x.st = .run → x.regMode = false → x.move = none → s.dev.storeHeld x.dom (s.dev.dmaPc c : Nat) 32 = true → (dmaFetch s.mem (s.dev.dmaPc c)).ok = false →
      DoesAnd i s (s.dev.setDma c (x.faulted 1)) (dmaTells s.dev c 7 (x.faultArg 1)))) ∧
  (∀ i, runsDma s c 1 i → ∀ f, f = s.dev.moveFault x.dom i.move → (f = 0 → Does (.dmaMove c) s (s.dev.setDma c { x with move := some i.move })) ∧
    (f ≠ 0 → DoesAnd (.dmaMove c) s (s.dev.setDma c (x.faulted f)) (dmaTells s.dev c 7 (x.faultArg f)))) ∧
  (∀ i, runsDma s c 2 i → ∀ n, n = (Tab.get? x.ctrs i.kind).getD (i.w 1 - 1) →
    (n = 0 → Does (.dmaLoop c) s (s.dev.setDma c { x.past with ctrs := Tab.del x.ctrs i.kind })) ∧
    (n ≠ 0 → Does (.dmaLoop c) s (s.dev.setDma c { x with ctrs := Tab.set x.ctrs i.kind (n - 1), index := i.w 2 }))) ∧
  (∀ i, runsDma s c 3 i →
    (i.kind = 0 → Does (.dmaWait c) s (s.dev.setDma c { x with st := .wait, waitT := some (unshort s.dev.now (i.w 2 + i.w 3 * 2 ^ 32)) })) ∧
    (i.kind = 1 → Does (.dmaWait c) s (s.dev.setDma c { x with
      st := .wait, waitId := some (i.w 1), waitTimeout := if i.w 6 = 0 then none else some (s.dev.now + i.w 6 * usTU) })) ∧
    (i.kind = 2 → Does (.dmaWait c) s (s.dev.setDma c { x with st := .wait, waitT := some (s.dev.now + i.w 1 * nsTU) }))) ∧
  (x.st ≠ .wait → Does (.dmaWaitEnd c) s s.dev) ∧
  (x.st = .wait → ∀ y : Dma, y = { x.past with waitId := none, waitT := none, waitTimeout := none } → ∀ heard : Prop, (heard ↔ ∃ e ∈ s.dev.fabric, e.dest = .dma c) →
    (∀ t, x.waitT = some t → Does (.dmaWaitEnd c) s ((s.dev.advanceTo t).setDma c y)) ∧
    (x.waitT = none → heard → Does (.dmaWaitEnd c) s (s.dev.setDma c y)) ∧
    (x.waitT = none → ¬ heard → x.waitTimeout = none → Does (.dmaWaitEnd c) s s.dev) ∧
    (∀ t, x.waitT = none → ¬ heard → x.waitTimeout = some t → DoesAnd (.dmaWaitEnd c) s ((s.dev.advanceTo t).setDma c (x.faulted 6))
      (dmaTells (s.dev.advanceTo t) c 7 (x.faultArg 6)))) ∧
  (∀ i, runsDma s c 4 i → DoesAnd (.dmaSignal c) s (s.dev.setDma c x.past) (dmaTells s.dev c (i.w 0 / 16 % 8) (i.w 1 / 256)))

/-- R374, R376, R377, R378, R379, R462: a move copies its rows in order and carries the check value on; at END, or at the end of register mode, the check value goes to DMA_CHK and, when asked, to memory
or registers, and DONE is told; with CHK_EN = 0 the value told is free (log entry 2). -/
def Obligations.DmaMovesComplete : Prop := ∀ (s : State) (c : Nat), Awake s → ∀ x, x = s.dev.dmaOf c → ∀ poly, poly = s.dev.lv (A.DMA_CFG c) F.DMA_CFG_POLY →
  ∀ en, en = s.dev.lvb (A.DMA_CFG c) F.DMA_CFG_CHK_EN → ∀ done : Dma → Nat → Dma, (∀ y v, done y v = { y with st := .idle, move := none, chk := if en then v else y.chk }) →
  ∀ value : Nat → Nat, (∀ crc, value crc = if en then crcOut poly crc else (Config.freeValue s.dev.free).toNat) → ∀ drawn : Dev → Dev, (∀ d, drawn d = if en then d else { d with free := d.free + 1 }) →
  (x.move = none → Does (.dmaMoveComplete c) s s.dev) ∧
  (∀ mv, x.move = some mv → sideUp s.dev mv.srcSpace → sideUp s.dev mv.dstSpace → ∀ ops crc, moveRun mv (en && !mv.nochk) poly (List.range mv.rows) s.mem x.crc = (ops, crc) →
    ∀ y : Dma, y = { x with move := none, crc := crc, bytes := min (x.bytes + mv.rows * mv.rowBytes) (2 ^ 32 - 1) } →
    (x.regMode = false → Stores (.dmaMoveComplete c) s (s.dev.setDma c y.past) ops) ∧
    (x.regMode = true → Completes (.dmaMoveComplete c) s (fun t => t.pending = s.pending ∧ t.mem = s.mem.run ops ∧
      t.dev.agrees ((drawn s.dev).setDma c (done y (value crc))) ∧ dmaTells s.dev c 6 (value crc % 2 ^ 24) t.dev))) ∧
  (∀ mv, x.move = some mv → x.regMode = false → mv.rows = 1 → mv.rowBytes = 4 → ∀ from_ to_, from_ = mv.srcOff % 2 ^ 32 → to_ = mv.dstOff % 2 ^ 32 → ∀ y : Dma, y = { x with move := none, bytes := min (x.bytes + 4) (2 ^ 32 - 1) } →
    (∀ d' v, mv.srcSpace % 4 = 2 → mv.srcSpace < 2 ^ 11 → sideUp s.dev mv.dstSpace → s.dev.downAt from_ = false → s.dev.domRead x.dom (dmaReader c) from_ s.mem = (d', v) →
      d'.dmaOf c = x → d'.pwr.inReset = false → ∀ bs, bs = leBytes 4 v →
      Stores (.dmaMoveComplete c) s (d'.setDma c { y.past with crc := if en && !mv.nochk then crcRun poly x.crc bs else x.crc }) [sideOp mv.dstSpace to_ bs]) ∧
    (∀ d' ops bs, mv.dstSpace % 4 = 2 → mv.dstSpace < 2 ^ 11 → sideUp s.dev mv.srcSpace → s.dev.downAt to_ = false → bs = sideBytes s.mem mv.srcSpace from_ 4 →
      s.dev.domWrite x.dom (dmaReader c) to_ (BitVec.ofNat 32 (leNat bs)) s.mem = (d', ops) → d'.dmaOf c = x → d'.pwr.inReset = false →
      Stores (.dmaMoveComplete c) s (d'.setDma c { y.past with crc := if en && !mv.nochk then crcRun poly x.crc bs else x.crc }) ops)) ∧
  (∀ mv T, x.move = some mv → 0 < mv.rows → mv.srcSpace = 1 + 4 * T ∨ mv.dstSpace = 1 + 4 * T → T < 512 → s.dev.tileDown T = true →
    DoesAnd (.dmaMoveComplete c) s (s.dev.setDma c (x.faulted 7)) (dmaTells s.dev c 7 (x.faultArg 7))) ∧
  (∀ i, runsDma s c 5 i → ∀ v e, v = value x.crc → e = (drawn s.dev).setDma c (done x v) →
    (bitOf (i.w 0) 4 = false → DoesAnd (.dmaEnd c) s e (dmaTells s.dev c 6 (v % 2 ^ 24))) ∧
    (bitOf (i.w 0) 4 = true → ∀ f, f = s.dev.sideFault x.dom (i.w 2) (i.w 3) 0 1 8 true →
      (f ≠ 0 → DoesAnd (.dmaEnd c) s ((drawn s.dev).setDma c (x.faulted f)) (dmaTells s.dev c 7 (x.faultArg f))) ∧
      (f = 0 → sideUp s.dev (i.w 3) → Completes (.dmaEnd c) s (fun t => t.pending = s.pending ∧ t.mem = s.mem.run [sideOp (i.w 3) (i.w 2) (leBytes 8 v)] ∧
        t.dev.agrees e ∧ dmaTells s.dev c 6 (v % 2 ^ 24) t.dev)) ∧
      (f = 0 → s.dev.rowDown (i.w 3) (i.w 2) 8 = true → DoesAnd (.dmaEnd c) s ((drawn s.dev).setDma c (x.faulted 7)) (dmaTells s.dev c 7 (x.faultArg 7)))))

end

namespace Sys2Proof.Machine

/-- The check a scan starts with: 0, or the code it ends with (R399). -/
def Dev.scanFault (d : Dev) (c : Nat) : Nat :=
  let w := d.live; let dom := cvuHolder w c; let sp := w.f (A.CVU_CFG c) F.CVU_CFG_SPACE; let T := w.f (A.CVU_CFG c) F.CVU_CFG_T;
  let a := w.f (A.CVU_ADDR c) F.CVU_ADDR_ADDR; let n := w.f (A.CVU_LEN c) F.CVU_LEN_LEN;
  if sp = 0 then (if a % 8 ≠ 0 ∨ n % 8 ≠ 0 then 5 else if d.storeHeld dom (a : Int) n then 0 else 2)
  else if sp = 1 then (if a % 8 ≠ 0 ∨ n % 8 ≠ 0 then 5 else if d.panMine dom T (a : Int) n = false then 3 else if d.tileDown T then 7 else 0)
  else if a % (if sp = 2 then 16 else 8) ≠ 0 ∨ n % (if sp = 2 then 16 else 8) ≠ 0 then 5
  else if 260 ≤ T ∨ wholeHolder w T ≠ dom ∨ 131072 < a + n then 4 else if d.tileDown T then 7 else 0

/-- The unit's scan under the live settings, running or ended by its check. -/
def Dev.scanned (d : Dev) (c : Nat) : Cvu :=
  let w := d.live;
  let x := { d.cvuOf c with st := .scanning, poly := w.f (A.CVU_CFG c) F.CVU_CFG_POLY, space := w.f (A.CVU_CFG c) F.CVU_CFG_SPACE, tile := w.f (A.CVU_CFG c) F.CVU_CFG_T,
                            addr := w.f (A.CVU_ADDR c) F.CVU_ADDR_ADDR, len := w.f (A.CVU_LEN c) F.CVU_LEN_LEN, dom := cvuHolder w c, due := false };
  if d.scanFault c = 0 then x else { x with st := .idle, fault := d.scanFault c }

/-- The unit's pulse `j` goes out when EV_EN enables it (R405). -/
def cvuTells (d : Dev) (c j arg : Nat) (u : Dev) : Prop := d.evEn (cvuPage c) j = true → u.carries ⟨cvuId c j, d.now, arg * 256 % 2 ^ 32⟩

/-- R398, R399, R400, R401: GO and the triggers start a scan of the live settings, under its checks, unless one runs; STOP ends it; its end gives the check value of the bytes, compares it and tells. -/
def ScansRun : Prop := ∀ (s : State) (m c : Nat), Awake s → ∀ x, x = s.dev.cvuOf c → ∀ trig, trig = s.dev.lv (A.CVU_CFG c) F.CVU_CFG_TRIG →
  ∀ starts : Dev → Prop, (∀ u, starts u ↔ (s.dev.scanFault c ≠ 0 → cvuTells s.dev c 4 (s.dev.scanFault c) u)) →
  (Reaches m (A.CVU_CMD c) s →
    (x.st ≠ .scanning → trig = 0 ∨ trig = 2 → DoesAnd (.cvuGo m c) s (s.dev.wrote m fun d => d.setCvu c (s.dev.scanned c)) starts) ∧
    (x.st = .scanning ∨ trig ≠ 0 ∧ trig ≠ 2 → Does (.cvuGo m c) s (s.dev.wrote m id)) ∧
    (x.st = .scanning → DoesAnd (.cvuStop m c) s (s.dev.wrote m fun d => d.setCvu c { x with st := .idle, fault := 9 }) (cvuTells s.dev c 4 9)) ∧
    (x.st ≠ .scanning → Does (.cvuStop m c) s (s.dev.wrote m fun d => d.setCvu c { x with due := false }))) ∧
  (x.due = false → Does (.scanStart c) s s.dev) ∧
  (x.due = true → x.st = .scanning → Does (.scanStart c) s (s.dev.setCvu c { x with due := false })) ∧
  (x.due = true → x.st ≠ .scanning → DoesAnd (.scanStart c) s (s.dev.setCvu c (s.dev.scanned c)) starts) ∧
  (x.st ≠ .scanning → Does (.scanEnd c) s s.dev) ∧
  (x.st = .scanning → ∀ bs, bs = (if x.space = 0 then s.mem.bytes x.addr x.len else if x.space = 1 then s.mem.pbytes x.tile x.addr x.len else (s.dev.engOf x.tile).storeBytes x.addr x.len) →
    ∀ v, v = crcOf x.poly bs → ∀ expect, expect = (s.dev.live (A.CVU_EXP c 0)).toNat + (s.dev.live (A.CVU_EXP c 1)).toNat * 2 ^ 32 →
    ∀ differs, differs = (s.dev.live.b (A.CVU_CFG c) F.CVU_CFG_CMP_EN && v != expect) → ∀ d, d = s.dev.setCvu c { x with st := .idle, val := v, due := trig == 2 } →
    (differs = false → DoesAnd (.scanEnd c) s d (cvuTells s.dev c 0 (v % 2 ^ 24))) ∧
    (differs = true → DoesAnd (.scanEnd c) s (d.setIm (A.CVU_STAT c) F.CVU_STAT_MISMATCH 1) (fun u => cvuTells s.dev c 0 (v % 2 ^ 24) u ∧ cvuTells s.dev c 1 (v % 2 ^ 24) u)))

end Sys2Proof.Machine

section
open Sys2Proof Sys2Proof.Machine

/-- Banks change hands (with NOSCRUB at SCRUB_COMPLETE too: log entry 26), and scans run. -/
def Obligations.StoreChangesHands : Prop := BanksChangeHands ∧ ScansRun

end

namespace Sys2Proof.Machine

/-- A sequenced flit of the twin (R410). -/
def isFlit (seq ack : Nat) (i : Instr) : Prop :=
  (∃ x, i = .accessReceive seq ack x) ∨ (∃ m r v, i = .responseReceive seq ack m r v) ∨ (∃ a b c l, i = .preparedReceive seq ack a b c l) ∨
  (∃ a b, i = .decideReceive seq ack a b ∨ i = .decideAckReceive seq ack a b ∨ i = .refusedReceive seq ack a b ∨ i = .withdrawnReceive seq ack a b ∨ i = .abortReceive seq ack a b) ∨
  (∃ a b c, i = .twinFailReceive seq ack a b c) ∨ (∃ e l, i = .digestReceive seq ack e l) ∨ (∃ t x, i = .pinReceive seq ack t x) ∨ (∃ fc f, i = .xfeedReceive seq ack fc f) ∨
  (∃ m n c a, i = .faultReceive seq ack m n c a) ∨ (∃ e, i = .joinReqReceive seq ack e) ∨ (∃ l, i = .joinOkReceive seq ack l ∨ i = .pinStateReceive seq ack l) ∨
  i = .leaveReceive seq ack ∨ (∃ t l, i = .handoverReceive seq ack t l) ∨ (∃ t, i = .handoverAckReceive seq ack t)

/-- What a flit names of the replay buffer: how many flits lie before SEQ `seq`, when the buffer still holds what follows (R411). -/
def namesFlit (d : Dev) (seq n : Nat) : Prop :=
  d.zyn.replay = [] ∧ seq = d.zyn.txSeq ∧ n = 0 ∨ ∃ f l, d.zyn.replay = f :: l ∧ n = unsgn 16 ((seq : Int) - (f.seq : Int)) ∧ n ≤ l.length + 1

/-- The replay buffer from its `n`-th flit on is sent again, what is before leaves it (R411, R412). -/
def Dev.resent (d : Dev) (n : Nat) : Dev :=
  { d with zyn := { d.zyn with replay := d.zyn.replay.drop n }, out := ((d.zyn.replay.drop n).map (fun f => Output.flit f d.zyn.rxSeq)).reverse ++ d.out }

/-- Payloads whose loss does nothing more: no COMMIT flit, no access (R412). -/
def plain (d : Dev) : Prop := ∀ b ∈ d.zyn.replay.map (·.body) ++ d.zyn.waitq, flitPrio b ≠ 0 ∧ flitPrio b ≠ 4

/-- No commit waits for the twin's agreement. -/
def noneAgreeing (d : Dev) : Prop := ∀ e ∈ d.sq.commits, e.2.st ≠ .agreeing

end Sys2Proof.Machine

section
open Sys2Proof Sys2Proof.Machine

/-- R407, R408, R410, R411, R412: a sequenced flit is taken only in its order, and any other is answered by a NAK; a NAK, and a link that returns, resend from the flit named, or flush what they cannot; the link's
state is told, and a link that goes down ends a commit that waits for the twin; DOWN for 1 ms, the buffer is lost: a read ends, a write is a late fault, a COMMIT flit counts as the loss of the twin. -/
def Obligations.TwinLinkKeepsOrder : Prop := ∀ (s : State) (seq ack lanes : Nat) (b : Bool), Awake s →
  (∀ i, isFlit seq ack i → (s.dev.zyn.link ≠ .up → Does i s s.dev) ∧
    (s.dev.zyn.link = .up → seq ≠ s.dev.zyn.rxSeq → Does i s ((s.dev.emit (.nak (flitBytes 2 0 s.dev.zyn.rxSeq (leBytes 2 s.dev.zyn.rxSeq)))).incIm A.ZYN_NAK F.ZYN_NAK_COUNT 1))) ∧
  (∀ k, s.dev.zyn.link = .up → k = 0 ∨ k = 1 ∧ seq ≠ s.dev.zyn.rxSeq → Does (.sequencedFlitDiscard seq k) s ((s.dev.emit (.nak (flitBytes 2 0 s.dev.zyn.rxSeq (leBytes 2 s.dev.zyn.rxSeq)))).incIm A.ZYN_NAK F.ZYN_NAK_COUNT 1)) ∧
  (∀ k, s.dev.zyn.link ≠ .up ∨ k = 1 ∧ seq = s.dev.zyn.rxSeq ∨ 2 ≤ k → Does (.sequencedFlitDiscard seq k) s s.dev) ∧
  (s.dev.zyn.link ≠ .up → Does (.nakReceive seq) s s.dev ∧ Does (.zynLinkDown lanes) s s.dev) ∧
  (s.dev.zyn.link = .up →
    (∀ n, namesFlit s.dev seq n → s.dev.zyn.waitq = [] → Does (.nakReceive seq) s (s.dev.resent n)) ∧
    ((∀ n, ¬ namesFlit s.dev seq n) → plain s.dev → Does (.nakReceive seq) s { s.dev with zyn := { s.dev.zyn with replay := [], waitq := [], txSeq := seq % 65536 } })) ∧
  (s.dev.pairEn = false ∨ s.dev.zynRuns = false ∨ s.dev.zyn.link = .up → Does (.zynLinkUp b ack lanes) s s.dev) ∧
  (s.dev.pairEn = true → s.dev.zynRuns = true → s.dev.zyn.link ≠ .up →
    (b = s.dev.pwr.side → Does (.zynLinkUp b ack lanes) s { s.dev with zyn := { s.dev.zyn with sideConflict := true } }) ∧
    (b ≠ s.dev.pwr.side → lanes % 256 ≠ 255 → DoesAnd (.zynLinkUp b ack lanes) s { s.dev with zyn := { s.dev.zyn with link := .training, lanes := lanes } }
      (fun u => s.dev.zyn.link = .down → s.dev.told pgZYN 0x3300 (1 + lanes % 256 * 256) u)) ∧
    (b ≠ s.dev.pwr.side → lanes % 256 = 255 → s.dev.zyn.waitq = [] → ∀ n, namesFlit s.dev ack n →
      Tells (.zynLinkUp b ack lanes) s (({ s.dev with zyn := { s.dev.zyn with link := .up, lanes := 255, sideConflict := false, dead := false } } : Dev).resent n) pgZYN 0x3300 (2 + 255 * 256))) ∧
  (s.dev.zyn.link = .up → ∀ runs, runs = (s.dev.pairEn && s.dev.zynRuns) →
    ∀ z, z = { s.dev.zyn with link := if runs then .training else .down, lanes := lanes % 256, downAt := s.dev.now } →
    (noneAgreeing s.dev → DoesAnd (.zynLinkDown lanes) s { s.dev with zyn := z }
      (fun u => s.dev.told pgZYN 0x3300 (lanes % 256 * 256) u ∧ (runs = true → s.dev.told pgZYN 0x3300 (1 + lanes % 256 * 256) u))) ∧
    (∀ dom c, s.dev.sq.commits = [(dom, c)] → c.st = .agreeing → dom ≠ houseDom → Completes (.zynLinkDown lanes) s (fun t =>
      t.dev.zyn = z ∧ (t.dev.commitOf dom).st = .idle ∧ (t.dev.commitOf dom).lastStatus = 2 ∧ t.dev.regs.live = s.dev.regs.live))) ∧
  (s.dev.zyn.link = .up ∨ s.dev.zyn.dead = true → Does .linkDownFlush s s.dev) ∧
  (s.dev.zyn.link ≠ .up → s.dev.zyn.dead = false → ∀ d : Dev, d = s.dev.advanceTo (s.dev.zyn.downAt + 1000 * usTU) → ∀ z, z = { s.dev.zyn with replay := [], waitq := [], dead := true } →
    (plain s.dev → Does .linkDownFlush s { d with zyn := z }) ∧
    (∀ n a x, s.dev.zyn.replay = [⟨n, .access a⟩] → s.dev.zyn.waitq = [] → a.write = false → Tab.get? s.dev.zyn.mbox a.master = some x →
      DoesAnd .linkDownFlush s ((({ d with zyn := { z with mbox := Tab.del z.mbox a.master } } : Dev).setPer A.ZYN_MSTAT a.master F.ZYN_MSTAT_STATE 2).setPer
        A.ZYN_MSTAT a.master F.ZYN_MSTAT_RESULT 2) (d.told pgZYN 0x330A (a.master + 512))) ∧
    (∀ n a, s.dev.zyn.replay = [⟨n, .access a⟩] → s.dev.zyn.waitq = [] → a.write = true → s.dev.late.log.length < 64 → Completes .linkDownFlush s (fun t =>
      t.dev.zyn = z ∧ t.dev.sq.blocked = true ∧ t.dev.late.log = s.dev.late.log ++ [[a.master + 64 + b2n a.bar2 * 128 + 512 + 2 ^ 31, a.num % 2 ^ 32, s.dev.sq.num % 2 ^ 32,
        a.addr % 2 ^ 32, d.now % 2 ^ 32, d.now / 2 ^ 32 % 2 ^ 32]])) ∧
    (∀ n b dom c, s.dev.zyn.replay = [⟨n, b⟩] → s.dev.zyn.waitq = [] → flitPrio b = 0 → s.dev.sq.commits = [(dom, c)] → c.st = .agreeing → dom ≠ houseDom → Completes .linkDownFlush s (fun t =>
      t.dev.zyn = z ∧ (t.dev.commitOf dom).st = .idle ∧ (t.dev.commitOf dom).lastStatus = 2 ∧ t.dev.regs.live = s.dev.regs.live)))

end

namespace Sys2Proof.Machine

/-- The pair changes state: 0x3301 tells it (R417). -/
def pairTold (d : Dev) (s : PairSt) (u : Dev) : Prop := d.told pgZYN 0x3301 (pairCode s + 256 * pairCode d.zyn.pair) u

/-- A device without its pins, what blanks trip inputs, what it sent, the clock, and the pair. -/
def noDrive (d : Dev) : Dev := { noPins d with zyn := {} }

/-- Cause 8 on channels: set, or cleared; every other channel stays as it was, and of these the other causes (R418, R420). -/
def driveChanged (d u : Dev) (pcs : List Nat) (give : Bool) : Prop :=
  ∀ k, (pcs.contains k = false → u.pcOf k = d.pcOf k) ∧ (pcs.contains k = true →
    (u.pcOf k).cause = (if give then (d.pcOf k).cause ||| 256 else if (d.pcOf k).cause &&& 256 = 0 then (d.pcOf k).cause else (d.pcOf k).cause &&& 255) ∧
    (u.pcOf k).q = (d.pcOf k).q ∧ (u.pcOf k).wlevel = (d.pcOf k).wlevel ∧ (u.pcOf k).duty = (d.pcOf k).duty)

/-- This side takes over the pins the twin drove (R420). -/
def TakesOver (i : Instr) (s : State) (d : Dev) : Prop :=
  plain s.dev → ∀ pcs, pcs = (s.dev.extend (s.dev.pairedPcs.filter s.dev.twinDrives)).filter (fun pc => !s.dev.zyn.driving.contains pc) →
  Within i s noDrive (fun u => driveChanged s.dev u pcs false ∧ pairTold d .alone u ∧ d.told pgZYN 0x3303 pcs.length u ∧ d.now ≤ u.now ∧
    u.zyn = { d.zyn with pair := .alone, driving := (d.zyn.driving ++ pcs).eraseDups, replay := [], waitq := []
                         ringTko := d.zyn.ringTko || (s.dev.lvb A.ZYN_CFG F.ZYN_CFG_RING_TKO && (s.dev.zyn.hb.map (·.origin)).getD false) })

end Sys2Proof.Machine

section
open Sys2Proof Sys2Proof.Machine

/-- R414, R415, R416, R417, R420, R423: a heartbeat leaves at each whole µs and a missing one is counted; the third in a row in JOINED makes the pair SUSPECT; one that comes gives samples of offset and round trip,
shows the channels both sides drive, and ends SUSPECT; at t_k the side takes the twin's pins over, unless the twin's wire is active; at a conflict side B yields. -/
def Obligations.HeartbeatsKeepThePair : Prop := ∀ (s : State) (bytes : List Byte) (t : Nat), Awake s → ∀ z, z = s.dev.zyn →
  (z.link ≠ .up → Does .heartbeatSend s s.dev) ∧
  (z.link = .up → ∀ u, u = max (nextWhole usTU z.hbSentAt) (wholeUs s.dev.now 0) → ∀ d : Dev, d = s.dev.advanceTo u → ∀ e, e = d.epochAt d.now →
    ∀ beg, beg = ((d.sq.marks.find? (fun m => m.num == e)).map (·.beg)).getD d.sq.bnd → ∃ x < 319, ∀ h : Heartbeat,
    h = { send := shortOf (u + x), echoSend := (z.hb.map (·.send)).getD 0, echoArr := (z.hb.map (fun _ => shortOf z.hbArr)).getD 0, epoch := e % 2 ^ 32, grid := shortOf beg
          pair := pairCode z.pair, sideB := s.dev.pwr.side, run := s.dev.h.run, origin := s.dev.lv A.HRING_CFG F.HRING_CFG_ROLE == 1
          holdover := s.dev.h.tpll == .holdover, pfw := s.dev.sq.pfwLow, driving := z.driving } →
      Does .heartbeatSend s { d with free := s.dev.free + 1, zyn := { z with hbSentAt := u }, out := .heartbeat (flitBytes 1 0 z.rxSeq (Heartbeat.payload h)) :: s.dev.out }) ∧
  (s.dev.pairEn = false → Does .heartbeatTick s s.dev) ∧
  (s.dev.pairEn = true → ∀ u, u = max (nextWhole usTU z.hbTickAt) (wholeUs s.dev.now 0) → ∀ heard : Prop, (heard ↔ z.hb.isSome ∧ u < z.hbArr + usTU) →
    ∀ sent, sent = (if s.dev.lvb A.ZYN_CFG F.ZYN_CFG_HBWIRE then .hbWire (u + 500 * nsTU) false :: .hbWire u true :: s.dev.out else s.dev.out) →
    (heard → Does .heartbeatTick s { s.dev.advanceTo u with zyn := { z with hbTickAt := u, misses := 0 }, out := sent }) ∧
    (¬ heard → ∀ d : Dev, d = { s.dev.advanceTo u with zyn := { z with hbTickAt := u, misses := z.misses + 1 }, out := sent }.incIm A.ZYN_HBMISS F.ZYN_HBMISS_COUNT 1 →
      (z.pair ≠ .joined ∨ z.misses + 1 < 3 → Does .heartbeatTick s d) ∧
      (z.pair = .joined → 3 ≤ z.misses + 1 → noneAgreeing s.dev → DoesAnd .heartbeatTick s
        ({ d with zyn := { d.zyn with tk := u + s.dev.lv A.ZYN_CFG F.ZYN_CFG_TKO_DLY * nsTU, pair := .suspect } }.setIm A.ZYN_SUSPECT ⟨0, 16⟩ (min (s.dev.im A.ZYN_SUSPECT ⟨0, 16⟩ + 1) 65535))
        (fun w => d.told pgZYN 0x3302 0 w ∧ pairTold d .suspect w)))) ∧
  (z.link ≠ .up ∨ s.dev.pairEn = false ∨ heartbeatOf bytes = none → Does (.heartbeatReceive bytes t) s s.dev) ∧
  (z.link = .up → s.dev.pairEn = true → ∀ h, heartbeatOf bytes = some h → ∀ d : Dev, d = (s.dev.advanceTo t).ackTo (flitField bytes 4 2) → ∀ both, both = z.driving.filter (fun pc => h.driving.contains pc) →
    ∀ z', z' = { d.zyn with hb := some h, hbArr := t, wireSilent := false, conflictNow := both, conflict := both.filter (z.conflictNow.contains ·) } →
    ∀ there back th, there = sgn 64 (unsgn 64 ((h.echoArr : Int) - (h.echoSend : Int))) → back = sgn 64 (unsgn 64 ((shortOf t : Int) - (h.send : Int))) →
      th = (there - back) / 2 - (s.dev.lvW A.ZYN_ASYM).toInt →
    ∀ big, big = decide (s.dev.lv A.ZYN_CFG F.ZYN_CFG_TOFS_LIM * nsTU < th.natAbs) → ∀ ovr under, ovr = (if big then z.ovr + 1 else 0) → under = (if big then 0 else z.under + 1) →
    ∀ flag, flag = (if z.ofsOver = false ∧ 16 ≤ ovr then true else if z.ofsOver = true ∧ 16 ≤ under then false else z.ofsOver) →
    ∀ echoes : Bool, echoes = (h.echoSend != 0 || h.echoArr != 0) → ∀ z'', z'' = (if echoes then { z' with
      ofs := (th :: z.ofs).take 16, rtt := ((there + back) / (nsTU : Int)).toNat % 2 ^ 32, ovr := ovr, under := under, ofsOver := flag } else z') →
    ∀ limit : Dev → Prop, (∀ w, limit w ↔ (echoes = true → flag ≠ z.ofsOver → d.told pgZYN 0x3307 (b2n flag) w)) →
      (z.pair ≠ .suspect → z.pair ≠ .severed → DoesAnd (.heartbeatReceive bytes t) s { d with zyn := z'' } limit) ∧
      (z.pair = .suspect → z.tk ≤ d.now → DoesAnd (.heartbeatReceive bytes t) s { d with zyn := z'' } limit) ∧
      (z.pair = .suspect → d.now < z.tk → DoesAnd (.heartbeatReceive bytes t) s
        ({ d with zyn := { z'' with misses := 0, pair := .joined } }.setIm A.ZYN_SUSPECT ⟨16, 16⟩ (min (s.dev.im A.ZYN_SUSPECT ⟨16, 16⟩ + 1) 65535))
        (fun w => limit w ∧ d.told pgZYN 0x3304 0 w ∧ pairTold d .joined w)) ∧
      (z.pair = .severed → z.dead = false → d.zyn.replay.length < 1024 → ∀ d' : Dev, d' = { d with zyn := { z'' with misses := 0, pair := .joined } } →
        ∀ f : Flit, f = ⟨d.zyn.txSeq, .pinState d'.pinState⟩ →
        DoesAnd (.heartbeatReceive bytes t) s { d' with out := .flit f z.rxSeq :: d.out, zyn := { d'.zyn with txSeq := (d.zyn.txSeq + 1) % 65536, replay := d.zyn.replay ++ [f] } }
          (fun w => limit w ∧ pairTold d .joined w))) ∧
  (z.pair ≠ .suspect → Does .takeover s s.dev) ∧
  (z.pair = .suspect → ∀ d : Dev, d = s.dev.advanceTo z.tk → ∀ active, active = (s.dev.lvb A.ZYN_CFG F.ZYN_CFG_HBWIRE && !z.wireSilent) →
    (active = true → DoesAnd .takeover s { d with zyn := { z with pair := .severed } } (pairTold d .severed)) ∧ (active = false → TakesOver .takeover s d)) ∧
  (s.dev.lvb A.ZYN_CFG F.ZYN_CFG_HBWIRE = false → Does .hbWireSilent s s.dev) ∧
  (s.dev.lvb A.ZYN_CFG F.ZYN_CFG_HBWIRE = true → ∀ d : Dev, d = { s.dev with zyn := { z with wireSilent := true } } →
    (z.pair ≠ .severed → Does .hbWireSilent s d) ∧ (z.pair = .severed → TakesOver .hbWireSilent s d)) ∧
  (z.conflict = [] → Does .conflictRelease s s.dev) ∧
  (z.conflict ≠ [] → ∀ d : Dev, d = s.dev.advanceTo (wholeUs s.dev.now 0) → ∀ pcs, pcs = z.conflict.filter (z.driving.contains ·) →
    (s.dev.pwr.side = false ∨ pcs = [] → Does .conflictRelease s { d with zyn := { z with conflict := [] } }) ∧
    (s.dev.pwr.side = true → pcs ≠ [] → ∀ l, l = s.dev.extend pcs → Within .conflictRelease s noDrive (fun u => driveChanged s.dev u l true ∧
      u.zyn = { z with conflict := [], driving := z.driving.filter (fun pc => !l.contains pc) } ∧ d.told pgZYN 0x3309 pcs.length u)))

end

namespace Sys2Proof.Machine

/-- The flit expected has arrived and is taken: the next is expected, and what the twin has acknowledged leaves the replay buffer (R411). -/
def Dev.tookFlit (d : Dev) (ack : Nat) : Dev :=
  { d with zyn := { d.zyn with
    rxSeq := (d.zyn.rxSeq + 1) % 65536
    replay := match d.zyn.replay with
      | [] => []
      | f :: l => if unsgn 16 ((ack : Int) - (f.seq : Int)) ≤ l.length + 1 then (f :: l).drop (unsgn 16 ((ack : Int) - (f.seq : Int))) else f :: l } }

/-- The flit that arrives is the one expected, and nothing waits for a place in the replay buffer. -/
def fits (d : Dev) (seq : Nat) : Prop := d.zyn.link = .up ∧ seq = d.zyn.rxSeq ∧ d.zyn.waitq = []

/-- A twinned commit of a domain with a target. -/
def twinned (d : Dev) (dom target : Nat) : Prop := (d.commitOf dom).st ≠ .idle ∧ (d.commitOf dom).twin = true ∧ (d.commitOf dom).target % 2 ^ 32 = target % 2 ^ 32

/-- A twinned commit ended with a status: nothing is pending, and 0x3108 tells (R114, R120). -/
def endedBy (d u : Dev) (dom status : Nat) : Prop :=
  (u.commitOf dom).st = .idle ∧ (u.commitOf dom).lastStatus = status ∧ (u.commitOf dom).lastId = (d.commitOf dom).id ∧ (u.commitOf dom).lastEpoch = (d.commitOf dom).target ∧
  u.regs.pending = Tab.del d.regs.pending dom ∧ (∀ k, k ≠ dom → u.commitOf k = d.commitOf k) ∧ u.sq.nextId = d.sq.nextId ∧ u.regs.per = d.regs.per ∧ u.late = d.late ∧ u.free = d.free

end Sys2Proof.Machine

section
open Sys2Proof Sys2Proof.Machine

/-- R114, R120, R426, R427, R428: twinned commits: side A compares the group digests of both PREPAREDs and decides; side B acknowledges; REFUSED, WITHDRAWN, TWIN_FAIL and ABORT end the matching commit. -/
def Obligations.TwinsAgreeOnCommits : Prop := ∀ (s : State) (seq ack dom target : Nat), Awake s → fits s.dev seq → ∀ d, d = s.dev.tookFlit ack → ∀ c, c = s.dev.commitOf dom →
  (∀ id ds, ∀ c', c' = { c with prepared := some (target :: id :: ds) } →
    (s.dev.pwr.side = true ∨ c.st ≠ .agreeing ∨ c.decided = true ∨ target % 2 ^ 32 ≠ c.target % 2 ^ 32 → Does (.preparedReceive seq ack dom target id ds) s (d.setCommit dom c')) ∧
    (s.dev.pwr.side = false → c.st = .agreeing → c.decided = false → target % 2 ^ 32 = c.target % 2 ^ 32 → canSend d → ∀ own, own = groupDigests false (s.dev.resView dom) →
      ((∀ g < 4, own.getD g 0 = ds.getD g 0) → Does (.preparedReceive seq ack dom target id ds) s ((d.setCommit dom { c' with decided := true }).sentFlit (.decide dom c.target))) ∧
      (∀ g < 4, own.getD g 0 ≠ ds.getD g 0 → (∀ j < g, own.getD j 0 = ds.getD j 0) → dom ≠ houseDom → Within (.preparedReceive seq ack dom target id ds) s
        (fun x => { noCommits x with zyn := {}, out := [] }) (fun u => endedBy s.dev u dom 1 ∧ (u.commitOf dom).firstRule = 0x40 + g ∧ u.out = .flit ⟨d.zyn.txSeq, .twinFail dom c.target (0x40 + g)⟩ d.zyn.rxSeq :: s.dev.out)))) ∧
  (twinned s.dev dom target → s.dev.pwr.side = true → c.st = .agreeing → canSend d →
    Does (.decideReceive seq ack dom target) s ((d.setCommit dom { c with st := .checked }).sentFlit (.decideAck dom target))) ∧
  (¬ twinned s.dev dom target ∨ s.dev.pwr.side = false ∨ c.st ≠ .agreeing → Does (.decideReceive seq ack dom target) s d) ∧
  (∀ now : Prop, (now ↔ c.target = s.dev.sq.num + 1 ∧ s.dev.lockPassed = true) →
    (twinned s.dev dom target → s.dev.pwr.side = false → c.st = .agreeing → c.decided = true → ¬ now →
      Does (.decideAckReceive seq ack dom target) s (d.setCommit dom { c with st := .checked })) ∧
    (¬ twinned s.dev dom target ∨ s.dev.pwr.side = true ∨ c.st ≠ .agreeing ∨ c.decided = false ∨ now → Does (.decideAckReceive seq ack dom target) s d)) ∧
  (∀ i, i = .refusedReceive seq ack dom target ∨ i = .withdrawnReceive seq ack dom target →
    (¬ twinned s.dev dom target ∨ c.st = .locked → Does i s d) ∧
    (twinned s.dev dom target → c.st ≠ .locked → dom ≠ houseDom → Within i s (fun x => { noCommits x with zyn := {} }) (fun u => endedBy s.dev u dom 2 ∧ u.zyn = d.zyn))) ∧
  (∀ rule, (¬ twinned s.dev dom target ∨ s.dev.pwr.side = false ∨ c.st = .locked → Does (.twinFailReceive seq ack dom target rule) s d) ∧
    (twinned s.dev dom target → s.dev.pwr.side = true → c.st ≠ .locked → dom ≠ houseDom → Within (.twinFailReceive seq ack dom target rule) s (fun x => { noCommits x with zyn := {} })
      (fun u => endedBy s.dev u dom 1 ∧ (u.commitOf dom).firstRule = rule ∧ (u.commitOf dom).failCount = 1 ∧ u.zyn = d.zyn))) ∧
  (¬ twinned s.dev dom target → Does (.abortReceive seq ack dom target) s d) ∧
  (twinned s.dev dom target → dom ≠ houseDom → Within (.abortReceive seq ack dom target) s (fun x => { noCommits x with zyn := {} }) (fun u => endedBy s.dev u dom 5 ∧ u.zyn = d.zyn))

/-- R139, R402, R425, R428, R429, R430, R431, R432: accesses of the twin act as those of master M7 and a read is answered; a response or a timeout ends a mailbox read; digests are compared and the twin record written;
cross-fed packets join path B; a fault the twin reports is counted and blocks commits. -/
def Obligations.TwinAccessesAndFeeds : Prop := ∀ (s : State) (seq ack m : Nat), Awake s →
  (Reaches m A.ZYN_MGO s → ∀ acc : Dev → Bool → AccessFlit, (∀ d wr, acc d wr = ⟨m, if m < 6 then Tab.get d.late.num 0 m else 0, s.dev.per A.ZYN_MADDR m F.ZYN_MADDR_SPACE == 1,
      s.dev.per A.ZYN_MADDR m F.ZYN_MADDR_ADDR, s.dev.perW A.ZYN_MDATA m, wr⟩) →
    (Tab.get? s.dev.zyn.mbox m ≠ none → Does (.mailboxWrite m) s (s.dev.wrote m id) ∧ Does (.mailboxRead m) s (s.dev.wrote m id)) ∧
    (Tab.get? s.dev.zyn.mbox m = none → canSend s.dev → Does (.mailboxWrite m) s (s.dev.wrote m fun d => d.sentFlit (.access (acc d true))) ∧
      Does (.mailboxRead m) s (s.dev.wrote m fun d => ((({ d with zyn := { d.zyn with mbox := Tab.set d.zyn.mbox m ⟨d.now + 100 * usTU⟩ } } : Dev).setPer A.ZYN_MSTAT m F.ZYN_MSTAT_STATE 1).setPer
        A.ZYN_MSTAT m F.ZYN_MSTAT_RESULT 0).sentFlit (.access (acc d false))))) ∧
  (Tab.get? s.dev.zyn.mbox m = none → Does (.mailboxTimeout m) s s.dev) ∧
  (∀ ended : Dev → Nat → Dev, (∀ d r, ended d r = (({ d with zyn := { d.zyn with mbox := Tab.del d.zyn.mbox m } } : Dev).setPer A.ZYN_MSTAT m F.ZYN_MSTAT_STATE 2).setPer A.ZYN_MSTAT m F.ZYN_MSTAT_RESULT r) →
    (∀ x, Tab.get? s.dev.zyn.mbox m = some x → DoesAnd (.mailboxTimeout m) s (ended (s.dev.advanceTo x.deadline) 3) ((s.dev.advanceTo x.deadline).told pgZYN 0x330A (m + 768))) ∧
    (fits s.dev seq → ∀ r v, (Tab.get? s.dev.zyn.mbox m = none → Does (.responseReceive seq ack m r v) s (s.dev.tookFlit ack)) ∧
      (Tab.get? s.dev.zyn.mbox m ≠ none → Tells (.responseReceive seq ack m r v) s (ended ((s.dev.tookFlit ack).setPerW A.ZYN_MRDATA m v) r) pgZYN 0x330A (m + r * 256)))) ∧
  (fits s.dev seq → ∀ d, d = s.dev.tookFlit ack →
    (∀ x a, a = x.addr / 4 * 4 → ∀ held, held = (decide (a + 4 ≤ 2 ^ 29) && d.qualifies 7 (bankOfByte a)) →
      (x.write = true → x.bar2 = true → held = true → Stores (.accessReceive seq ack x) s d [.store a (leBytes 4 x.data.toNat)]) ∧
      (x.write = true → x.bar2 = true → held = false → d.sq.refusedM.contains 7 = true → Does (.accessReceive seq ack x) s (d.incIm (A.HOWN_WREFUSED 7) F.HOWN_WREFUSED_COUNT 1)) ∧
      (x.write = true → x.bar2 = false → ∀ d' ops f, d.busWrite 7 x.master x.num a x.data s.mem = ((d', ops), f) → Stores (.accessReceive seq ack x) s d' ops) ∧
      (x.write = false → canSend d →
        (x.bar2 = true → held = true → Does (.accessReceive seq ack x) s (d.sentFlit (.response x.master 0 (BitVec.ofNat 32 (leNat (s.mem.bytes a 4)))))) ∧
        (x.bar2 = true → held = false → Does (.accessReceive seq ack x) s (d.sentFlit (.response x.master 1 0))) ∧
        (x.bar2 = false → (∃ j, pageOf a = .zyn j) → Does (.accessReceive seq ack x) s (d.sentFlit (.response x.master 1 0))) ∧
        (x.bar2 = false → (∀ j, pageOf a ≠ .zyn j) → ∀ d' v, d.busRead 7 a s.mem = (d', v) → d'.zyn = d.zyn →
          Does (.accessReceive seq ack x) s (d'.sentFlit (.response x.master 0 (BitVec.ofNat 32 v)))))) ∧
    (∀ e doms t, t = Tab.set d.zyn.twinDigests e doms → ∀ d1 : Dev, d1 = { d with zyn := { d.zyn with twinDigests := t.drop (t.length - 4) } } → ∀ rec en, rec = d.lv A.ZYN_TREC F.ZYN_TREC_ADDR * 16 →
      en = (d.lvb A.ZYN_TREC F.ZYN_TREC_EN && d.bankHolder (bankOfByte rec) == houseDom) → ∀ ops, ops = (if en then [MemOp.store rec (twinRecord e)] else []) →
      (Tab.get? d.zyn.digests e = none → Stores (.digestReceive seq ack e doms) s d1 ops) ∧
      (∀ own, Tab.get? d.zyn.digests e = some own → Tab.get? d1.zyn.twinDigests e = some doms → ∀ map, map = (List.range 257).filter (fun i => own.getD i 0 != doms.getD i 0) →
        (map = d.zyn.divmap → Stores (.digestReceive seq ack e doms) s d1 ops) ∧
        (map ≠ d.zyn.divmap → Completes (.digestReceive seq ack e doms) s (fun u => u.pending = s.pending ∧ u.mem = s.mem.run ops ∧
          u.dev.agrees { d1 with zyn := { d1.zyn with divmap := map, diverged := !map.isEmpty } } ∧ d.told pgZYN 0x3306 (map.headD 0 + b2n (!map.isEmpty) * 512) u.dev)))) ∧
    (∀ fc f, ∀ sink, sink = (d.live.f (A.FCH_MODE fc) F.FCH_MODE_DIR == 1 && fcMode d.live fc F.FCH_MODE_MERGE == 1 && d.live.f (A.FCH_KEYP fc 1) F.FCH_KEYP_PORT == 0xFE) →
      (sink = false → Does (.xfeedReceive seq ack fc f) s (d.incIm A.ZYN_XFNOSINK F.ZYN_XFNOSINK_COUNT 1)) ∧
      (sink = true → ∀ l, l = Tab.get d.tileIn [] (fc / 128) → Does (.xfeedReceive seq ack fc f) s
        { d with tileIn := Tab.set d.tileIn (fc / 128) (l ++ [{ fc := fc, path := 1, port := none, stamp := f.t, bytes := f.bytes }]) })) ∧
    (∀ n cause a, m < 7 → ∀ e, e = d.incIm (A.HLFL_ORIG m) F.HLFL_ORIG_COUNT 1 → (d.sq.blocked = true → Does (.faultReceive seq ack m n cause a) s e) ∧
      (d.sq.blocked = false → Tells (.faultReceive seq ack m n cause a) s { e with sq := { e.sq with blocked := true } } pgHCOM 0x3113 1)))

end

namespace Sys2Proof.Machine

/-- The item and its instant join the mirrored items by instant (R418). -/
def mirrored (l : List (Nat × PinItem)) (t : Nat) (it : PinItem) (l' : List (Nat × PinItem)) : Prop :=
  ∃ a b, l = a ++ b ∧ l' = a ++ (t, it) :: b ∧ (∀ x ∈ a, x.1 ≤ t) ∧ (∀ x ∈ b.head?, t < x.1)

end Sys2Proof.Machine

section
open Sys2Proof Sys2Proof.Machine

/-- R418, R419, R420, R422: mirrored items are applied at their instant, or 24 ns after a late arrival, on the channels this side shadows; the twin's pin state replaces what the shadow held; TAKE makes this side
the driver, and a planned handover passes the drive at its instant when both sides agree in time. -/
def Obligations.TwinPinsChangeHands : Prop := ∀ (s : State) (seq ack m : Nat), Awake s → ∀ z, z = s.dev.zyn →
  (fits s.dev seq → ∀ d, d = s.dev.tookFlit ack →
    (∀ a it t, t = unshort s.dev.now a →
      (s.dev.now ≤ t → Within (.pinReceive seq ack a it) s (fun x => { x with zyn := {} }) (fun u => ∃ l, mirrored z.mirror t it l ∧ u.zyn = { d.zyn with mirror := l })) ∧
      (t < s.dev.now → Within (.pinReceive seq ack a it) s (fun x => { x.lessImm A.ZYN_MIRLATE with zyn := {} }) (fun u => (∃ l, mirrored z.mirror (s.dev.now + 24 * nsTU) it l ∧ u.zyn = { d.zyn with mirror := l }) ∧
        u.im A.ZYN_MIRLATE F.ZYN_MIRLATE_COUNT = min (s.dev.im A.ZYN_MIRLATE F.ZYN_MIRLATE_COUNT + 1) (2 ^ 32 - 1)))) ∧
    (∀ pc v t l, ∀ c, c = s.dev.pcOf pc →
      (s.dev.shadowed pc = true → Does (.pinStateReceive seq ack [.lastDuty pc v, .push pc t l, .pendLoad pc v t]) s (d.setPc pc { c with
        q := [{ t := unshort s.dev.now t, level := l }], duty := v, lastPush := some (unshort s.dev.now t), pend := some (v, unshort s.dev.now t) })) ∧
      (s.dev.shadowed pc = false → Does (.pinStateReceive seq ack [.lastDuty pc v, .push pc t l, .pendLoad pc v t]) s d)) ∧
    (∀ a pc st n j t nr pcru psta pos neg homed, s.dev.axChan a = some pc → s.dev.shadowed pc = true → Does (.pinStateReceive seq ack [.axisAt a st n j t nr pcru psta pos neg homed]) s
      (d.setAx a { s.dev.axOf a with st := axStOf st, n := n, j := j, tNext := unshort s.dev.now t, nr := nr, pcru := pcru, psta := psta, pos := pos, neg := neg, homed := homed })) ∧
    (∀ g k a st p, s.dev.shadowed (hsPin s.dev.live g) = true → Does (.pinStateReceive seq ack [.demand g k a st p]) s
      (d.setGrp g { s.dev.grpOf g with demands := [⟨k, unshort s.dev.now a, demandOf st, unshort s.dev.now p⟩] })) ∧
    (∀ th mask t, t = unshort s.dev.now th →
      (z.pair = .joined → s.dev.now + usTU < t → canSend d → Does (.handoverReceive seq ack th mask) s (({ d with zyn := { d.zyn with hoIn := some ⟨t, mask, 0, true⟩ } } : Dev).sentFlit (.handoverAck th))) ∧
      (z.pair ≠ .joined ∨ t ≤ s.dev.now + usTU → Does (.handoverReceive seq ack th mask) s d)) ∧
    (∀ th, (∀ h, z.ho = some h → shortOf h.th = th → s.dev.now < h.th → Does (.handoverAckReceive seq ack th) s { d with zyn := { d.zyn with ho := some { h with ack := true } } }) ∧
      ((∀ h ∈ z.ho, shortOf h.th ≠ th ∨ h.th ≤ s.dev.now) → Does (.handoverAckReceive seq ack th) s d))) ∧
  (z.mirror = [] → Does .mirrorApply s s.dev) ∧
  (∀ t it rest, z.mirror = (t, it) :: rest → ∀ d : Dev, d = { s.dev.advanceTo t with zyn := { z with mirror := rest } } →
    ((∀ pc ∈ s.dev.itemChan it, s.dev.shadowed pc = false) → Does .mirrorApply s d) ∧
    (∀ pc, s.dev.itemChan it = some pc → s.dev.shadowed pc = true → ∀ c, c = s.dev.pcOf pc →
      (∀ tq l ok d', it = .push pc tq l → d.pushEdge pc (unshort t tq) l = (d', ok) → Does .mirrorApply s d') ∧
      (∀ v, it = .duty pc v → Does .mirrorApply s ((d.setIm (A.PCH_DUTY pc) F.PCH_DUTY_DUTY v).setPc pc
        (if s.dev.lv (A.PCH_MODE pc) F.PCH_MODE_LOADGRP = 0 then { c with sched := c.sched ++ [(v, t)] } else { c with shadow := v }))) ∧
      (it = .load pc → Does .mirrorApply s (d.loadAt pc t)) ∧ (it = .stop pc → Does .mirrorApply s (d.stopPin pc)) ∧ (it = .restart pc → Does .mirrorApply s (d.restartAt pc t)) ∧
      (it = .qflush pc → Does .mirrorApply s (d.setPc pc { c with q := [] })) ∧ (it = .cntClr pc → Does .mirrorApply s (d.setPc pc { c with cnt := 0, clrAt := some d.now })) ∧
      (∀ a steps pcru psta tm v, it = .axis a steps pcru psta tm v → Does .mirrorApply s (d.axDo a steps pcru psta (unshort t tm) v (some t)).1))) ∧
  (Reaches m A.ZYN_CTL s →
    (z.pair = .solo ∨ z.pair = .alone → Does (.take m) s (s.dev.wrote m fun d => { d with zyn := { d.zyn with takeAt := some (wholeUs s.dev.now 4) } })) ∧
    (z.pair ≠ .solo → z.pair ≠ .alone → Does (.take m) s (s.dev.wrote m id)) ∧
    (z.ho.isSome = true → Does (.yieldAll m) s (s.dev.wrote m id) ∧ Does (.handback m) s (s.dev.wrote m id)) ∧
    (z.ho = none → canSend s.dev → ∀ th, th = wholeUs s.dev.now 4 → ∀ goes : List Nat → Nat → Dev → Dev,
      (∀ l why d, goes l why d = ({ d with zyn := { d.zyn with ho := some ⟨th, l, why, false⟩ } } : Dev).sentFlit (.handover (shortOf th) l)) →
      Does (.yieldAll m) s (s.dev.wrote m (goes z.driving 1)) ∧
      Does (.handback m) s (s.dev.wrote m (goes (z.driving.filter (fun pc => (s.dev.extend (z.driving.filter (fun pc => roleOf s.dev.live pc == 2))).contains pc)) 2)))) ∧
  (z.takeAt = none → Does .takeApply s s.dev) ∧
  (∀ t, z.takeAt = some t → ∀ pcs, pcs = s.dev.pairedPcs.filter (fun pc => !z.driving.contains pc) → Within .takeApply s noDrive (fun u => driveChanged s.dev u pcs false ∧ t ≤ u.now ∧
    u.zyn = { z with takeAt := none, driving := (z.driving ++ pcs).eraseDups })) ∧
  (z.ho = none → z.hoIn = none → Does .handoverInstant s s.dev) ∧
  (∀ h, z.ho = some h → (∀ k ∈ z.hoIn, h.th ≤ k.th) → ∀ d : Dev, d = s.dev.advanceTo h.th → ∀ pcs, pcs = h.mask.filter (z.driving.contains ·) →
    (h.ack = false → DoesAnd .handoverInstant s { d with zyn := { z with ho := none } } (d.told pgZYN 0x3305 (h.trigger * 256))) ∧
    (h.ack = true → Within .handoverInstant s noDrive (fun u => driveChanged s.dev u pcs true ∧ h.th ≤ u.now ∧ d.told pgZYN 0x3305 (1 + h.trigger * 256) u ∧
      u.zyn = { z with ho := none, driving := z.driving.filter (fun pc => !pcs.contains pc) }))) ∧
  (∀ k, z.hoIn = some k → (∀ h ∈ z.ho, k.th < h.th) → ∀ d : Dev, d = s.dev.advanceTo k.th → ∀ pcs, pcs = k.mask.filter s.dev.paired →
    Within .handoverInstant s (fun x => { noDrive x with free := 0 }) (fun u => driveChanged s.dev u pcs false ∧ k.th ≤ u.now ∧ (∃ x < 4, d.told pgZYN 0x3305 (3 + x * 256) u) ∧
      u.zyn = { z with hoIn := none, driving := (z.driving ++ pcs).eraseDups }))

/-- R417, R418, R419, R433: a join is refused without pairing or link; else each side proposes an epoch and side A's governs; a passed one, no request or no agreement in time end it with its result; at its instant
the pair is JOINED and the PRIMARY side drives what neither drives; LEAVE ends the pair. -/
def Obligations.TwinsJoinAndLeave : Prop := ∀ (s : State) (seq ack m : Nat), Awake s → ∀ z, z = s.dev.zyn →
  (Reaches m A.ZYN_CTL s →
    (z.pair ≠ .solo → z.pair ≠ .alone → Does (.join m) s (s.dev.wrote m id)) ∧
    (z.pair = .solo ∨ z.pair = .alone →
      (s.dev.pairEn = false → Tells (.join m) s (s.dev.wrote m fun d => { d with zyn := { d.zyn with joinResult := 6 } }) pgZYN 0x3308 6) ∧
      (s.dev.pairEn = true → z.link ≠ .up → Tells (.join m) s (s.dev.wrote m fun d => { d with zyn := { d.zyn with joinResult := 1 } }) pgZYN 0x3308 1) ∧
      (s.dev.pairEn = true → canSend s.dev → ∀ ej, ej = (s.dev.sq.num + 2) % 2 ^ 32 → ∀ begun : Dev → Dev, (∀ d, begun d = ({ d with zyn := { d.zyn with
          prev := z.pair, pair := .joining, joinAt := s.dev.now, joinEj := ej, twinReq := none, joinBoth := false, joinOk := false, tj := none, twinPins := [] } } : Dev).sentFlit (.joinReq ej)) →
        ((∀ x ∈ z.twinReq, x.2 + 1000 * usTU < s.dev.now) → DoesAnd (.join m) s (s.dev.wrote m begun) (pairTold s.dev .joining)) ∧
        (∀ e at_, z.twinReq = some (e, at_) → s.dev.now ≤ at_ + 1000 * usTU → ∀ e', e' = (if s.dev.pwr.side then e else ej) → laterMod 32 s.dev.sq.num e' = true →
          DoesAnd (.join m) s (s.dev.wrote m fun d => { begun d with zyn := { (begun d).zyn with twinReq := z.twinReq, joinEj := e', joinBoth := true } }) (pairTold s.dev .joining)))) ∧
    (z.pair ≠ .joined → z.pair ≠ .suspect → z.pair ≠ .severed → Does (.leave m) s (s.dev.wrote m id)) ∧
    (z.pair = .joined ∨ z.pair = .suspect ∨ z.pair = .severed → canSend s.dev → noneAgreeing s.dev →
      DoesAnd (.leave m) s (s.dev.wrote m fun d => ({ d with zyn := { d.zyn with pair := .solo } } : Dev).sentFlit .leave) (pairTold s.dev .solo))) ∧
  (fits s.dev seq → ∀ d, d = s.dev.tookFlit ack →
    (z.pair ≠ .joined → z.pair ≠ .suspect → z.pair ≠ .severed → Does (.leaveReceive seq ack) s d) ∧
    (z.pair = .joined ∨ z.pair = .suspect ∨ z.pair = .severed → noneAgreeing s.dev → DoesAnd (.leaveReceive seq ack) s { d with zyn := { d.zyn with pair := .solo } } (pairTold s.dev .solo)) ∧
    (∀ ej, (z.joinBoth = true → Does (.joinReqReceive seq ack ej) s d) ∧
      (z.joinBoth = false → z.pair ≠ .joining → Does (.joinReqReceive seq ack ej) s { d with zyn := { d.zyn with twinReq := some (ej, s.dev.now) } }) ∧
      (z.joinBoth = false → z.pair = .joining → ∀ e, e = (if s.dev.pwr.side then ej else z.joinEj) →
        (laterMod 32 s.dev.sq.num e = true → Does (.joinReqReceive seq ack ej) s { d with zyn := { d.zyn with twinReq := some (ej, s.dev.now), joinEj := e, joinBoth := true } }) ∧
        (laterMod 32 s.dev.sq.num e = false → z.prev ≠ .joining → DoesAnd (.joinReqReceive seq ack ej) s { d with zyn := { d.zyn with
          twinReq := none, joinEj := e, joinBoth := false, joinOk := false, tj := none, twinPins := [], pair := z.prev, joinResult := 2 } }
          (fun u => pairTold s.dev z.prev u ∧ s.dev.told pgZYN 0x3308 2 u)))) ∧
    (∀ l, (z.pair = .joining → Does (.joinOkReceive seq ack l) s { d with zyn := { d.zyn with joinOk := true, twinPins := l } }) ∧ (z.pair ≠ .joining → Does (.joinOkReceive seq ack l) s d))) ∧
  (∀ failed : Dev → Dev, (∀ d, failed d = { d with zyn := { d.zyn with twinReq := none, joinBoth := false, joinOk := false, tj := none, twinPins := [], pair := z.prev, joinResult := 5 } }) →
    (z.pair ≠ .joining ∨ z.joinBoth = true → Does .joinDeadline s s.dev) ∧
    (z.pair = .joining → z.joinBoth = false → z.prev ≠ .joining → ∀ d, d = s.dev.advanceTo (z.joinAt + 1000 * usTU) →
      DoesAnd .joinDeadline s (failed d) (fun u => pairTold d z.prev u ∧ d.told pgZYN 0x3308 5 u)) ∧
    (z.tj = none ∨ z.pair ≠ .joining → Does .joinInstant s s.dev) ∧
    (∀ t, z.tj = some t → z.pair = .joining → ∀ d : Dev, d = s.dev.advanceTo t →
      (z.joinOk = false → z.prev ≠ .joining → DoesAnd .joinInstant s (failed d) (fun u => pairTold d z.prev u ∧ d.told pgZYN 0x3308 5 u)) ∧
      (z.joinOk = true → z.twinPins = [] → Tab.get? z.digests (s.dev.sq.num % 2 ^ 32) = none →
        ∀ pcs, pcs = (s.dev.extend (s.dev.pairedPcs.filter (fun pc => roleOf s.dev.live pc == 1 && !z.driving.contains pc && !s.dev.twinDrives pc))).filter
          (fun pc => !z.driving.contains pc && !s.dev.twinDrives pc) →
        Within .joinInstant s noDrive (fun u => driveChanged s.dev u pcs false ∧ pairTold d .joined u ∧ d.told pgZYN 0x3308 0 u ∧ t ≤ u.now ∧
          u.zyn = { z with twinReq := none, joinBoth := false, joinOk := false, tj := none, twinPins := [], misses := 0, pair := .joined, joinResult := 0, driving := (z.driving ++ pcs).eraseDups }))))

end

namespace Sys2Proof.Machine

/-- The words of a WRITE frame in ascending order, each met as a write of master M6; the flag says that ownership refused one (R137, R140, R144). -/
def svcRun : List (Nat × Word) → Dev → Mem → Dev × List MemOp × Bool
  | [], d, _ => (d, [], false)
  | x :: l, d, mem =>
    let y := d.busWrite 6 0 0 x.1 x.2 mem;
    let r := svcRun l y.1.1 (mem.run y.1.2);
    (r.1, y.1.2 ++ r.2.1, y.2 || r.2.2)

end Sys2Proof.Machine

section
open Sys2Proof Sys2Proof.Machine

/-- R136, R137, R159: a service-port frame acts once its CRC has come and is right; its reply carries a status, and for a read the words and their CRC; BAR2 writes go whole or not at all. -/
def Obligations.ServicePortFrames : Prop := ∀ (s : State) (bs : List Byte), Awake s → ∀ c n, c = svcCmd bs → n = (if c.op = 1 then 5 + 4 * c.words else 5) →
  ∀ data : List Nat → Output, (∀ ws, data ws = .svcReply ((0 :: ws.flatMap (beBytes 4)) ++ beBytes 2 (crcOf 2 (0 :: ws.flatMap (beBytes 4))))) →
  Does .svcFrameAbort s s.dev ∧
  (bs.length < n + 2 → Does (.svcFrame bs) s s.dev) ∧
  (n + 2 ≤ bs.length → be16 bs n ≠ crcOf 2 (bs.take n) → Tells (.svcFrame bs) s ((s.dev.incIm A.HSVC_ERR F.HSVC_ERR_CRC_ERR 1).emit (.svcReply [1])) pgHSVC 0x340A 1) ∧
  (n + 2 ≤ bs.length → be16 bs n = crcOf 2 (bs.take n) → ∀ bad : Prop, (bad ↔ 2 ≤ c.op ∨ c.resv = true ∨ c.addr % 4 ≠ 0 ∨ (if c.bar2 then 2 ^ 29 else 2 ^ 27) < c.addr + 4 * c.words) →
    (bad → Tells (.svcFrame bs) s ((s.dev.incIm A.HSVC_ERR F.HSVC_ERR_BAD_CMD 1).emit (.svcReply [2])) pgHSVC 0x340A 2) ∧
    (¬ bad → ∀ held : Prop, (held ↔ ∀ i < c.words, s.dev.qualifies 6 (bankOfByte (c.addr + 4 * i)) = true) →
      (c.op = 0 → c.bar2 = true →
        (held → Does (.svcFrame bs) s (s.dev.emit (data ((List.range c.words).map (fun i => leNat (s.mem.bytes (c.addr + 4 * i) 4)))))) ∧
        (¬ held → Does (.svcFrame bs) s (s.dev.emit (.svcReply [3])))) ∧
      (c.op = 0 → c.bar2 = false → pageOf c.addr ≠ .window → ∀ d ws, s.dev.readWords 6 c.addr s.mem c.words = (d, ws) → Does (.svcFrame bs) s (d.emit (data ws))) ∧
      (c.op = 0 → c.bar2 = false → pageOf c.addr = .window → ∀ as, as = (List.range c.words).map (fun i => c.addr - 0x4000000 + 4 * i) →
        Does (.svcFrame bs) s (((as.map (· / 2 ^ 24)).eraseDups.foldl (fun d k => d.straddle 6 k 1) s.dev).emit (data (as.map (fun a => s.dev.readSlot (a / 2 ^ 24) (a % 2 ^ 24)))))) ∧
      (∀ ws : List (Nat × Word), ws = (List.range c.words).map (fun i => (c.addr + 4 * i, BitVec.ofNat 32 (be32 bs (5 + 4 * i)))) →
        (c.op = 1 → c.bar2 = true → held → Stores (.svcFrame bs) s (s.dev.emit (.svcReply [0])) (ws.map (fun x => .store x.1 (leBytes 4 x.2.toNat)))) ∧
        (c.op = 1 → c.bar2 = true → ¬ held → s.dev.sq.refusedM.contains 6 = true → Does (.svcFrame bs) s (s.dev.emit (.svcReply [3]))) ∧
        (c.op = 1 → c.bar2 = true → ¬ held → s.dev.sq.refusedM.contains 6 = false →
          Tells (.svcFrame bs) s ({ s.dev with sq := { s.dev.sq with refusedM := 6 :: s.dev.sq.refusedM } }.emit (.svcReply [3])) pgHOWN 0x3405 6) ∧
        (c.op = 1 → c.bar2 = false → ∀ d ops no, svcRun ws s.dev s.mem = (d, ops, no) → Stores (.svcFrame bs) s (d.emit (.svcReply [if no then 3 else 0])) ops))))

end

namespace Sys2Proof.Machine

/-- A clock source's READY comes or goes, and the TPLL need not choose anew (R64, R66): it stands in no HOLDOVER or AUTO is 0, and a source that goes is not its own. -/
def clockCalm (d : Dev) (i : Nat) (gain : Bool) : Prop :=
  i < 4 ∨ ((d.h.tpll ≠ .holdover ∨ d.im A.HSRC_SEL F.HSRC_SEL_AUTO = 0) ∧ d.h.ready[i - 3]? = some (!gain) ∧ (gain = true ∨ i - 3 ≠ d.h.src))

/-- A clock source measured anew, with what its READY changes in the hearth (R438). -/
def Dev.clocked (d : Dev) (i : Nat) (c : ClkSrc) : Dev :=
  let e := { d with pwr := { d.pwr with clk := Tab.set d.pwr.clk i c } };
  if c.ready = (Tab.get d.pwr.clk {} i).ready ∨ i < 4 then e else { e with h := { e.h with ready := e.h.ready.set (i - 3) c.ready } }

/-- What READY of a clock source does (R438, R441, R473): 0x3509 shows READY of all, the MPLL coasts when its own goes. -/
def Clocked (i : Instr) (s : State) (k : Nat) (c : ClkSrc) : Prop :=
  ∀ d, d = s.dev.clocked k c → (c.ready = (Tab.get s.dev.pwr.clk {} k).ready → Does i s d) ∧
  (c.ready ≠ (Tab.get s.dev.pwr.clk {} k).ready → k < 7 → clockCalm s.dev k c.ready →
    (c.ready = true ∨ 4 ≤ k ∨ s.dev.pwr.msrc ≠ k + 1 ∨ s.dev.pwr.coast = true → DoesAnd i s d (fun u => k < 6 → s.dev.told pgHCLK 0x3509 d.readyBits u)) ∧
    (c.ready = false → k < 4 → s.dev.pwr.msrc = k + 1 → s.dev.pwr.coast = false → DoesAnd i s { d with pwr := { d.pwr with coast := true, mfreq := 8, glideTo := none } }
      (fun u => s.dev.told pgHCLK 0x3509 d.readyBits u ∧ s.dev.told pgHCLK 0x3508 1 u)))

end Sys2Proof.Machine

section
open Sys2Proof Sys2Proof.Machine

/-- R437, R438, R439, R440, R441: eight good gates in succession make a source READY and one bad gate, or no edge, ends it; HCLK_MSEL chooses a READY source and a frequency, or is refused; the MPLL glides, or coasts
when its source goes; a quadrant's lanes follow its SPLL. -/
def Obligations.ClocksAreWatched : Prop := ∀ (s : State) (m i : Nat) (v : Word) (ppm : Int) (first : Bool), Awake s → ∀ c, c = Tab.get s.dev.pwr.clk {} i →
  (i = 4 → s.dev.pwr.ocxoDone = false → Does (.clockGate i ppm first) s s.dev) ∧
  (i ≠ 4 ∨ s.dev.pwr.ocxoDone = true → ∀ near, near = (first || (c.last.map (fun l => decide ((ppm - l).natAbs ≤ s.dev.im A.HCLK_CHK F.HCLK_CHK_STAB))).getD true) →
    ∀ ok, ok = (near && decide (ppm.natAbs ≤ s.dev.im A.HCLK_CHK F.HCLK_CHK_ACC * 1000)) → ∀ good, good = (if ok then min 8 (c.good + 1) else 0) →
    Clocked (.clockGate i ppm first) s i { good := good, last := some ppm, ready := ok && (c.ready || good == 8) }) ∧
  Clocked (.clockEdgeLoss i) s i {} ∧
  (s.dev.pwr.ocxoWait = true → Does .ocxoDelayEnd s { s.dev with pwr := { s.dev.pwr with ocxoWait := false, ocxoDone := true } }) ∧
  (s.dev.pwr.ocxoWait = false → Does .ocxoDelayEnd s s.dev) ∧
  (Reaches m A.HCLK_MSEL s → ∀ src fq, src = fget v F.HCLK_MSEL_MSRC → fq = fget v F.HCLK_MSEL_MFREQ →
    ∀ can, can = ((src == 0 || (decide (src ≤ 4) && (Tab.get s.dev.pwr.clk {} (src - 1)).ready)) && decide (8 ≤ fq) && decide (fq ≤ 32)) →
    (can = false → Does (.mpllSelect m v) s (s.dev.wrote m fun d => d.setIm A.HCLK_STAT F.HCLK_STAT_SEL_REFUSED 1)) ∧
    (can = true → ∀ f : Dev → Dev, (∀ d, f d = { d.setImmW A.HCLK_MSEL (v &&& 0x13F7#32) with
        pwr := { d.pwr with msrc := src, coast := false, glideTo := if fq = d.pwr.mfreq then none else some fq } }) →
      (s.dev.pwr.coast = false → Does (.mpllSelect m v) s (s.dev.wrote m f)) ∧ (s.dev.pwr.coast = true → Tells (.mpllSelect m v) s (s.dev.wrote m f) pgHCLK 0x3508 0))) ∧
  (s.dev.pwr.glideTo = none → Does .mfreqGlideEnd s s.dev) ∧
  (∀ f, s.dev.pwr.glideTo = some f → Does .mfreqGlideEnd s { s.dev with pwr := { s.dev.pwr with mfreq := f, glideTo := none } }) ∧
  (∀ q b, (∀ e ∈ s.dev.ports, (s.dev.portOf e.1).up = false) → ∀ d : Dev, d = { s.dev with pwr := { s.dev.pwr with spllLock := s.dev.pwr.spllLock.set q b } } →
    (q ≠ 0 → Does (.spllLockChange q b) s d) ∧
    (q = 0 → d.zynRuns = false → s.dev.zyn.link = .down → Does (.spllLockChange q b) s d) ∧
    (q = 0 → d.zynRuns = false → s.dev.zyn.link ≠ .down → s.dev.zyn.link = .training ∨ noneAgreeing s.dev → Tells (.spllLockChange q b) s { d with zyn := { d.zyn with
      link := .down, lanes := 0, downAt := if d.zyn.link = .up then d.now else d.zyn.downAt } } pgZYN 0x3300 0) ∧
    (q = 0 → d.zynRuns = true → s.dev.pairEn = true → s.dev.zyn.link = .down → Tells (.spllLockChange q b) s { d with zyn := { d.zyn with link := .training, lanes := 0 } } pgZYN 0x3300 1) ∧
    (q = 0 → d.zynRuns = true → s.dev.pairEn = false ∨ s.dev.zyn.link ≠ .down → Does (.spllLockChange q b) s d))

/-- R445, R446, R447: SLEEP and DEEP are requested for the next boundary, WAKE and WAKE_N wake the device; DEEP SLEEP ends the commits, keeps the settings and the memories it is told to, and a wake makes the counter up
by the cellar's ticks, after which the TPLL is in HOLDOVER or takes the best READY source. -/
def Obligations.SleepAndWake : Prop := ∀ (s : State) (m n : Nat), s.dev.pwr.inReset = false →
  ∀ busy, busy = (s.dev.pwr.req.isSome || s.dev.pwr.deepAt.isSome) →
  ∀ rest : Dev → Dev, (∀ d, rest d = { d with pwr := { d.pwr with st := .run, req := none, govQ := [] } }) →
  ∀ wakes : Instr → Dev → Nat → Prop, (∀ i e cause, wakes i e cause ↔ Completes i s (fun t => t.pending = s.pending ∧ t.mem = s.mem ∧ (rest t.dev).agrees (rest e) ∧
    t.dev.pwr.st = .run ∧ s.dev.told pgHPWR 0x3511 cause t.dev ∧ s.dev.told pgHPWR 0x3510 0 t.dev)) →
  (Awake s → Reaches m A.HPWR_CTL s →
    (busy = true → Does (.sleepRequest m) s (s.dev.wrote m id) ∧ Does (.deepRequest m) s (s.dev.wrote m id) ∧ Does (.wakeRequest m) s (s.dev.wrote m id)) ∧
    (busy = false → Does (.deepRequest m) s (s.dev.wrote m fun d => { d with pwr := { d.pwr with req := some .deep } })) ∧
    (busy = false → s.dev.pwr.st = .run → Does (.sleepRequest m) s (s.dev.wrote m fun d => { d with pwr := { d.pwr with req := some .sleep } }) ∧ Does (.wakeRequest m) s (s.dev.wrote m id)) ∧
    (busy = false → s.dev.pwr.st = .sleep → Does (.sleepRequest m) s (s.dev.wrote m id) ∧ wakes (.wakeRequest m) (s.dev.wrote m id) 2)) ∧
  (s.dev.pwr.st = .run → Does (.wakeNFall n) s s.dev) ∧ (s.dev.pwr.st = .sleep → wakes (.wakeNFall n) s.dev 3) ∧
  (s.dev.pwr.st ≠ .deep ∨ s.dev.im A.HPWR_ALARM1 F.HPWR_ALARM1_EN = 0 → Does (.cellarAlarm n) s s.dev) ∧
  (Awake s → s.dev.deepReady = false → Does .deepSleepEntry s s.dev) ∧
  (Awake s → s.dev.deepReady = true → ∀ g, g = s.dev.lvW A.HCLK_GATE_DEEP → Completes .deepSleepEntry s (fun t => t.pending = s.pending ∧
    t.dev.pwr.st = .deep ∧ t.dev.pwr.req = none ∧ t.dev.pwr.deepAt = none ∧ t.dev.pwr.hallwayOpen = false ∧ t.dev.pwr.active = [] ∧ t.dev.h.ctr = s.dev.h.ctr ∧ t.dev.h.tpll = .slowHold ∧
    t.dev.h.slowC0 = max s.dev.h.ctr (s.dev.h.atTU * 65536) ∧ t.dev.h.slowN0 = s.dev.pwr.cellar ∧ t.dev.regs.staged = s.dev.regs.staged ∧ t.dev.regs.pending = [] ∧ t.dev.own = s.dev.own ∧ t.dev.zyn.link = .down ∧
    (s.dev.zyn.ringRole = none → t.dev.regs.live = s.dev.regs.live) ∧ (∀ k, (t.dev.pcOf k).oe = false) ∧ t.dev.sq.num = s.dev.sq.num ∧
    (∀ a, t.mem.byte a = if fget g F.HCLK_GATE_DEEP_STORE = 1 ∨ 2 ^ 29 ≤ a then s.mem.byte a else 0) ∧
    (∀ T < 260, ∀ p < 2 ^ 18, t.mem.pbyte T p = if fget g F.HCLK_GATE_DEEP_PANTRY = 1 then s.mem.pbyte T p else 0))) ∧
  (s.dev.pwr.st = .deep → ∀ i cause, i = .wakeNFall n ∧ cause = 3 ∨ i = .cellarAlarm n ∧ cause = 4 ∧ s.dev.im A.HPWR_ALARM1 F.HPWR_ALARM1_EN = 1 →
    ∀ ctr, ctr = s.dev.h.slowC0 + n * (30517 * nsTU + 37888) * 65536 → Completes i s (fun t => t.pending = s.pending ∧ t.mem = s.mem ∧
      t.dev.pwr.st = .run ∧ t.dev.pwr.hallwayOpen = true ∧ t.dev.pwr.vreq = s.dev.pwr.vkeep ∧ t.dev.pwr.cellar = s.dev.h.slowN0 + n ∧ t.dev.h.ctr = ctr ∧
      (s.dev.sq.armed = false ∨ ctr / 65536 < s.dev.sq.nxt → t.dev.sq.num = s.dev.sq.num) ∧ (s.dev.h.tpll = .slowHold → ∀ pr ok, pr = s.dev.im A.HSRC_SEL F.HSRC_SEL_PRIO → ok = [pr % 4, pr / 4 % 4, pr / 16 % 4, pr / 64 % 4].find? s.dev.srcReady →
        (s.dev.im A.HSRC_SEL F.HSRC_SEL_AUTO = 0 ∨ ok = none → t.dev.h.tpll = .holdover ∧ t.dev.h.src = s.dev.h.src) ∧
        (∀ c, s.dev.im A.HSRC_SEL F.HSRC_SEL_AUTO = 1 → ok = some c → t.dev.h.tpll = .acquire ∧ t.dev.h.src = c)) ∧
      t.dev.carries ⟨0x3511, ctr / 65536, cause⟩ ∧ t.dev.carries ⟨0x3510, ctr / 65536, 0⟩))

end

namespace Sys2Proof.Machine

/-- R449, R450, R451, R452, R453: each voltage request moves by 10 mV at most and stays within VMIN and VMAX; a failed or wrong reading sets AVS_FAULT; temperature sets WARN, OUT_OF_SPEC and, at its limit, resets
the device and holds it until 125 °C. -/
def VoltageAndTemperature : Prop := ∀ (s : State) (ok slow : Bool) (want readBack : Nat) (tj : Int), ∀ p, p = s.dev.pwr →
  (Awake s → ∀ base goal req, base = (if p.vreq = 0 then 750 else p.vreq) → goal = max (s.dev.lv A.HPWR_AVS F.HPWR_AVS_VMIN) (min (s.dev.lv A.HPWR_AVS F.HPWR_AVS_VMAX) want) →
    req = (if goal < base then max goal (base - 10) else min goal (base + 10)) → ∀ fails, fails = (if ok then 0 else p.avsFails + 1) →
    ∀ bad, bad = (decide (3 ≤ fails) || (ok && decide (p.vreq ≠ 0) && decide (p.vreq + 20 < readBack ∨ readBack + 20 < p.vreq))) →
    ∀ d : Dev, d = { s.dev with pwr := { p with vreq := req, vread := if ok then readBack else p.vread, avsFails := fails % 3, speedLow := slow } } →
    DoesAnd (.avsTick ok want readBack slow) s (if bad then d.setIm A.HPWR_VREQ F.HPWR_VREQ_AVS_FAULT 1 else d) (fun u =>
      (bad = true → s.dev.im A.HPWR_VREQ F.HPWR_VREQ_AVS_FAULT ≠ 1 → s.dev.told pgHPWR 0x3520 1 u) ∧ (slow ≠ p.speedLow → s.dev.told pgHPWR 0x3520 (if slow then 2 else 3) u))) ∧
  (p.inReset = true → Does (.thermalSample tj) s { s.dev with pwr := { p with tj := tj, thermalHold := p.thermalHold && decide (500 < tj) } }) ∧
  (p.inReset = false → p.st = .deep → Does (.thermalSample tj) s s.dev) ∧
  (Awake s → ∀ heat, heat = (s.dev.lv A.HCFG_MODE F.HCFG_MODE_MODE == 3) → ∀ warn : Int, warn = (s.dev.lv A.HPWR_TWARN F.HPWR_TWARN_WARN : Int) * 4 →
    ∀ warns, warns = (decide (p.tj < warn) && decide (warn ≤ tj)) → ∀ enters, enters = (!heat && decide (500 < tj) && !p.outOfSpec) → ∀ leaves, leaves = (decide (tj ≤ 488) && p.outOfSpec) →
    ∀ arg : Nat → Nat, (∀ k, arg k = k + unsgn 12 tj * 256) → ∀ trips, trips = (decide (620 ≤ tj) || (!heat && decide (560 ≤ tj))) →
    (trips = false → ∀ d : Dev, d = { s.dev with pwr := { p with tj := tj, outOfSpec := (p.outOfSpec || enters) && !leaves } } →
      DoesAnd (.thermalSample tj) s (if warns then d.setIm A.HPWR_THERM F.HPWR_THERM_WARN_SEEN 1 else d) (fun u =>
        (warns = true → s.dev.told pgHPWR 0x3518 (arg 3) u) ∧ (enters = true → s.dev.told pgHPWR 0x3518 (arg 1) u) ∧ (leaves = true → s.dev.told pgHPWR 0x3518 (arg 2) u))) ∧
    (trips = true → Completes (.thermalSample tj) s (fun t => t.pending = s.pending ∧ t.dev.pwr.inReset = true ∧ t.dev.pwr.cause = 2 ∧ t.dev.pwr.thermalHold = true ∧ t.dev.pwr.tj = tj ∧
      t.dev.pwr.hallwayOpen = false ∧ t.dev.regs.live = [] ∧ t.dev.regs.staged = [] ∧ t.dev.eng = [])))

/-- R49, R454, R455, R456, R457: each microsecond the governor starts the activation at the head of its queue when the budget of the last ten leaves room for its step, and counts what waits; a settled mode is told. -/
def GovernorStartsInTurn : Prop := ∀ (s : State), Awake s → ∀ p t log sum budget, p = s.dev.pwr → t = p.tick + 1 → log = p.govLog.filter (fun x => decide (t < x.1 + 10)) →
  sum = (log.map (·.2)).foldl (· + ·) 0 → budget = s.dev.lv A.HGOV_CFG F.HGOV_CFG_BUDGET * 10 →
  (p.govQ = [] → Does .governorTick s { s.dev with pwr := { p with tick := t, govLog := log } }) ∧
  (∀ r, p.govQ = [r] → r.order = 1 ∨ r.order = 2 ∨ r.order = 3 → ∀ step, step = (if r.order = 1 then 250 else if r.order = 2 then 20 else 30) → ∀ late, late = t - r.tk →
    ∀ starts, starts = (decide (sum + step ≤ budget) || (decide (budget < step) && log.isEmpty)) →
    (starts = true → ∀ d : Dev, d = { s.dev with pwr := { p with tick := t, govQ := [], govLog := log ++ [(t, step)], active := p.active ++ [(r.order, r.index)] } } →
      ∀ d1, d1 = (if budget < step then d.incIm A.HGOV_STAT F.HGOV_STAT_OVERSIZE 1 else d) →
      (late = 0 → Does .governorTick s d1) ∧
      (late ≠ 0 → Does .governorTick s ((d1.incIm A.HGOV_DSUM F.HGOV_DSUM_DSUM late).setIm A.HGOV_DMAX F.HGOV_DMAX_DMAX (max late (s.dev.im A.HGOV_DMAX F.HGOV_DMAX_DMAX))))) ∧
    (starts = false → ∀ d : Dev, d = { s.dev with pwr := { p with tick := t, govLog := log } } →
      (r.tk ≠ t → Does .governorTick s d) ∧
      (r.tk = t → p.govDefEpoch = s.dev.sq.num + 1 → Does .governorTick s (d.incIm A.HGOV_STAT F.HGOV_STAT_DEFERRED 1)) ∧
      (r.tk = t → p.govDefEpoch ≠ s.dev.sq.num + 1 →
        Tells .governorTick s ({ d with pwr := { d.pwr with govDefEpoch := s.dev.sq.num + 1 } }.incIm A.HGOV_STAT F.HGOV_STAT_DEFERRED 1) pgHGOV 0x3528 r.order))) ∧
  (s.dev.sq.modes = [] → Does .modeSettled s s.dev) ∧
  (s.dev.sq.modes ≠ [] → Tells .modeSettled s { s.dev with
    sq := { s.dev.sq with modes := [] }
    regs := { s.dev.regs with live := Tab.set s.dev.regs.live A.HCFG_MODE (fput (s.dev.lvW A.HCFG_MODE) F.HCFG_MODE_SETTLING 0) } } pgHCOM 0x3110 (s.dev.lv A.HCFG_MODE F.HCFG_MODE_MODE))

end Sys2Proof.Machine

section
open Sys2Proof Sys2Proof.Machine

/-- Core voltage (a first request is counted from 750 mV: log entry 42), temperature (log entry 43), and the governor of starts. -/
def Obligations.VoltageHeatAndStarts : Prop := VoltageAndTemperature ∧ GovernorStartsInTurn

end

namespace Sys2Proof.Machine

/-- A device without what stands outside a device reset or is treated by itself: the levels on its input balls, the supplies, fuses and flash, the log of outputs and
the immediate words. -/
def Dev.inside (d : Dev) : Dev :=
  { d with pins := [], trips := [], au := [], pwr := {}, out := [], free := 0, regs := { d.regs with imm := [] }
           sq := { d.sq with pfwLow := false, pfwActive := false, pfwEnd := 0, flashA := none, flashB := none } }

/-- Everything inside is at its reset value, memory with it (the model's choice, log entry 3: the memories are cleared); the pins are released, the hallway is closed,
and what stands outside is as it was (R24, R458, R459, R484). -/
def AllReset (s t : State) : Prop :=
  t.pending = s.pending ∧ t.mem = {} ∧ t.dev.inside = {} ∧ t.dev.sq.flashA = s.dev.sq.flashA ∧ t.dev.sq.flashB = s.dev.sq.flashB ∧
  (∀ k, t.dev.pcOf k = { inLevel := (t.dev.pcOf k).inLevel, inSafe := s.dev.bankLost k && s.dev.pins.any (fun x => x.1 == k) }) ∧
  (∀ k, (∀ x ∈ s.dev.pins, ∀ y ∈ s.dev.pins, x.1 = y.1 → x = y) → (t.dev.pcOf k).inLevel = (s.dev.pcOf k).inLevel) ∧
  (∀ i, t.dev.tripOf i = { level := (t.dev.tripOf i).level }) ∧
  (∀ u, t.dev.auOf u = { lvA := (s.dev.auOf u).lvA, lvB := (s.dev.auOf u).lvB, lvZ := (s.dev.auOf u).lvZ }) ∧
  (∀ x ∈ s.dev.pins, x.2.oe = true → .driver x.1 s.dev.now false ∈ t.dev.out) ∧ (s.dev.pwr.hallwayOpen = true → .hallway false ∈ t.dev.out)

end Sys2Proof.Machine

section
open Sys2Proof Sys2Proof.Machine

/-- R24, R458, R459, R480, R484: every device reset puts all state at its reset values but for the cellar, the flash, the fuses and the log of power failure; its cause is 0 at power-on, which resets the
cellar too, 1 for RST_N and 3 for HRST_CTL; a failing supply resets too, with a CAUSE the rules leave open (the model's free value, log entry 2).
An OTP word that is being programmed when the supplies fail counts as failed (R123). -/
def Obligations.DeviceResets : Prop := ∀ (s : State) (m rail : Nat), ∀ p, p = s.dev.pwr → ∀ after : Nat → Pwr, (∀ c, after c = {
    inReset := true, hallwayOpen := false, cause := c, cellar := p.cellar, banksOff := p.banksOff, supplyLow := p.supplyLow, thermalHold := p.thermalHold
    otp := p.otp, otpBad := p.otpBad, otpNew := p.otpNew, otpFail := p.otpFail, tj := p.tj }) →
  ∀ fails, fails = p.otpCmd.toList.map (·.1) ++ p.otpFail →
  ∀ seen : Tab Word, seen = (if s.dev.im A.HCOM_PFW F.HCOM_PFW_SEEN = 1 then [(A.HCOM_PFW, 2#32)] else []) →
  ∀ resets : Instr → Nat → Prop, (∀ i c, resets i c ↔ Completes i s (fun t => AllReset s t ∧ t.dev.pwr = after c ∧ t.dev.regs.imm = seen ∧
    t.dev.sq.pfwLow = s.dev.sq.pfwLow ∧ t.dev.sq.pfwActive = s.dev.sq.pfwActive ∧ t.dev.sq.pfwEnd = s.dev.sq.pfwEnd - s.dev.now ∧ t.dev.free = s.dev.free)) →
  resets .rstNAssert 1 ∧ (Awake s → Reaches m A.HRST_CTL s → resets (.deviceResetCmd m) 3) ∧
  Completes .powerOnReset s (fun t => AllReset s t ∧ t.dev.pwr = { after 0 with cellar := 0, thermalHold := false, otpFail := fails } ∧ t.dev.regs = {} ∧
    t.dev.sq.pfwLow = false ∧ t.dev.sq.pfwActive = false) ∧
  Completes (.supplyFail rail) s (fun t => AllReset s t ∧ t.dev.free = s.dev.free + 1 ∧ t.dev.regs.imm = seen ∧ t.dev.sq.pfwActive = s.dev.sq.pfwActive ∧
    t.dev.pwr = { after ((Config.freeValue s.dev.free).toNat % 16) with supplyLow := rail :: p.supplyLow.filter (fun x => x != rail), otpFail := fails })

/-- R453, R456, R464, R465, R466, R468, R472, R480: the release of device reset samples the straps, takes the fuses, opens the hallway, asks for the store groups and lets the
steward begin: at once with result 1 in the boot modes from 4 on, from the host in 1 and 2, from the directory in 0 and 3. After a thermal trip it waits. -/
def Obligations.ReleaseBeginsTheBoot : Prop := ∀ (s : State) (st : Straps) (otp : List Word) (bad : List Nat) (fl : BootFlash), ∀ p, p = s.dev.pwr →
  (p.inReset = false ∨ p.thermalHold = true → Does (.deviceResetRelease st otp bad fl) s s.dev) ∧
  (p.inReset = true → p.thermalHold = false → ∀ mode, mode = st.bootMode % 8 → ∀ warn, warn = (if bad ++ p.otpFail = [] then 0 else 1) →
    Within (.deviceResetRelease st otp bad fl) s (fun d => { d with pwr := {}, regs := { d.regs with staged := [], live := [] }, out := [] }) (fun u => ∀ r, r = u.pwr →
      r.inReset = false ∧ r.hallwayOpen = true ∧ .hallway true ∈ u.out ∧ r.supplyLow = [] ∧ r.side = st.sideB ∧ r.bootMode = mode ∧ r.oscDly = st.oscDly % 16 ∧ r.celRc = st.celRc ∧
      r.ocxoWait = true ∧ r.otpBad = bad ++ p.otpFail ∧ r.otpNew = [] ∧ r.otpFail = [] ∧ r.cause = p.cause ∧ r.cellar = p.cellar ∧ r.st = p.st ∧ r.banksOff = p.banksOff ∧
      (p.otpNew = [] → ∀ w < 64, Tab.get r.otp 0 w = otp.getD w 0) ∧ (∀ w v, p.otpNew = [(w, v)] → Tab.get r.otp 0 w = v) ∧
      (∀ b v, b = u.otpWord 24 % 65536 → v = u.otpWord 25 % 1024 →
        u.lvW A.HGOV_CFG = fput (s.dev.lvW A.HGOV_CFG) F.HGOV_CFG_BUDGET (if b = 0 then 400 else b) ∧ u.stg A.HGOV_CFG = fput (s.dev.stg A.HGOV_CFG) F.HGOV_CFG_BUDGET (if b = 0 then 400 else b) ∧
        u.lvW A.HPWR_AVS = fput (s.dev.lvW A.HPWR_AVS) F.HPWR_AVS_VMAX (if v = 0 then 850 else v) ∧ u.stg A.HPWR_AVS = fput (s.dev.stg A.HPWR_AVS) F.HPWR_AVS_VMAX (if v = 0 then 850 else v)) ∧
      (∀ a, a ≠ A.HGOV_CFG → a ≠ A.HPWR_AVS → u.lvW a = s.dev.lvW a ∧ u.stg a = s.dev.stg a) ∧
      (∀ q < 4, u.activated 1 q = true ∨ ∃ x ∈ r.govQ, x.order = 1 ∧ x.index = q) ∧
      (∀ ends : Nat → Prop, (∀ c, ends c ↔ r.steward = false ∧ r.bootResult = c ∧ r.bootWarn = warn ∧ s.dev.told pgHBOOT 0x3500 (c + warn * 256) u) →
        (4 ≤ mode → ends 1) ∧ (mode = 1 ∨ mode = 2 → r.steward = p.steward ∧ r.bootFlash = none ∧ r.bootWarn = warn) ∧
        (mode = 0 → fl.ok = false → ends 2) ∧ (mode = 0 → fl.ok = true → fl.dirA = none → fl.dirB = none → ends 3) ∧
        (mode = 3 → fl.ok = false ∨ fl.dirA = none ∧ fl.dirB = none → r.steward = p.steward ∧ r.bootFlash = none ∧ r.bootWarn = setBit warn 4) ∧
        (mode = 0 ∨ mode = 3 → fl.ok = true → ∀ b, (b = false ∧ fl.dirA ≠ none ∧ fl.dirB = none ∨ b = true ∧ fl.dirA = none ∧ fl.dirB ≠ none ∨
            ∃ x y, fl.dirA = some x ∧ fl.dirB = some y ∧ b = laterMod 32 x.1 y.1) →
          r.steward = p.steward ∧ r.bootFlash = some fl ∧ r.bootB = b ∧ r.bootWarn = warn ∧ r.bootDone = [] ∧ r.bootWait = false ∧
          (∀ d, dirOf fl b = some d → r.bootSeq = d.1 ∧ r.bootQ = ((List.range 256) ++ [257, 258, 259, 256]).flatMap (tileLoads (areaOf fl b) d.2))))))

end

namespace Sys2Proof.Machine

/-- An engine after its tile's reset at `t`: OFFLINE, with its control store, a load that waits and a stop still to be stamped (R460). -/
def Eng.afterReset (e : Eng) (t : Nat) : Eng :=
  { st := .offline, img := e.img, cstore := e.cstore, lastCause := e.lastCause, ldResult := e.ldResult, ldQueued := e.ldQueued, ldPatch := e.ldPatch, dropEpoch := e.dropEpoch
    unstamped := e.unstamped, busyAt := some (e.busyAt.getD t) }

/-- A move that reads or writes a pantry of the tiles, or a scan of one of their pantries or control stores, is in progress (R399, R462). -/
def moveMeets (d : Dev) (tiles : List Nat) (c : Nat) : Bool := decide (c < 32) && tiles.any (fun T => (d.dmaOf c).move.any (·.meets T))
def scanMeets (d : Dev) (tiles : List Nat) (c : Nat) : Bool := decide (c < 16) && (d.cvuOf c).st == .scanning && (d.cvuOf c).space != 0 && tiles.contains (d.cvuOf c).tile

end Sys2Proof.Machine

section
open Sys2Proof Sys2Proof.Machine

/-- R460, R461, R462, R463: a tile or a quadrant is reset on request, its models restart, its DMA channels and scans, and those that have a request in a tile under reset, fault with code 8, and at the reset's end the engines are OFFLINE, their control stores kept;
of a transfer cut off some leading part of open length (the model's free value, log entry 2) has arrived. -/
def Obligations.TilesAndQuadrantsReset : Prop := ∀ (s : State) (m q T : Nat), Awake s → q < 4 →
  (Reaches m A.HRST_TILE s → ∀ e, e = s.dev.engOf T → (260 ≤ T → T < 512 → Does (.tileResetCmd m T) s (s.dev.wrote m id)) ∧
    (T < 260 → e.wait = none → (∀ c, moveMeets s.dev [T] c = false ∧ scanMeets s.dev [T] c = false) →
      Does (.tileResetCmd m T) s (s.dev.wrote m fun d => d.setEng T { e with resetting := true })) ∧
    (T < 260 → Completes (.tileResetCmd m T) s (fun t => (t.dev.engOf T).resetting = true ∧ t.mem = s.mem ∧ t.pending = s.pending ∧
      (∀ c, moveMeets s.dev [T] c = true → (t.dev.dmaOf c).st = .fault ∧ (t.dev.dmaOf c).fault = 8 ∧ (t.dev.dmaOf c).move = none) ∧
      ∀ c, scanMeets s.dev [T] c = true → (t.dev.cvuOf c).st = .idle ∧ (t.dev.cvuOf c).fault = 8))) ∧
  (∀ e, e = s.dev.engOf T → (e.resetting = false ∨ s.dev.pwr.qbusy.contains (tileQuad T) = true → Does (.tileResetComplete T) s s.dev) ∧
    (e.resetting = true → s.dev.pwr.qbusy.contains (tileQuad T) = false → e.inbox = [] → ∀ d : Dev, d = s.dev.setEng T (e.afterReset s.dev.now) →
      (e.tags = [] → Tells (.tileResetComplete T) s d pgHRST 0x3502 (2 + T * 256)) ∧
      (∀ k x, e.tags = [(k, x)] → Completes (.tileResetComplete T) s (fun t => t.pending = s.pending ∧ s.dev.told pgHRST 0x3502 (2 + T * 256) t.dev ∧ t.dev.agrees { d with free := d.free + 1 } ∧
        ∃ n ≤ x.len, n = (Config.freeValue s.dev.free).toNat % (x.len + 1) ∧
          t.mem = s.mem.run [if x.write then .store x.store (s.mem.pbytes T x.pantry n) else .pantry T x.pantry (s.mem.bytes x.store n)])))) ∧
  (∀ rest : Dev → Dev, (∀ d, rest d = { d with eng := [], fin := [], finOld := [], dma := [], cvu := [], pwr := { d.pwr with qbusy := [] } }) →
    (Reaches m A.HRST_CTL s → s.dev.pwr.qbusy.contains q = true → Does (.quadResetCmd m (2 ^ q)) s (s.dev.wrote m id)) ∧
    (Reaches m A.HRST_CTL s → s.dev.pwr.qbusy.contains q = false → (∀ U ∈ quadTiles q, (s.dev.engOf U).wait = none) → (∀ e ∈ s.dev.tileIn, e.1 / 64 ≠ q) → (∀ e ∈ s.dev.tileBe, e.1 / 64 ≠ q) →
      (∀ e ∈ s.dev.fout, e.1 / 8192 ≠ q) → (∀ e ∈ s.dev.ports, e.1 / 32 = q → e.2.up = false) → (∀ e ∈ s.dev.irq, e.1 / 8 / 257 ≠ q) →
      Completes (.quadResetCmd m (2 ^ q)) s (fun t => t.pending = s.pending ∧ t.mem = s.mem ∧ (rest t.dev).agrees (rest (s.dev.wrote m id)) ∧ t.dev.pwr.qbusy = s.dev.pwr.qbusy ++ [q] ∧
        (∀ U, t.dev.engOf U = if U ∈ quadTiles q then { s.dev.engOf U with resetting := true } else s.dev.engOf U) ∧
        (∀ fc f, Tab.get? s.dev.fin fc = some f → Tab.get? t.dev.fin fc = some (if fc / 8192 = q then { f.restart with ssrc := none } else f)) ∧
        (∀ c x, x = s.dev.dmaOf c → t.dev.dmaOf c = if c / 8 = q ∧ (x.st = .run ∨ x.st = .wait ∨ x.st = .stopping) ∨ moveMeets s.dev (quadTiles q) c = true then
          { x with st := .fault, fault := 8, move := none, waitId := none, waitT := none, waitTimeout := none } else x) ∧
        (∀ c x, x = s.dev.cvuOf c → t.dev.cvuOf c = if c / 4 = q ∧ x.st ≠ .idle ∨ scanMeets s.dev (quadTiles q) c = true then { x with st := .idle, fault := 8 } else x))) ∧
    (s.dev.pwr.qbusy.contains q = false → Does (.quadResetComplete q) s s.dev) ∧
    (s.dev.pwr.qbusy.contains q = true → (∀ U ∈ quadTiles q, (s.dev.engOf U).tags = [] ∧ (s.dev.engOf U).inbox = []) →
      Within (.quadResetComplete q) s (fun d => { d with eng := [], pwr := { d.pwr with qbusy := [] } }) (fun u => u.pwr.qbusy = s.dev.pwr.qbusy.filter (fun x => x != q) ∧
        (∀ U, u.engOf U = if U ∈ quadTiles q then (s.dev.engOf U).afterReset s.dev.now else s.dev.engOf U) ∧ s.dev.told pgHRST 0x3502 (1 + q * 256) u)))

end

namespace Sys2Proof.Machine

/-- R476, R478: the four balls of every lane, the ball or the two balls of every pin channel, and the ball of every trip input carry that signal in the ball map, and no other
ball carries it. -/
def BallsCarryTheirSignals : Prop := ∀ r c, 1 ≤ r → r ≤ 51 → 1 ≤ c → c ≤ 51 →
  (∀ n tx dn, n < 128 → (ballName r c = .lane n tx dn ↔ laneBall n tx dn = (r, c))) ∧
  (∀ pc, pc < 256 → pc % 64 < 60 → (ballName r c = .pin pc ↔ pinBall pc = (r, c))) ∧
  (∀ pc dn, pc < 256 → 60 ≤ pc % 64 → (ballName r c = .lvds pc dn ↔ lvdsBall pc dn = (r, c))) ∧
  (∀ i, i < 16 → (ballName r c = .trip i ↔ tripBall i = (r, c)))

/-- R472: PROG programs a blank word, unless one is being programmed, the fuses are locked or power fails; the end tells whether the word reads back. -/
def FusesAreProgrammed : Prop := ∀ (s : State) (m : Nat) (valid : Bool), Awake s → ∀ p, p = s.dev.pwr →
  (Reaches m A.HOTP_CMD s → ∀ w, w = s.dev.im A.HOTP_ADDR F.HOTP_ADDR_ADDR →
    ∀ refused, refused = (p.otpCmd.isSome || p.otpBad.contains w || Tab.get p.otp 0 w != 0 || (Tab.get? p.otpNew w).isSome || p.otpFail.contains w ||
      ((s.dev.otpWord 0).testBit 1 && w != 0) || s.dev.sq.pfwActive) →
    (refused = true → Tells (.otpProgram m) s (s.dev.wrote m fun d => d.setIm A.HOTP_CMD F.HOTP_CMD_REFUSED 1) pgHOTP 0x3501 (2 + w * 256)) ∧
    (refused = false → Does (.otpProgram m) s (s.dev.wrote m fun d => { d with pwr := { d.pwr with otpCmd := some (w, s.dev.immW A.HOTP_DATA) } }))) ∧
  (p.otpCmd = none → Does (.otpProgramEnd valid) s s.dev) ∧
  (∀ w v, p.otpCmd = some (w, v) →
    Tells (.otpProgramEnd true) s (({ s.dev with pwr := { p with otpCmd := none, otpNew := Tab.set p.otpNew w v } } : Dev).setIm A.HOTP_CMD F.HOTP_CMD_DONE 1) pgHOTP 0x3501 (1 + w * 256) ∧
    Tells (.otpProgramEnd false) s (({ s.dev with pwr := { p with otpCmd := none, otpFail := w :: p.otpFail } } : Dev).setIm A.HOTP_CMD F.HOTP_CMD_FAIL 1) pgHOTP 0x3501 (4 + w * 256))

/-- A channel whose bank has lost its supply: it is in safe state without a cause and its driver is off; one that was driven forgets its queue (R46, R259, R484). -/
def PinCh.lost (c : PinCh) (driven : Bool) : PinCh :=
  let c : PinCh := if driven then { c with resume := none, restartN := none, pend := none, q := [] } else c
  { c with held := none, ended := none, chat := none, trs := [], safePend := none, inSafe := true, running := false, reqs := [], sched := [], trigs := [], oe := false
           wlevel := c.wlevel && c.mode != 12 }

/-- R46, R484: a bank without its supply drives none of its pins, holds its channels in safe state and forgets what their inputs were about to do; an angle unit in SYNC with a pin there loses
its synchronisation; the trip input it carries counts as asserted while enabled (log entry 41: which trip a bank carries is the model's reading, and log entry 91: the safe state has no cause bit
and the loss no cause code). Its return lets channels without a cause resume 24 ns later, the others drive again, and the trip follow its level. -/
def BanksLoseTheirSupply : Prop := ∀ (s : State) (b : Nat), ∀ off, off = s.dev.pwr.banksOff →
  ∀ x, x = s.dev.tripOf b → ∀ en, en = s.dev.lvb (A.TRIP_CFG b) F.TRIP_CFG_EN →
  ∀ rest : Dev → Dev, (∀ d, rest d = { d with pins := [], trips := [], axes := [], out := [], pwr := { d.pwr with banksOff := [] } }) →
  (off.contains b = true → Does (.pinBankSupplyLoss b) s s.dev) ∧ (off.contains b = false → Does (.pinBankSupplyReturn b) s s.dev) ∧
  (s.dev.halted = true → off.contains b = false → Within (.pinBankSupplyLoss b) s rest (fun u => u.pwr.banksOff = b :: off ∧ u.trips = s.dev.trips ∧ u.axes = s.dev.axes ∧ u.out = s.dev.out ∧
    ∀ k, u.pcOf k = if k ∈ bankPcs b then { s.dev.pcOf k with inSafe := true } else s.dev.pcOf k)) ∧
  (s.dev.halted = true → off.contains b = true → Within (.pinBankSupplyReturn b) s rest (fun u => u.pwr.banksOff = off.filter (fun k => k != b) ∧ u.trips = s.dev.trips ∧ u.axes = s.dev.axes ∧
    u.out = s.dev.out ∧ ∀ k, u.pcOf k = if k ∈ bankPcs b then { s.dev.pcOf k with inSafe := (s.dev.pcOf k).causes != 0 } else s.dev.pcOf k)) ∧
  (Awake s → off.contains b = false → ∀ d : Dev, d = { s.dev with pwr := { s.dev.pwr with banksOff := b :: off } } →
    (en = false ∨ x.asserted = true → (∀ a ∈ tileAxes s.dev.live (b / 4), (s.dev.axOf a).moving = false) → (∀ g ∈ tileGrps s.dev.live (b / 4), (s.dev.grpOf g).demands = []) →
      (∀ v < 8, (s.dev.auOf v).st = .sync → d.encSupplied v = true) → Within (.pinBankSupplyLoss b) s rest (fun u => u.pwr.banksOff = b :: off ∧
        (∀ k, u.pcOf k = if k ∈ bankPcs b then (s.dev.pcOf k).lost (drivenMode (s.dev.pcMode k) && (s.dev.pcOf k).causes == 0) else s.dev.pcOf k) ∧ (∀ i, u.tripOf i = s.dev.tripOf i) ∧
        ∀ a, ∀ cut : Bool, (cut = true ↔ a ∈ tileAxes s.dev.live (b / 4) ∧ ∃ k ∈ bankPcs b, stepPin s.dev.live a = some k ∧ (s.dev.pcOf k).mode = 10 ∧ (s.dev.pcOf k).wlevel = true) →
          u.axOf a = { s.dev.axOf a with homed := (s.dev.axOf a).homed && !cut })) ∧
    Completes (.pinBankSupplyLoss b) s (fun t => t.pending = s.pending ∧ t.mem = s.mem ∧ t.dev.pwr.banksOff = b :: off ∧
      (∀ k ∈ bankPcs b, (t.dev.pcOf k).oe = false ∧ (t.dev.pcOf k).inSafe = true) ∧
      (∀ v < 8, (s.dev.auOf v).st = .sync → d.encSupplied v = false → (t.dev.auOf v).st = .seek ∧ (t.dev.auOf v).lossCause = 0 ∧ (t.dev.auOf v).edges = []) ∧
      (en = true → x.asserted = false → (t.dev.tripOf b).asserted = true ∧ (t.dev.tripOf b).held = none ∧
        ∀ in_, in_ = x.blank.any (fun y => decide (y.1 ≤ s.dev.now) && decide (s.dev.now < y.2)) →
        (in_ = true → (t.dev.tripOf b).blankHeld = x.blankHeld ++ [s.dev.now] ∧ (t.dev.tripOf b).tripped = x.tripped) ∧
        (in_ = false → (t.dev.tripOf b).tripped = true ∧ (x.tripped = false → ∀ k ∈ tripPcs s.dev.live b, (t.dev.pcOf k).cause.testBit (b % 4) = true))))) ∧
  (Awake s → off.contains b = true → ∀ d : Dev, d = { s.dev with pwr := { s.dev.pwr with banksOff := off.filter (fun k => k != b) } } →
    Within (.pinBankSupplyReturn b) s rest (fun u => u.pwr.banksOff = d.pwr.banksOff ∧ u.axes = s.dev.axes ∧
      (∀ k ∈ bankPcs b, ∀ c, c = s.dev.pcOf k → (c.causes = 0 → u.pcOf k = { c with resume := some (s.dev.now + 24 * nsTU) }) ∧
        (c.causes ≠ 0 → (u.pcOf k).oe = (d.wantPin k).isSome ∧ (∀ l, d.wantPin k = some l → (u.pcOf k).pin = l) ∧ (u.pcOf k).inSafe = c.inSafe ∧ (u.pcOf k).q = c.q)) ∧
      (∀ k, k ∉ bankPcs b → u.pcOf k = s.dev.pcOf k) ∧
      (en = true → x.level = s.dev.lvb (A.TRIP_CFG b) F.TRIP_CFG_POL → (u.tripOf b).asserted = x.asserted ∧ (u.tripOf b).held = x.held) ∧
      (en = false ∨ x.level ≠ s.dev.lvb (A.TRIP_CFG b) F.TRIP_CFG_POL → (u.tripOf b).asserted = false ∧ (u.tripOf b).held = none)))

end Sys2Proof.Machine

section
open Sys2Proof Sys2Proof.Machine

/-- Fuses are programmed, pin banks lose and regain their supply, and every signal has its balls. -/
def Obligations.FusesAndSupplies : Prop := BallsCarryTheirSignals ∧ FusesAreProgrammed ∧ BanksLoseTheirSupply

end

namespace Sys2Proof.Machine

/-- The block takes its commands in order: a step carries out the command at the front of the queue with the rest of the queue waiting. With none waiting one TPLL cycle passes
(the model's choice, log entry 1), by the increment of R51, of which a slew absorbs its share, unless the device is halted. -/
def StepsTakeCommandsInOrder : Prop := ∀ (s : State),
  (∀ c rest, s.pending = c :: rest → step s = exec c { s with pending := rest }) ∧
  (s.pending = [] → s.dev.halted = true → step s = .next s) ∧
  (s.pending = [] → s.dev.halted = false → s.dev.h.slew = none →
    step s = .next { s with dev := { s.dev with h := { s.dev.h with ctr := s.dev.h.ctr + s.dev.increment, cycle := s.dev.h.cycle + 1 } } }) ∧
  (s.pending = [] → s.dev.halted = false → ∀ x, s.dev.h.slew = some x → ∀ share : Int, share = (s.dev.increment : Int) - incrementFor s.dev.ftrim 0 →
    (max share.natAbs 1 < x.rem.natAbs → step s = .next { s with dev := { s.dev with h := { s.dev.h with
      ctr := s.dev.h.ctr + s.dev.increment, cycle := s.dev.h.cycle + 1, slew := some { x with rem := x.rem - share } } } }) ∧
    (x.rem.natAbs ≤ max share.natAbs 1 → step s = .next { s with dev := { s.dev with h := { s.dev.h with
      ctr := ((s.dev.h.ctr : Int) + incrementFor s.dev.ftrim 0 + x.rem).toNat, cycle := s.dev.h.cycle + 1, slew := some { x with rem := 0 } } } }))

/-- Every command completes, and none touches the commands that wait. -/
def CommandsLeaveTheQueue : Prop := ∀ (c : Instr) (s : State), Completes c s (fun t => t.pending = s.pending)

end Sys2Proof.Machine

section
open Sys2Proof Sys2Proof.Machine

/-- The queue of commands: one a step, in order, each completing. -/
def Obligations.CommandsInOrder : Prop := StepsTakeCommandsInOrder ∧ CommandsLeaveTheQueue

end

namespace Sys2Proof.Machine

/-- The commands that act on a device held in reset or in DEEP SLEEP. -/
def actsHalted : Instr → Bool
  | .thermalSample .. | .powerOnReset | .rstNAssert | .supplyFail .. | .pinBankSupplyLoss .. | .pinBankSupplyReturn .. | .wakeNFall .. | .cellarAlarm .. | .deviceResetRelease .. => true
  | _ => false

/-- The commands that are a level on an input ball. -/
def bringsLevel : Instr → Bool
  | .pinInputTransition .. | .tripInputTransition .. | .pfwAssert .. | .pfwDeassert .. | .pfwWindowEnd => true
  | _ => false

end Sys2Proof.Machine

section
open Sys2Proof Sys2Proof.Machine

/-- R447, R459, R484: held in reset or in DEEP SLEEP the device takes no command but the resets, the wakes, the supplies and the thermal sensor; the levels on its input balls it only takes
(the model's choice, log entry 92). -/
def Obligations.HaltedDeviceTakesNothing : Prop := ∀ (c : Instr) (s : State), s.dev.halted = true →
  (actsHalted c = false → bringsLevel c = false → exec c s = .next s) ∧
  ∀ (k t : Nat) (l : Bool), ∀ sets : Seq → State, (∀ q, sets q = { s with dev := { s.dev with sq := q } }) →
    exec (.pinInputTransition k l t) s = .next { s with dev := s.dev.setPc k { s.dev.pcOf k with inLevel := l } } ∧
    exec (.tripInputTransition k l t) s = .next { s with dev := s.dev.setTrip k { s.dev.tripOf k with level := l } } ∧
    exec (.pfwAssert t) s = .next (sets { s.dev.sq with pfwLow := true, pfwActive := true }) ∧
    exec (.pfwDeassert t) s = .next (sets { s.dev.sq with pfwLow := false, pfwEnd := t + 1000 * usTU }) ∧
    exec .pfwWindowEnd s = .next (sets { s.dev.sq with pfwActive := s.dev.sq.pfwLow })

end

namespace Sys2Proof.Machine

/-- The commands that may write the media store or a pantry: accesses to the windows, DMA programs, packets, the engines' words and transfers, memory tests, loads, the record of the twin, boundaries and what they complete, and resets. -/
def touchesMemory : Instr → Bool
  | .mediaStoreWrite .. | .mediaStoreRead .. | .loadStart | .loadEnd .. | .drainClose | .boundary | .registerWrite .. | .svcFrame .. | .accessReceive .. | .scanEnd .. | .dmaMove .. | .dmaMoveComplete ..
  | .dmaLoop .. | .dmaWait .. | .dmaSignal .. | .dmaEnd .. | .transferComplete .. | .ingressPacket .. | .portFrameReceive .. | .deviceResetCmd .. | .quadResetCmd .. | .quadResetComplete ..
  | .tileResetComplete .. | .deepSleepEntry | .phaseStepApply | .thermalSample .. | .powerOnReset | .rstNAssert | .supplyFail .. | .bankGive .. | .scrubComplete .. | .bankTestEnd .. | .pantryTestEnd ..
  | .pantryRead .. | .pantryWrite .. | .digestReceive .. => true
  | c => match c with
    | .nop .. | .mov .. | .add .. | .sub .. | .and .. | .or .. | .xor .. | .shl .. | .shr .. | .sar .. | .mul .. | .mulh .. | .ext .. | .ins .. | .ffs .. | .cmp .. | .tcmp .. | .tnow .. | .call .. | .ret ..
    | .jx .. | .waitev .. | .waitt .. | .waitm .. | .trap .. | .rett .. | .rds .. | .wrs .. | .ld .. | .st .. | .ldc .. | .stc .. | .xadd .. | .mrd .. | .mwr .. | .balloc .. | .bfree .. | .emit ..
    | .pushq .. | .pusha .. | .regw .. | .regr .. => true
    | _ => false

/-- Every other command leaves every byte of the media store and of the pantries as it was. -/
def OtherCommandsLeaveTheMemories : Prop := ∀ (c : Instr) (s t : State), touchesMemory c = false → exec c s = .next t → t.mem = s.mem ∧
  (∀ a, t.mem.byte a = s.mem.byte a) ∧ ∀ T p, t.mem.pbyte T p = s.mem.pbyte T p

/-- A write of bytes to a canonical memory puts exactly them where they go, and a range zeroed reads zero (R361, R364, R370, R376): the laws of the memory writes that the statements above name. -/
def MemoryWritesLandWhereTheyGo : Prop := ∀ (m : Mem), m.wf = true → ∀ (a T p n : Nat) (bs : List Byte),
  (∀ b, (m.run [.store a bs]).byte b = if a ≤ b ∧ b < a + bs.length then bs.getD (b - a) 0 else m.byte b) ∧ (∀ U q, (m.run [.store a bs]).pbyte U q = m.pbyte U q) ∧
  (∀ U q, q < 2 ^ 18 → p + bs.length ≤ 2 ^ 18 → (m.run [.pantry T p bs]).pbyte U q = if U = T ∧ p ≤ q ∧ q < p + bs.length then bs.getD (q - p) 0 else m.pbyte U q) ∧
  (∀ b, (m.run [.pantry T p bs]).byte b = m.byte b) ∧
  (∀ b, (m.run [.zeroStore a n]).byte b = if a ≤ b ∧ b < a + n then 0 else m.byte b) ∧
  (∀ U q, q < 2 ^ 18 → p + n ≤ 2 ^ 18 → (m.run [.zeroPantry T p n]).pbyte U q = if U = T ∧ p ≤ q ∧ q < p + n then 0 else m.pbyte U q)

end Sys2Proof.Machine

section
open Sys2Proof Sys2Proof.Machine

/-- What may change the memories, and how. -/
def Obligations.MemoriesChangeOnlyByWrites : Prop := OtherCommandsLeaveTheMemories ∧ MemoryWritesLandWhereTheyGo

/-- Every step keeps the memories canonical: addresses strictly rising and no zero byte listed, so that equal memories are equal data. -/
def Obligations.StepsKeepMemoriesCanonical : Prop := ∀ (s t : State), s.memOk → step s = .next t → t.memOk

/-- R24, R459: after reset every register reads the Reset column of its table (0 where the table gives no other value), the counter stands at zero with RUN clear, no domain is owned, every engine is OFFLINE, no pulse and no command is on its way.
The memories list nothing: they read zero (the model's choice, log entry 3). -/
def Obligations.ResetValues : Prop := ∀ d, d = State.reset.dev →
  (∀ a r ix, descAt false a = some (r, ix) → d.immW a = BitVec.ofNat 32 r.rst ∧ d.stg a = BitVec.ofNat 32 r.rst ∧ d.lvW a = BitVec.ofNat 32 r.rst ∧ ∀ m, d.perW a m = BitVec.ofNat 32 r.rst) ∧
  d.h.ctr = 0 ∧ d.h.run = false ∧ d.h.tpll = .acquire ∧ (∀ k, d.ownEnt k = {}) ∧ (∀ T, (d.engOf T).st = .offline) ∧ d.fabric = [] ∧ State.reset.pending = [] ∧ State.reset.mem = {} ∧
  d.h.ready = [true, false, false, false] ∧ (∀ k, (d.pcOf k).oe = false) ∧ d.zyn.link = .down ∧ d.zyn.pair = .solo

/-- The invariant of the memories holds at reset. -/
def Obligations.ResetMemoriesCanonical : Prop := State.reset.memOk

end
end

