-- ==== Sys2Proof/Laws/State.lean ====
section
/-! SUPPORT. Tables, fields of the state under its updates, and what an event's report leaves alone. -/
namespace Sys2Proof.Machine

/-! ## Tables -/

@[simp] theorem tab_get?_set {α : Type} (t : Tab α) (k j : Nat) (v : α) :
    Tab.get? (Tab.set t k v) j = if j = k then some v else Tab.get? t j := by
  induction t with
  | nil => by_cases h : j = k <;> simp [Tab.set, Tab.get?, h]
  | cons e t ih =>
    simp only [Tab.set]
    split
    · simp only [Tab.get?]; split <;> simp_all
    · split
      · simp only [Tab.get?]
      · simp only [Tab.get?, ih]; split <;> split <;> simp_all

@[simp] theorem tab_get_set {α : Type} (t : Tab α) (d : α) (k j : Nat) (v : α) :
    Tab.get (Tab.set t k v) d j = if j = k then v else Tab.get t d j := by
  unfold Tab.get; rw [tab_get?_set]; split <;> rfl

/-! ## Fields of a word -/

/-- A one-bit field is a bit of the word. -/
theorem fget_bit (w : Word) (k : Nat) : fget w ⟨k, 1⟩ = (w.getLsbD k).toNat := by
  simp [fget, BitVec.getLsbD, Nat.testBit, Nat.and_comm 1, Nat.and_one_is_mod, Nat.shiftRight_eq_div_pow]
  generalize w.toNat / 2 ^ k = x
  rcases Nat.mod_two_eq_zero_or_one x with h | h <;> simp [h]

theorem fget_lt (w : Word) (f : Fld) : fget w f < 2 ^ f.w := Nat.mod_lt _ (Nat.two_pow_pos _)

/-- A one-bit field is its own flag. -/
theorem b2n_fget (v : Word) (f : Fld) (h : f.w = 1) : b2n (fget v f = 1) = fget v f := by
  have := fget_lt v f
  rw [h] at this; unfold b2n
  by_cases hh : fget v f = 1 <;> simp [hh]; omega

/-- A field reads what was put into it. -/
theorem fget_fput (w : Word) (f : Fld) (v : Nat) (h : f.lo + f.w ≤ 32) : fget (fput w f v) f = v % 2 ^ f.w := by
  have key : (fput w f v).toNat >>> f.lo % 2 ^ f.w = v % 2 ^ f.w := by
    apply Nat.eq_of_testBit_eq; intro i
    rw [Nat.testBit_mod_two_pow, Nat.testBit_mod_two_pow, Nat.testBit_shiftRight]
    by_cases hi : i < f.w
    · simp only [hi, decide_true, Bool.true_and]
      have e : (fput w f v).toNat.testBit (f.lo + i) = (fput w f v).getLsbD (f.lo + i) := rfl
      rw [e]; unfold fput
      simp only [BitVec.getLsbD_or, BitVec.getLsbD_and, BitVec.getLsbD_not, BitVec.getLsbD_ofNat, Nat.testBit_shiftLeft, Nat.testBit_mod_two_pow]
      have h1 : f.lo + i < 32 := by omega
      have h2 : (2 ^ f.w - 1).testBit i = true := by rw [Nat.testBit_two_pow_sub_one]; simp [hi]
      simp [h1, hi, h2]
    · simp [hi]
  exact key

/-! ## Folds -/

/-- What every step of a fold keeps, the fold keeps. -/
theorem foldl_inv {α β : Type} (P : β → Prop) (f : β → α → β) (hf : ∀ b a, P b → P (f b a)) (l : List α) (b : β) (h : P b) : P (l.foldl f b) := by
  induction l generalizing b with
  | nil => exact h
  | cons a t ih => exact ih _ (hf _ _ h)

/-! ## Immediate and per-master words -/

@[simp] theorem immW_setImmW (d : Dev) (a b : Nat) (v : Word) : (d.setImmW a v).immW b = if b = a then v else d.immW b := by
  simp only [Dev.immW, Dev.setImmW, tab_get?_set]; split <;> rfl

@[simp] theorem perW_setPerW (d : Dev) (a m : Nat) (v : Word) : (d.setPerW a m v).perW a m = v := by
  simp [Dev.perW, Dev.setPerW]

@[simp] theorem immW_setPerW (d : Dev) (a m b : Nat) (v : Word) : (d.setPerW a m v).immW b = d.immW b := rfl
@[simp] theorem immW_accRun (d : Dev) (e r : Nat) (ops : List RecOp) (b : Nat) : (d.accRun e r ops).immW b = d.immW b := rfl
@[simp] theorem immW_emit (d : Dev) (o : Output) (b : Nat) : (d.emit o).immW b = d.immW b := rfl
@[simp] theorem lvW_setImmW (d : Dev) (a b : Nat) (v : Word) : (d.setImmW a v).lvW b = d.lvW b := rfl
@[simp] theorem lvW_setPerW (d : Dev) (a m b : Nat) (v : Word) : (d.setPerW a m v).lvW b = d.lvW b := rfl
@[simp] theorem now_setImmW (d : Dev) (a : Nat) (v : Word) : (d.setImmW a v).now = d.now := rfl
@[simp] theorem h_setImmW (d : Dev) (a : Nat) (v : Word) : (d.setImmW a v).h = d.h := rfl
@[simp] theorem h_emit (d : Dev) (o : Output) : (d.emit o).h = d.h := rfl

/-! ## Agreement but for reports -/

theorem agrees_refl (d : Dev) : d.agrees d := ⟨rfl, fun _ _ => rfl⟩

theorem agrees_trans {d e f : Dev} (h : d.agrees e) (k : e.agrees f) : d.agrees f :=
  ⟨h.1.trans k.1, fun a ha => (h.2 a ha).trans (k.2 a ha)⟩

theorem agrees_symm {d e : Dev} (h : d.agrees e) : e.agrees d := ⟨h.1.symm, fun a ha => (h.2 a ha).symm⟩

theorem accRun_agrees (d : Dev) (e r : Nat) (ops : List RecOp) : (d.accRun e r ops).agrees d := ⟨rfl, fun _ _ => rfl⟩

theorem count_agrees (d : Dev) (r : Nat) (ops : List RecOp) : (d.count r ops).agrees d := accRun_agrees _ _ _ _

theorem spillItem_agrees (d : Dev) (s : Spill) : (d.spillItem s).agrees d := by
  unfold Dev.spillItem; split <;> (try split) <;> exact ⟨rfl, fun _ _ => rfl⟩

theorem item_agrees (d : Dev) (s : Src) (t : Nat) (ops : List RecOp) : (d.item s t ops).agrees d := by
  unfold Dev.item; simp only; split
  · exact spillItem_agrees _ _
  · exact accRun_agrees _ _ _ _

theorem evLost_agrees (d : Dev) (s : Src) (t : Nat) : (d.evLost s t).agrees d := by
  unfold Dev.evLost; simp only; split
  · exact accRun_agrees _ _ _ _
  · exact spillItem_agrees _ _

theorem setImmW_report_agrees (d : Dev) (a : Nat) (v : Word) (h : reportReg a = true) : (d.setImmW a v).agrees d := by
  refine ⟨rfl, fun b hb => ?_⟩
  rw [immW_setImmW]; split
  · subst_vars; simp_all
  · rfl

end Sys2Proof.Machine
end

