-- ==== Sys2Proof/Laws/Posts.lean ====
section
/-! SUPPORT. A posted write's number changes nothing but the late-fault log's counts (R382). -/
namespace Sys2Proof.Machine

@[simp] theorem post_h (d : Dev) (m : Nat) : (d.post m).h = d.h := by unfold Dev.post; split <;> rfl
@[simp] theorem post_regs (d : Dev) (m : Nat) : (d.post m).regs = d.regs := by unfold Dev.post; split <;> rfl
@[simp] theorem post_fabric (d : Dev) (m : Nat) : (d.post m).fabric = d.fabric := by unfold Dev.post; split <;> rfl
@[simp] theorem post_sq (d : Dev) (m : Nat) : (d.post m).sq = d.sq := by unfold Dev.post; split <;> rfl
@[simp] theorem post_own (d : Dev) (m : Nat) : (d.post m).own = d.own := by unfold Dev.post; split <;> rfl
@[simp] theorem post_fin (d : Dev) (m : Nat) : (d.post m).fin = d.fin := by unfold Dev.post; split <;> rfl
@[simp] theorem post_fout (d : Dev) (m : Nat) : (d.post m).fout = d.fout := by unfold Dev.post; split <;> rfl
@[simp] theorem post_finOld (d : Dev) (m : Nat) : (d.post m).finOld = d.finOld := by unfold Dev.post; split <;> rfl
@[simp] theorem post_tileIn (d : Dev) (m : Nat) : (d.post m).tileIn = d.tileIn := by unfold Dev.post; split <;> rfl
@[simp] theorem post_ports (d : Dev) (m : Nat) : (d.post m).ports = d.ports := by unfold Dev.post; split <;> rfl
@[simp] theorem post_hostq (d : Dev) (m : Nat) : (d.post m).hostq = d.hostq := by unfold Dev.post; split <;> rfl
@[simp] theorem post_banks (d : Dev) (m : Nat) : (d.post m).banks = d.banks := by unfold Dev.post; split <;> rfl
@[simp] theorem post_bufs (d : Dev) (m : Nat) : (d.post m).bufs = d.bufs := by unfold Dev.post; split <;> rfl
@[simp] theorem post_pools (d : Dev) (m : Nat) : (d.post m).pools = d.pools := by unfold Dev.post; split <;> rfl
@[simp] theorem post_btest (d : Dev) (m : Nat) : (d.post m).btest = d.btest := by unfold Dev.post; split <;> rfl
@[simp] theorem post_ptest (d : Dev) (m : Nat) : (d.post m).ptest = d.ptest := by unfold Dev.post; split <;> rfl
@[simp] theorem post_pins (d : Dev) (m : Nat) : (d.post m).pins = d.pins := by unfold Dev.post; split <;> rfl
@[simp] theorem post_timers (d : Dev) (m : Nat) : (d.post m).timers = d.timers := by unfold Dev.post; split <;> rfl
@[simp] theorem post_trips (d : Dev) (m : Nat) : (d.post m).trips = d.trips := by unfold Dev.post; split <;> rfl
@[simp] theorem post_axes (d : Dev) (m : Nat) : (d.post m).axes = d.axes := by unfold Dev.post; split <;> rfl
@[simp] theorem post_grps (d : Dev) (m : Nat) : (d.post m).grps = d.grps := by unfold Dev.post; split <;> rfl
@[simp] theorem post_au (d : Dev) (m : Nat) : (d.post m).au = d.au := by unfold Dev.post; split <;> rfl
@[simp] theorem post_eng (d : Dev) (m : Nat) : (d.post m).eng = d.eng := by unfold Dev.post; split <;> rfl
@[simp] theorem post_loadQ (d : Dev) (m : Nat) : (d.post m).loadQ = d.loadQ := by unfold Dev.post; split <;> rfl
@[simp] theorem post_budget (d : Dev) (m : Nat) : (d.post m).budget = d.budget := by unfold Dev.post; split <;> rfl
@[simp] theorem post_meters (d : Dev) (m : Nat) : (d.post m).meters = d.meters := by unfold Dev.post; split <;> rfl
@[simp] theorem post_mig (d : Dev) (m : Nat) : (d.post m).mig = d.mig := by unfold Dev.post; split <;> rfl
@[simp] theorem post_dma (d : Dev) (m : Nat) : (d.post m).dma = d.dma := by unfold Dev.post; split <;> rfl
@[simp] theorem post_irq (d : Dev) (m : Nat) : (d.post m).irq = d.irq := by unfold Dev.post; split <;> rfl
@[simp] theorem post_irqLast (d : Dev) (m : Nat) : (d.post m).irqLast = d.irqLast := by unfold Dev.post; split <;> rfl
@[simp] theorem post_srcFrame (d : Dev) (m : Nat) : (d.post m).srcFrame = d.srcFrame := by unfold Dev.post; split <;> rfl
@[simp] theorem post_tileBe (d : Dev) (m : Nat) : (d.post m).tileBe = d.tileBe := by unfold Dev.post; split <;> rfl
@[simp] theorem post_pcie (d : Dev) (m : Nat) : (d.post m).pcie = d.pcie := by unfold Dev.post; split <;> rfl
@[simp] theorem post_msixTab (d : Dev) (m : Nat) : (d.post m).msixTab = d.msixTab := by unfold Dev.post; split <;> rfl
@[simp] theorem post_msixPend (d : Dev) (m : Nat) : (d.post m).msixPend = d.msixPend := by unfold Dev.post; split <;> rfl
@[simp] theorem post_cvu (d : Dev) (m : Nat) : (d.post m).cvu = d.cvu := by unfold Dev.post; split <;> rfl
@[simp] theorem post_zyn (d : Dev) (m : Nat) : (d.post m).zyn = d.zyn := by unfold Dev.post; split <;> rfl
@[simp] theorem post_pwr (d : Dev) (m : Nat) : (d.post m).pwr = d.pwr := by unfold Dev.post; split <;> rfl
@[simp] theorem post_out (d : Dev) (m : Nat) : (d.post m).out = d.out := by unfold Dev.post; split <;> rfl
@[simp] theorem post_free (d : Dev) (m : Nat) : (d.post m).free = d.free := by unfold Dev.post; split <;> rfl
@[simp] theorem postAccepted_h (d : Dev) (m : Nat) : (d.postAccepted m).h = d.h := by unfold Dev.postAccepted; split <;> rfl
@[simp] theorem postAccepted_regs (d : Dev) (m : Nat) : (d.postAccepted m).regs = d.regs := by unfold Dev.postAccepted; split <;> rfl
@[simp] theorem postAccepted_fabric (d : Dev) (m : Nat) : (d.postAccepted m).fabric = d.fabric := by unfold Dev.postAccepted; split <;> rfl
@[simp] theorem postAccepted_sq (d : Dev) (m : Nat) : (d.postAccepted m).sq = d.sq := by unfold Dev.postAccepted; split <;> rfl
@[simp] theorem postAccepted_own (d : Dev) (m : Nat) : (d.postAccepted m).own = d.own := by unfold Dev.postAccepted; split <;> rfl
@[simp] theorem postAccepted_fin (d : Dev) (m : Nat) : (d.postAccepted m).fin = d.fin := by unfold Dev.postAccepted; split <;> rfl
@[simp] theorem postAccepted_fout (d : Dev) (m : Nat) : (d.postAccepted m).fout = d.fout := by unfold Dev.postAccepted; split <;> rfl
@[simp] theorem postAccepted_finOld (d : Dev) (m : Nat) : (d.postAccepted m).finOld = d.finOld := by unfold Dev.postAccepted; split <;> rfl
@[simp] theorem postAccepted_tileIn (d : Dev) (m : Nat) : (d.postAccepted m).tileIn = d.tileIn := by unfold Dev.postAccepted; split <;> rfl
@[simp] theorem postAccepted_ports (d : Dev) (m : Nat) : (d.postAccepted m).ports = d.ports := by unfold Dev.postAccepted; split <;> rfl
@[simp] theorem postAccepted_hostq (d : Dev) (m : Nat) : (d.postAccepted m).hostq = d.hostq := by unfold Dev.postAccepted; split <;> rfl
@[simp] theorem postAccepted_banks (d : Dev) (m : Nat) : (d.postAccepted m).banks = d.banks := by unfold Dev.postAccepted; split <;> rfl
@[simp] theorem postAccepted_bufs (d : Dev) (m : Nat) : (d.postAccepted m).bufs = d.bufs := by unfold Dev.postAccepted; split <;> rfl
@[simp] theorem postAccepted_pools (d : Dev) (m : Nat) : (d.postAccepted m).pools = d.pools := by unfold Dev.postAccepted; split <;> rfl
@[simp] theorem postAccepted_btest (d : Dev) (m : Nat) : (d.postAccepted m).btest = d.btest := by unfold Dev.postAccepted; split <;> rfl
@[simp] theorem postAccepted_ptest (d : Dev) (m : Nat) : (d.postAccepted m).ptest = d.ptest := by unfold Dev.postAccepted; split <;> rfl
@[simp] theorem postAccepted_pins (d : Dev) (m : Nat) : (d.postAccepted m).pins = d.pins := by unfold Dev.postAccepted; split <;> rfl
@[simp] theorem postAccepted_timers (d : Dev) (m : Nat) : (d.postAccepted m).timers = d.timers := by unfold Dev.postAccepted; split <;> rfl
@[simp] theorem postAccepted_trips (d : Dev) (m : Nat) : (d.postAccepted m).trips = d.trips := by unfold Dev.postAccepted; split <;> rfl
@[simp] theorem postAccepted_axes (d : Dev) (m : Nat) : (d.postAccepted m).axes = d.axes := by unfold Dev.postAccepted; split <;> rfl
@[simp] theorem postAccepted_grps (d : Dev) (m : Nat) : (d.postAccepted m).grps = d.grps := by unfold Dev.postAccepted; split <;> rfl
@[simp] theorem postAccepted_au (d : Dev) (m : Nat) : (d.postAccepted m).au = d.au := by unfold Dev.postAccepted; split <;> rfl
@[simp] theorem postAccepted_eng (d : Dev) (m : Nat) : (d.postAccepted m).eng = d.eng := by unfold Dev.postAccepted; split <;> rfl
@[simp] theorem postAccepted_loadQ (d : Dev) (m : Nat) : (d.postAccepted m).loadQ = d.loadQ := by unfold Dev.postAccepted; split <;> rfl
@[simp] theorem postAccepted_budget (d : Dev) (m : Nat) : (d.postAccepted m).budget = d.budget := by unfold Dev.postAccepted; split <;> rfl
@[simp] theorem postAccepted_meters (d : Dev) (m : Nat) : (d.postAccepted m).meters = d.meters := by unfold Dev.postAccepted; split <;> rfl
@[simp] theorem postAccepted_mig (d : Dev) (m : Nat) : (d.postAccepted m).mig = d.mig := by unfold Dev.postAccepted; split <;> rfl
@[simp] theorem postAccepted_dma (d : Dev) (m : Nat) : (d.postAccepted m).dma = d.dma := by unfold Dev.postAccepted; split <;> rfl
@[simp] theorem postAccepted_irq (d : Dev) (m : Nat) : (d.postAccepted m).irq = d.irq := by unfold Dev.postAccepted; split <;> rfl
@[simp] theorem postAccepted_irqLast (d : Dev) (m : Nat) : (d.postAccepted m).irqLast = d.irqLast := by unfold Dev.postAccepted; split <;> rfl
@[simp] theorem postAccepted_srcFrame (d : Dev) (m : Nat) : (d.postAccepted m).srcFrame = d.srcFrame := by unfold Dev.postAccepted; split <;> rfl
@[simp] theorem postAccepted_tileBe (d : Dev) (m : Nat) : (d.postAccepted m).tileBe = d.tileBe := by unfold Dev.postAccepted; split <;> rfl
@[simp] theorem postAccepted_pcie (d : Dev) (m : Nat) : (d.postAccepted m).pcie = d.pcie := by unfold Dev.postAccepted; split <;> rfl
@[simp] theorem postAccepted_msixTab (d : Dev) (m : Nat) : (d.postAccepted m).msixTab = d.msixTab := by unfold Dev.postAccepted; split <;> rfl
@[simp] theorem postAccepted_msixPend (d : Dev) (m : Nat) : (d.postAccepted m).msixPend = d.msixPend := by unfold Dev.postAccepted; split <;> rfl
@[simp] theorem postAccepted_cvu (d : Dev) (m : Nat) : (d.postAccepted m).cvu = d.cvu := by unfold Dev.postAccepted; split <;> rfl
@[simp] theorem postAccepted_zyn (d : Dev) (m : Nat) : (d.postAccepted m).zyn = d.zyn := by unfold Dev.postAccepted; split <;> rfl
@[simp] theorem postAccepted_pwr (d : Dev) (m : Nat) : (d.postAccepted m).pwr = d.pwr := by unfold Dev.postAccepted; split <;> rfl
@[simp] theorem postAccepted_out (d : Dev) (m : Nat) : (d.postAccepted m).out = d.out := by unfold Dev.postAccepted; split <;> rfl
@[simp] theorem postAccepted_free (d : Dev) (m : Nat) : (d.postAccepted m).free = d.free := by unfold Dev.postAccepted; split <;> rfl
@[simp] theorem immW_post (d : Dev) (m a : Nat) : (d.post m).immW a = d.immW a := by simp [Dev.immW]
@[simp] theorem lvW_post (d : Dev) (m a : Nat) : (d.post m).lvW a = d.lvW a := by simp [Dev.lvW]
@[simp] theorem stg_post (d : Dev) (m a : Nat) : (d.post m).stg a = d.stg a := by simp [Dev.stg]
@[simp] theorem im_post (d : Dev) (m a : Nat) (f : Fld) : (d.post m).im a f = d.im a f := by simp [Dev.im]
@[simp] theorem imb_post (d : Dev) (m a : Nat) (f : Fld) : (d.post m).imb a f = d.imb a f := by simp [Dev.imb]
@[simp] theorem lv_post (d : Dev) (m a : Nat) (f : Fld) : (d.post m).lv a f = d.lv a f := by simp [Dev.lv]
@[simp] theorem lvb_post (d : Dev) (m a : Nat) (f : Fld) : (d.post m).lvb a f = d.lvb a f := by simp [Dev.lvb]
@[simp] theorem now_post (d : Dev) (m : Nat) : (d.post m).now = d.now := by simp [Dev.now]
@[simp] theorem live_post (d : Dev) (m : Nat) : (d.post m).live = d.live := by funext a; simp [Dev.live]
@[simp] theorem perW_post (d : Dev) (m a n : Nat) : (d.post m).perW a n = d.perW a n := by simp [Dev.perW]
@[simp] theorem halted_post (d : Dev) (m : Nat) : (d.post m).halted = d.halted := by simp [Dev.halted]
@[simp] theorem immW_postAccepted (d : Dev) (m a : Nat) : (d.postAccepted m).immW a = d.immW a := by simp [Dev.immW]
@[simp] theorem im_postAccepted (d : Dev) (m a : Nat) (f : Fld) : (d.postAccepted m).im a f = d.im a f := by simp [Dev.im]

end Sys2Proof.Machine
end

