-- ==== Sys2Proof/Laws/Reports.lean ====
section
/-! SUPPORT. What an event's report does: it agrees with the device it reports on, and the pulse is on its way unless its
source queue was full. -/
namespace Sys2Proof.Machine

theorem err_agrees (d : Dev) (p : Nat) (h : p % 0x1000 = 0) : (d.err p).agrees d := by
  unfold Dev.err Dev.incIm Dev.setIm
  apply setImmW_report_agrees
  simp only [reportReg, A.ERR_CNT, Bool.or_eq_true, beq_iff_eq]; omega

theorem evSet_agrees (d : Dev) (p k : Nat) (h : p % 0x1000 = 0) : (d.evSet p k).agrees d := by
  unfold Dev.evSet
  apply setImmW_report_agrees
  simp only [reportReg, A.EV_STAT, Bool.or_eq_true, beq_iff_eq]; omega

theorem fabric_agrees (d : Dev) (l : List FabEntry) : ({ d with fabric := l } : Dev).agrees d := ⟨rfl, fun _ _ => rfl⟩

theorem emitFrom_agrees (d : Dev) (key page : Nat) (s : Src) (em : Option Nat) (p : Pulse) (h : page % 0x1000 = 0) :
    (d.emitFrom key page s em p).agrees d := by
  unfold Dev.emitFrom; simp only
  split
  · have h1 : ((d.err page).evLost s p.stamp).agrees d := agrees_trans (evLost_agrees _ _ _) (err_agrees _ _ h)
    split
    · exact agrees_trans (item_agrees _ _ _ _) h1
    · exact h1
  · exact fabric_agrees _ _

theorem house_agrees (d : Dev) (pg id arg : Nat) : (d.house pg id arg).agrees d :=
  emitFrom_agrees _ _ _ _ _ _ (by omega)

theorem houseAt_agrees (d : Dev) (pg id arg t : Nat) : (d.houseAt pg id arg t).agrees d :=
  emitFrom_agrees _ _ _ _ _ _ (by omega)

theorem happen_agrees (d : Dev) (key page k : Nat) (s : Src) (p : Pulse) (h : page % 0x1000 = 0) :
    (d.happen key page k s p).agrees d := by
  unfold Dev.happen; simp only
  split
  · exact agrees_trans (emitFrom_agrees _ _ _ _ _ _ h) (evSet_agrees _ _ _ h)
  · exact evSet_agrees _ _ _ h

/-- A pulse is on its way unless its source queue was full (R45). -/
theorem emitFrom_carries (d : Dev) (key page : Nat) (s : Src) (em : Option Nat) (p : Pulse)
    (h : d.queueFull key (inboxDom d p) = false) : (d.emitFrom key page s em p).carries p := by
  unfold Dev.emitFrom; simp only [h]
  exact ⟨⟨p, .ctl, key, em, false⟩, by simp, rfl, rfl⟩

/-- A house block's queue holds what the fabric holds, whatever the domain (R45). -/
theorem queueFull_house {d e : Dev} (hf : d.fabric = e.fabric) (pg x y : Nat) :
    d.queueFull (houseKey pg) x = e.queueFull (houseKey pg) y := by
  have hk : ¬ houseKey pg < 260 := by unfold houseKey; split <;> omega
  have hq : d.queued (houseKey pg) = e.queued (houseKey pg) := by unfold Dev.queued; rw [hf]
  unfold Dev.queueFull; rw [hq]; cases srcDepth (houseKey pg) <;> simp [hk]

/-- A house block's pulse is told: it carries the device's instant, unless the queue was full. -/
theorem house_told {d e : Dev} (hf : d.fabric = e.fabric) (hn : d.now = e.now) (pg id arg : Nat) :
    e.told pg id arg (d.house pg id arg) := by
  intro h
  have := emitFrom_carries d (houseKey pg) (pg * 0x1000) srcHouse none ⟨id, d.now, arg % 2 ^ 32⟩
    ((queueFull_house hf pg _ houseDom).trans h)
  rw [hn] at this
  unfold Dev.house; rw [hn]; exact this

theorem told_fabric {d t u : Dev} {pg id arg : Nat} (hf : u.fabric = t.fabric) (h : d.told pg id arg t) : d.told pg id arg u := by
  unfold Dev.told Dev.carries at *; rw [hf]; exact h

/-! ## Agreement under updates -/

theorem agrees_setImmW {d e : Dev} (h : d.agrees e) (a : Nat) (v : Word) : (d.setImmW a v).agrees (e.setImmW a v) := by
  refine ⟨h.1, fun b hb => ?_⟩
  simp only [immW_setImmW]; split
  · rfl
  · exact h.2 b hb

/-- An update of a part that reports do not touch keeps agreement. -/
theorem agrees_h {d e : Dev} (k : d.agrees e) (f : Hearth → Hearth) : ({ d with h := f d.h } : Dev).agrees { e with h := f e.h } := by
  have hh : d.h = e.h := (congrArg Dev.h k.1 : d.silent.h = e.silent.h)
  refine ⟨?_, fun b hb => k.2 b hb⟩
  have := congrArg (fun x : Dev => ({ x with h := f d.h } : Dev)) k.1
  simp only [hh] at this ⊢
  exact this

theorem agrees_late {d e : Dev} (k : d.agrees e) (f : LateLog → LateLog) :
    ({ d with late := f d.late } : Dev).agrees { e with late := f e.late } := by
  have hh : d.late = e.late := (congrArg Dev.late k.1 : d.silent.late = e.silent.late)
  refine ⟨?_, fun b hb => k.2 b hb⟩
  have := congrArg (fun x : Dev => ({ x with late := f d.late } : Dev)) k.1
  simp only [hh] at this ⊢
  exact this

theorem agrees_post {d e : Dev} (k : d.agrees e) (m : Nat) : (d.postAccepted m).agrees (e.postAccepted m) := by
  unfold Dev.postAccepted; split
  · exact agrees_late k (fun l => { l with acc := Tab.set l.acc m (Tab.get l.num 0 m) })
  · exact k

/-! ## Commands -/

theorem does_of_onDev {i : Instr} {s : State} {f : Dev → Dev} {e : Dev} (he : exec i s = onDev f s) (h : Awake s)
    (ha : (f s.dev).agrees e) : Does i s e := by
  refine ⟨{ s with dev := f s.dev }, ?_, rfl, rfl, ha⟩
  rw [he]; unfold onDev; rw [h]; rfl

theorem meet_post (d : Dev) (m n a : Nat) : (d.post m).meet n a = d.meet n a := by
  unfold Dev.post; split <;> rfl

/-- A host write that reaches its register is its action on the device that numbered it. -/
theorem hostWrite_act {d : Dev} {m a : Nat} (act : Dev → Dev) (h : d.meet m a = .act) :
    d.hostWrite m a act = (act (d.post m)).postAccepted m := by
  unfold Dev.hostWrite Dev.tryWrite; simp only [meet_post, h]
  rfl

/-- A host write that reaches its register completes as its action says. -/
theorem does_hostWrite {i : Instr} {s : State} {m a : Nat} {act f : Dev → Dev}
    (he : exec i s = onDev (fun d => d.hostWrite m a act) s) (h : Awake s) (hr : Reaches m a s)
    (ha : (act (s.dev.post m)).agrees (f (s.dev.post m))) : Does i s (s.dev.wrote m f) := by
  refine does_of_onDev he h ?_
  simp only [hostWrite_act act hr]
  exact agrees_post ha m

theorem doesAnd_of_onDev {i : Instr} {s : State} {f : Dev → Dev} {e : Dev} {P : Dev → Prop} (he : exec i s = onDev f s) (h : Awake s)
    (ha : (f s.dev).agrees e) (hp : P (f s.dev)) : DoesAnd i s e P := by
  refine ⟨{ s with dev := f s.dev }, ?_, rfl, rfl, ha, hp⟩
  rw [he]; unfold onDev; rw [h]; rfl

theorem tells_hostWrite {i : Instr} {s : State} {m a : Nat} {act f : Dev → Dev} {pg id arg : Nat}
    (he : exec i s = onDev (fun d => d.hostWrite m a act) s) (h : Awake s) (hr : Reaches m a s)
    (ha : (act (s.dev.post m)).agrees (f (s.dev.post m))) (ht : s.dev.told pg id arg (act (s.dev.post m))) :
    Tells i s (s.dev.wrote m f) pg id arg := by
  refine doesAnd_of_onDev he h ?_ ?_ <;> simp only [hostWrite_act act hr]
  · exact agrees_post ha m
  · exact told_fabric (postAccepted_fabric _ _) ht

theorem completes_of_onDev {i : Instr} {s : State} {f : Dev → Dev} {P : State → Prop} (he : exec i s = onDev f s) (h : Awake s)
    (hp : P { s with dev := f s.dev }) : Completes i s P := by
  refine ⟨{ s with dev := f s.dev }, ?_, hp⟩
  rw [he]; unfold onDev; rw [h]; rfl

end Sys2Proof.Machine
end

