-- ==== Sys2Proof/Laws/Hearth.lean ====
section
/-! SUPPORT. The hearth: starting it, and its corrections. -/
namespace Sys2Proof.Machine

theorem armGrid_h (d : Dev) : d.armGrid.h = d.h := by unfold Dev.armGrid; split <;> rfl
theorem armGrid_regs (d : Dev) : d.armGrid.regs = d.regs := by unfold Dev.armGrid; split <;> rfl
theorem armGrid_bnd (d : Dev) : d.armGrid.sq.bnd = d.sq.bnd := by unfold Dev.armGrid; split <;> rfl

/-- Starting the hearth leaves the counter, sets RUN and begins the epoch in progress at the counter (R53, R81). -/
theorem setRun_facts (d : Dev) (hr : d.h.run = false) : d.setRun.h.run = true ∧ d.setRun.im A.HTIM_CTRL F.HTIM_CTRL_RUN = 1 ∧
    d.setRun.h.ctr = d.h.ctr ∧ d.setRun.sq.bnd = d.now := by
  unfold Dev.setRun
  rw [if_neg (by simp [hr])]
  extract_lets _ _ d1 heard fol _ d2 d3 d4
  have hi : d3.h.run = true ∧ d3.h.ctr = d.h.ctr ∧ d3.sq.bnd = d.now :=
    foldl_inv (P := fun x : Dev => x.h.run = true ∧ x.h.ctr = d.h.ctr ∧ x.sq.bnd = d.now) _ (by
      intro b a hb; split <;> exact hb) _ _ ⟨rfl, rfl, rfl⟩
  have h4 : d4.h = d3.h ∧ d4.sq = d3.sq := by simp only [d4]; split <;> exact ⟨rfl, rfl⟩
  rw [armGrid_h, armGrid_bnd]
  refine ⟨(congrArg Hearth.run h4.1).trans hi.1, ?_, (congrArg Hearth.ctr h4.1).trans hi.2.1, (congrArg Seq.bnd h4.2).trans hi.2.2⟩
  unfold Dev.im Dev.immW; rw [armGrid_regs]
  show fget ((d4.setIm A.HTIM_CTRL F.HTIM_CTRL_RUN 1).immW A.HTIM_CTRL) _ = 1
  rw [Dev.setIm, immW_setImmW, if_pos rfl, fget_fput _ _ _ (by decide)]; rfl

end Sys2Proof.Machine
end

