-- ==== Sys2Proof/Laws/Memory.lean ====
section
/-! SUPPORT. The memories: every write keeps the canonical form, and what a byte reads after each write. And what a meaning
that also writes the memories answers. -/
namespace Sys2Proof.Machine

/-! ## The canonical form -/

/-- A lower bound of a memory's addresses. -/
def cellsFrom (k : Nat) (m : List Host.Cell) : Prop := ∀ c ∈ m, k < c.1

theorem cellsOk_cons (c : Host.Cell) (m : List Host.Cell) : cellsOk (c :: m) = true ↔ c.2 ≠ 0 ∧ cellsFrom c.1 m ∧ cellsOk m = true := by
  induction m generalizing c with
  | nil => simp [cellsOk, cellsFrom]
  | cons e m ih =>
    simp only [cellsOk, Bool.and_eq_true, decide_eq_true_eq]
    rw [ih e]
    constructor
    · rintro ⟨⟨h1, h2⟩, h3, h4, h5⟩
      refine ⟨h1, fun x hx => ?_, h3, h4, h5⟩
      rcases List.mem_cons.1 hx with rfl | hx
      · exact h2
      · exact Nat.lt_trans h2 (h4 x hx)
    · rintro ⟨h1, h2, h3⟩
      exact ⟨⟨h1, h2 e (by simp)⟩, h3⟩

theorem cellsFrom_set (k : Nat) (m : List Host.Cell) (a : Nat) (v : Byte) (h : cellsFrom k m) (ha : k < a) : cellsFrom k (cellSet m a v) := by
  induction m with
  | nil => unfold cellSet; split <;> simp [cellsFrom, ha]
  | cons e m ih =>
    obtain ⟨x, w⟩ := e
    have he : k < x := h (x, w) (by simp)
    have ht : cellsFrom k m := fun c hc => h c (by simp [hc])
    have ih := ih ht
    have hcons : ∀ (c : Host.Cell) (l : List Host.Cell), k < c.1 → cellsFrom k l → cellsFrom k (c :: l) := fun c l h1 h2 y hy => by
      rcases List.mem_cons.1 hy with rfl | hy
      · exact h1
      · exact h2 y hy
    unfold cellSet
    repeat' split
    all_goals first
      | exact h
      | exact ht
      | exact hcons _ _ ha h
      | exact hcons _ _ ha ht
      | exact hcons _ _ he ih

theorem cellsOk_set (m : List Host.Cell) (a : Nat) (v : Byte) (h : cellsOk m = true) : cellsOk (cellSet m a v) = true := by
  induction m with
  | nil => unfold cellSet; split <;> simp_all [cellsOk]
  | cons e m ih =>
    have h0 := h
    obtain ⟨x, w⟩ := e
    obtain ⟨h1, h2, h3⟩ := (cellsOk_cons (x, w) m).1 h
    unfold cellSet
    by_cases hlt : a < x
    · rw [if_pos hlt]
      by_cases hv : v = 0
      · rw [if_pos hv]; exact h0
      · rw [if_neg hv]
        refine (cellsOk_cons _ _).2 ⟨hv, fun c hc => ?_, h0⟩
        rcases List.mem_cons.1 hc with rfl | hc
        · exact hlt
        · exact Nat.lt_trans hlt (h2 c hc)
    · rw [if_neg hlt]
      by_cases he : a = x
      · subst he; rw [if_pos rfl]
        by_cases hv : v = 0
        · rw [if_pos hv]; exact h3
        · rw [if_neg hv]; exact (cellsOk_cons _ _).2 ⟨hv, h2, h3⟩
      · rw [if_neg he]; exact (cellsOk_cons _ _).2 ⟨h1, cellsFrom_set _ _ _ _ h2 (by omega), ih h3⟩

theorem cellsOk_put (bs : List Byte) : ∀ (m : List Host.Cell) (a : Nat), cellsOk m = true → cellsOk (cellPut m a bs) = true := by
  induction bs with
  | nil => intro m a h; exact h
  | cons b bs ih => intro m a h; exact ih _ _ (cellsOk_set m a b h)

theorem cellsOk_filter (p : Host.Cell → Bool) (m : List Host.Cell) (h : cellsOk m = true) : cellsOk (m.filter p) = true := by
  induction m with
  | nil => rfl
  | cons e m ih =>
    obtain ⟨h1, h2, h3⟩ := (cellsOk_cons e m).1 h
    rw [List.filter_cons]; split
    · exact (cellsOk_cons _ _).2 ⟨h1, fun c hc => h2 c (List.mem_filter.1 hc).1, ih h3⟩
    · exact ih h3

theorem run1_wf (m : Mem) (o : MemOp) (h : m.wf = true) : (m.run1 o).wf = true := by
  simp only [Mem.wf, Bool.and_eq_true] at h ⊢
  cases o with
  | store a bs => exact ⟨cellsOk_put _ _ _ h.1, h.2⟩
  | pantry T p bs => exact ⟨h.1, cellsOk_put _ _ _ h.2⟩
  | zeroStore a n => exact ⟨cellsOk_filter _ _ h.1, h.2⟩
  | zeroPantry T p n => exact ⟨h.1, cellsOk_filter _ _ h.2⟩
  | clear => exact ⟨rfl, rfl⟩

/-- Every list of memory writes keeps the canonical form. -/
theorem run_wf (ops : List MemOp) : ∀ m : Mem, m.wf = true → (m.run ops).wf = true := by
  induction ops with
  | nil => intro m h; exact h
  | cons o ops ih => intro m h; exact ih _ (run1_wf m o h)

@[simp] theorem run_nil (m : Mem) : m.run [] = m := rfl
@[simp] theorem run_cons (m : Mem) (o : MemOp) (ops : List MemOp) : m.run (o :: ops) = (m.run1 o).run ops := rfl
theorem run_append (m : Mem) (a b : List MemOp) : m.run (a ++ b) = (m.run a).run b := by simp [Mem.run]

/-! ## What a byte reads -/

theorem cellGet_above (m : List Host.Cell) (a : Nat) (h : ∀ c ∈ m, c.1 ≠ a) : cellGet m a = 0 := by
  induction m with
  | nil => rfl
  | cons e m ih =>
    unfold cellGet
    rw [if_neg (fun hh => h e (by simp) hh.symm)]
    exact ih (fun c hc => h c (by simp [hc]))

/-- A byte after a write of one byte to a canonical memory. -/
theorem cellGet_set (m : List Host.Cell) (a : Nat) (v : Byte) (b : Nat) (h : cellsOk m = true) :
    cellGet (cellSet m a v) b = if b = a then v else cellGet m b := by
  induction m with
  | nil => unfold cellSet; split <;> simp_all [cellGet]
  | cons e m ih =>
    obtain ⟨x, w⟩ := e
    obtain ⟨h1, h2, h3⟩ := (cellsOk_cons (x, w) m).1 h
    have h2 : ∀ c ∈ m, x < c.1 := h2
    unfold cellSet
    by_cases hlt : a < x
    · rw [if_pos hlt]
      by_cases hv : v = 0
      · rw [if_pos hv]
        by_cases hb : b = a
        · rw [if_pos hb, hv]
          refine cellGet_above _ _ (fun c hc => ?_)
          rcases List.mem_cons.1 hc with rfl | hc
          · exact fun hh => by subst hb; simp only at hh; omega
          · have := h2 c hc; omega
        · rw [if_neg hb]
      · rw [if_neg hv]; simp only [cellGet]
    · rw [if_neg hlt]
      by_cases he : a = x
      · subst he; rw [if_pos rfl]
        by_cases hv : v = 0
        · rw [if_pos hv]
          by_cases hb : b = a
          · rw [if_pos hb, hv]; exact cellGet_above _ _ (fun c hc => by have := h2 c hc; omega)
          · rw [if_neg hb]; simp only [cellGet]; rw [if_neg hb]
        · rw [if_neg hv]; simp only [cellGet]; split <;> rfl
      · rw [if_neg he]; simp only [cellGet]; rw [ih h3]
        by_cases hb : b = x
        · rw [if_pos hb, if_pos hb, if_neg (by omega)]
        · rw [if_neg hb, if_neg hb]

/-- A byte after a write of successive bytes to a canonical memory. -/
theorem cellGet_put (bs : List Byte) : ∀ (m : List Host.Cell) (a b : Nat), cellsOk m = true →
    cellGet (cellPut m a bs) b = if a ≤ b ∧ b < a + bs.length then bs.getD (b - a) 0 else cellGet m b := by
  induction bs with
  | nil => intro m a b _; simp only [cellPut, List.length_nil, Nat.add_zero]; rw [if_neg (by omega)]
  | cons v bs ih =>
    intro m a b h
    show cellGet (cellPut (cellSet m a v) (a + 1) bs) b = _
    rw [ih _ _ _ (cellsOk_set m a v h), cellGet_set m a v b h]
    by_cases hb : b = a
    · subst hb; rw [if_neg (by omega), if_pos rfl, if_pos (by simp)]; simp
    · by_cases hc : a + 1 ≤ b ∧ b < a + 1 + bs.length
      · rw [if_pos hc, if_pos (by simp; omega)]
        obtain ⟨k, rfl⟩ : ∃ k, b = a + 1 + k := ⟨b - a - 1, by omega⟩
        rw [show a + 1 + k - a = k + 1 by omega, show a + 1 + k - (a + 1) = k by omega]; rfl
      · rw [if_neg hc, if_neg hb, if_neg (by simp; omega)]

/-- A byte after a range is zeroed, in any memory. -/
theorem cellGet_zero (m : List Host.Cell) (a n b : Nat) : cellGet (cellZero m a n) b = if a ≤ b ∧ b < a + n then 0 else cellGet m b := by
  induction m with
  | nil => simp [cellZero, cellGet]
  | cons e m ih =>
    have hz : cellZero (e :: m) a n = if !(decide (a ≤ e.1) && decide (e.1 < a + n)) then e :: cellZero m a n else cellZero m a n := List.filter_cons
    rw [hz]
    by_cases hin : a ≤ e.1 ∧ e.1 < a + n
    · rw [if_neg (by simp [hin.1, hin.2]), ih]
      by_cases hb : a ≤ b ∧ b < a + n
      · rw [if_pos hb, if_pos hb]
      · rw [if_neg hb, if_neg hb]; simp only [cellGet]; rw [if_neg (by omega)]
    · rw [if_pos (by simp; omega)]
      simp only [cellGet]; rw [ih]
      by_cases he : b = e.1
      · rw [if_pos he, if_neg (he ▸ hin), if_pos he]
      · rw [if_neg he, if_neg he]

/-! ## Meanings that also write the memories -/

theorem completes_of_onMem {i : Instr} {s : State} {f : Dev → Mem → Dev × List MemOp} {P : State → Prop} (he : exec i s = onMem f s) (h : Awake s)
    (hp : P { s with dev := (f s.dev s.mem).1, mem := s.mem.run (f s.dev s.mem).2 }) : Completes i s P :=
  ⟨_, by rw [he, onMem, if_neg (by simp [h])], hp⟩

theorem completes_of_onAny {i : Instr} {s : State} {f : Dev → Mem → Dev × List MemOp} {P : State → Prop} (he : exec i s = onAny f s)
    (hp : P { s with dev := (f s.dev s.mem).1, mem := s.mem.run (f s.dev s.mem).2 }) : Completes i s P :=
  ⟨_, he, hp⟩

theorem does_of_onMem {i : Instr} {s : State} {f : Dev → Mem → Dev × List MemOp} {e : Dev} (he : exec i s = onMem f s) (h : Awake s)
    (hd : (f s.dev s.mem).1.agrees e) (ho : (f s.dev s.mem).2 = []) : Does i s e :=
  completes_of_onMem he h ⟨rfl, by rw [ho]; rfl, hd⟩

theorem does_of_onAny {i : Instr} {s : State} {f : Dev → Mem → Dev × List MemOp} {e : Dev} (he : exec i s = onAny f s)
    (hd : (f s.dev s.mem).1.agrees e) (ho : (f s.dev s.mem).2 = []) : Does i s e :=
  completes_of_onAny he ⟨rfl, by rw [ho]; rfl, hd⟩

theorem stores_of_onMem {i : Instr} {s : State} {f : Dev → Mem → Dev × List MemOp} {e : Dev} {ops : List MemOp} (he : exec i s = onMem f s) (h : Awake s)
    (hd : (f s.dev s.mem).1.agrees e) (ho : (f s.dev s.mem).2 = ops) : Stores i s e ops :=
  completes_of_onMem he h ⟨rfl, by rw [ho], hd⟩

theorem doesAnd_of_onMem {i : Instr} {s : State} {f : Dev → Mem → Dev × List MemOp} {e : Dev} {P : Dev → Prop} (he : exec i s = onMem f s) (h : Awake s)
    (hd : (f s.dev s.mem).1.agrees e) (ho : (f s.dev s.mem).2 = []) (hp : P (f s.dev s.mem).1) : DoesAnd i s e P :=
  completes_of_onMem he h ⟨rfl, by rw [ho]; rfl, hd, hp⟩

theorem within_of_onDev {i : Instr} {s : State} {f : Dev → Dev} {hide : Dev → Dev} {P : Dev → Prop} (he : exec i s = onDev f s) (h : Awake s)
    (hd : (hide (f s.dev)).agrees (hide s.dev)) (hp : P (f s.dev)) : Within i s hide P :=
  completes_of_onDev he h ⟨rfl, rfl, hd, hp⟩

theorem within_of_onMem {i : Instr} {s : State} {f : Dev → Mem → Dev × List MemOp} {hide : Dev → Dev} {P : Dev → Prop} (he : exec i s = onMem f s) (h : Awake s)
    (hd : (hide (f s.dev s.mem).1).agrees (hide s.dev)) (ho : (f s.dev s.mem).2 = []) (hp : P (f s.dev s.mem).1) : Within i s hide P :=
  completes_of_onMem he h ⟨rfl, by rw [ho]; rfl, hd, hp⟩

theorem within_of_onAny {i : Instr} {s : State} {f : Dev → Mem → Dev × List MemOp} {hide : Dev → Dev} {P : Dev → Prop} (he : exec i s = onAny f s)
    (hd : (hide (f s.dev s.mem).1).agrees (hide s.dev)) (ho : (f s.dev s.mem).2 = []) (hp : P (f s.dev s.mem).1) : Within i s hide P :=
  completes_of_onAny he ⟨rfl, by rw [ho]; rfl, hd, hp⟩

/-- What any meaning answers: a next state, the waiting commands as they were, the memories changed by memory writes alone. -/
theorem onDev_next (f : Dev → Dev) (s : State) : ∃ d, onDev f s = .next { s with dev := d } := by
  unfold onDev; split
  · exact ⟨s.dev, rfl⟩
  · exact ⟨_, rfl⟩

theorem onMem_next (f : Dev → Mem → Dev × List MemOp) (s : State) : ∃ d ops, onMem f s = .next { s with dev := d, mem := s.mem.run ops } := by
  unfold onMem; split
  · exact ⟨s.dev, [], rfl⟩
  · exact ⟨_, _, rfl⟩

end Sys2Proof.Machine
end

