-- ==== Sys2Proof/Laws/Parts.lean ====
section
/-! SUPPORT. Each part of the device under its update, and what an update of one part, a register or an output leaves alone. -/
namespace Sys2Proof.Machine

/-! ## The entry written reads as written, another as before -/

@[simp] theorem pcOf_setPc (d : Dev) (k j : Nat) (x : PinCh) : (d.setPc k x).pcOf j = if j = k then x else d.pcOf j := by
  simp [Dev.pcOf, Dev.setPc]
@[simp] theorem tripOf_setTrip (d : Dev) (k j : Nat) (x : Trip) : (d.setTrip k x).tripOf j = if j = k then x else d.tripOf j := by
  simp [Dev.tripOf, Dev.setTrip]
@[simp] theorem axOf_setAx (d : Dev) (k j : Nat) (x : Axis) : (d.setAx k x).axOf j = if j = k then x else d.axOf j := by
  simp [Dev.axOf, Dev.setAx]
@[simp] theorem grpOf_setGrp (d : Dev) (k j : Nat) (x : Grp) : (d.setGrp k x).grpOf j = if j = k then x else d.grpOf j := by
  simp [Dev.grpOf, Dev.setGrp]
@[simp] theorem auOf_setAu (d : Dev) (k j : Nat) (x : AU) : (d.setAu k x).auOf j = if j = k then x else d.auOf j := by
  simp [Dev.auOf, Dev.setAu]
@[simp] theorem engOf_setEng (d : Dev) (k j : Nat) (x : Eng) : (d.setEng k x).engOf j = if j = k then x else d.engOf j := by
  simp [Dev.engOf, Dev.setEng]
@[simp] theorem foutOf_setFout (d : Dev) (k j : Nat) (x : FlowOut) : (d.setFout k x).foutOf j = if j = k then x else d.foutOf j := by
  simp [Dev.foutOf, Dev.setFout]
@[simp] theorem portOf_setPort (d : Dev) (k j : Nat) (x : SubPort) : (d.setPort k x).portOf j = if j = k then x else d.portOf j := by
  simp [Dev.portOf, Dev.setPort]
@[simp] theorem hostqOf_setHostq (d : Dev) (k j : Nat) (x : HostQ) : (d.setHostq k x).hostqOf j = if j = k then x else d.hostqOf j := by
  simp [Dev.hostqOf, Dev.setHostq]
@[simp] theorem dmaOf_setDma (d : Dev) (k j : Nat) (x : Dma) : (d.setDma k x).dmaOf j = if j = k then x else d.dmaOf j := by
  simp [Dev.dmaOf, Dev.setDma]
@[simp] theorem cvuOf_setCvu (d : Dev) (k j : Nat) (x : Cvu) : (d.setCvu k x).cvuOf j = if j = k then x else d.cvuOf j := by
  simp [Dev.cvuOf, Dev.setCvu]
@[simp] theorem bankOf_setBank (d : Dev) (k j : Nat) (x : Bank) : (d.setBank k x).bankOf j = if j = k then x else d.bankOf j := by
  simp [Dev.bankOf, Dev.setBank]
@[simp] theorem bufOf_setBuf (d : Dev) (k j : Nat) (x : Buf) : (d.setBuf k x).bufOf j = if j = k then x else d.bufOf j := by
  simp [Dev.bufOf, Dev.setBuf]
@[simp] theorem commitOf_setCommit (d : Dev) (k j : Nat) (x : Commit) : (d.setCommit k x).commitOf j = if j = k then x else d.commitOf j := by
  simp [Dev.commitOf, Dev.setCommit]

/-! ## An update of one part leaves the others -/

@[simp] theorem tripOf_setPc (d : Dev) (k j : Nat) (x : PinCh) : (d.setPc k x).tripOf j = d.tripOf j := rfl
@[simp] theorem axOf_setPc (d : Dev) (k j : Nat) (x : PinCh) : (d.setPc k x).axOf j = d.axOf j := rfl
@[simp] theorem grpOf_setPc (d : Dev) (k j : Nat) (x : PinCh) : (d.setPc k x).grpOf j = d.grpOf j := rfl
@[simp] theorem auOf_setPc (d : Dev) (k j : Nat) (x : PinCh) : (d.setPc k x).auOf j = d.auOf j := rfl
@[simp] theorem engOf_setPc (d : Dev) (k j : Nat) (x : PinCh) : (d.setPc k x).engOf j = d.engOf j := rfl
@[simp] theorem foutOf_setPc (d : Dev) (k j : Nat) (x : PinCh) : (d.setPc k x).foutOf j = d.foutOf j := rfl
@[simp] theorem portOf_setPc (d : Dev) (k j : Nat) (x : PinCh) : (d.setPc k x).portOf j = d.portOf j := rfl
@[simp] theorem hostqOf_setPc (d : Dev) (k j : Nat) (x : PinCh) : (d.setPc k x).hostqOf j = d.hostqOf j := rfl
@[simp] theorem dmaOf_setPc (d : Dev) (k j : Nat) (x : PinCh) : (d.setPc k x).dmaOf j = d.dmaOf j := rfl
@[simp] theorem cvuOf_setPc (d : Dev) (k j : Nat) (x : PinCh) : (d.setPc k x).cvuOf j = d.cvuOf j := rfl
@[simp] theorem bankOf_setPc (d : Dev) (k j : Nat) (x : PinCh) : (d.setPc k x).bankOf j = d.bankOf j := rfl
@[simp] theorem bufOf_setPc (d : Dev) (k j : Nat) (x : PinCh) : (d.setPc k x).bufOf j = d.bufOf j := rfl
@[simp] theorem commitOf_setPc (d : Dev) (k j : Nat) (x : PinCh) : (d.setPc k x).commitOf j = d.commitOf j := rfl
@[simp] theorem pcOf_setTrip (d : Dev) (k j : Nat) (x : Trip) : (d.setTrip k x).pcOf j = d.pcOf j := rfl
@[simp] theorem axOf_setTrip (d : Dev) (k j : Nat) (x : Trip) : (d.setTrip k x).axOf j = d.axOf j := rfl
@[simp] theorem grpOf_setTrip (d : Dev) (k j : Nat) (x : Trip) : (d.setTrip k x).grpOf j = d.grpOf j := rfl
@[simp] theorem auOf_setTrip (d : Dev) (k j : Nat) (x : Trip) : (d.setTrip k x).auOf j = d.auOf j := rfl
@[simp] theorem engOf_setTrip (d : Dev) (k j : Nat) (x : Trip) : (d.setTrip k x).engOf j = d.engOf j := rfl
@[simp] theorem foutOf_setTrip (d : Dev) (k j : Nat) (x : Trip) : (d.setTrip k x).foutOf j = d.foutOf j := rfl
@[simp] theorem portOf_setTrip (d : Dev) (k j : Nat) (x : Trip) : (d.setTrip k x).portOf j = d.portOf j := rfl
@[simp] theorem hostqOf_setTrip (d : Dev) (k j : Nat) (x : Trip) : (d.setTrip k x).hostqOf j = d.hostqOf j := rfl
@[simp] theorem dmaOf_setTrip (d : Dev) (k j : Nat) (x : Trip) : (d.setTrip k x).dmaOf j = d.dmaOf j := rfl
@[simp] theorem cvuOf_setTrip (d : Dev) (k j : Nat) (x : Trip) : (d.setTrip k x).cvuOf j = d.cvuOf j := rfl
@[simp] theorem bankOf_setTrip (d : Dev) (k j : Nat) (x : Trip) : (d.setTrip k x).bankOf j = d.bankOf j := rfl
@[simp] theorem bufOf_setTrip (d : Dev) (k j : Nat) (x : Trip) : (d.setTrip k x).bufOf j = d.bufOf j := rfl
@[simp] theorem commitOf_setTrip (d : Dev) (k j : Nat) (x : Trip) : (d.setTrip k x).commitOf j = d.commitOf j := rfl
@[simp] theorem pcOf_setAx (d : Dev) (k j : Nat) (x : Axis) : (d.setAx k x).pcOf j = d.pcOf j := rfl
@[simp] theorem tripOf_setAx (d : Dev) (k j : Nat) (x : Axis) : (d.setAx k x).tripOf j = d.tripOf j := rfl
@[simp] theorem grpOf_setAx (d : Dev) (k j : Nat) (x : Axis) : (d.setAx k x).grpOf j = d.grpOf j := rfl
@[simp] theorem auOf_setAx (d : Dev) (k j : Nat) (x : Axis) : (d.setAx k x).auOf j = d.auOf j := rfl
@[simp] theorem engOf_setAx (d : Dev) (k j : Nat) (x : Axis) : (d.setAx k x).engOf j = d.engOf j := rfl
@[simp] theorem foutOf_setAx (d : Dev) (k j : Nat) (x : Axis) : (d.setAx k x).foutOf j = d.foutOf j := rfl
@[simp] theorem portOf_setAx (d : Dev) (k j : Nat) (x : Axis) : (d.setAx k x).portOf j = d.portOf j := rfl
@[simp] theorem hostqOf_setAx (d : Dev) (k j : Nat) (x : Axis) : (d.setAx k x).hostqOf j = d.hostqOf j := rfl
@[simp] theorem dmaOf_setAx (d : Dev) (k j : Nat) (x : Axis) : (d.setAx k x).dmaOf j = d.dmaOf j := rfl
@[simp] theorem cvuOf_setAx (d : Dev) (k j : Nat) (x : Axis) : (d.setAx k x).cvuOf j = d.cvuOf j := rfl
@[simp] theorem bankOf_setAx (d : Dev) (k j : Nat) (x : Axis) : (d.setAx k x).bankOf j = d.bankOf j := rfl
@[simp] theorem bufOf_setAx (d : Dev) (k j : Nat) (x : Axis) : (d.setAx k x).bufOf j = d.bufOf j := rfl
@[simp] theorem commitOf_setAx (d : Dev) (k j : Nat) (x : Axis) : (d.setAx k x).commitOf j = d.commitOf j := rfl
@[simp] theorem pcOf_setGrp (d : Dev) (k j : Nat) (x : Grp) : (d.setGrp k x).pcOf j = d.pcOf j := rfl
@[simp] theorem tripOf_setGrp (d : Dev) (k j : Nat) (x : Grp) : (d.setGrp k x).tripOf j = d.tripOf j := rfl
@[simp] theorem axOf_setGrp (d : Dev) (k j : Nat) (x : Grp) : (d.setGrp k x).axOf j = d.axOf j := rfl
@[simp] theorem auOf_setGrp (d : Dev) (k j : Nat) (x : Grp) : (d.setGrp k x).auOf j = d.auOf j := rfl
@[simp] theorem engOf_setGrp (d : Dev) (k j : Nat) (x : Grp) : (d.setGrp k x).engOf j = d.engOf j := rfl
@[simp] theorem foutOf_setGrp (d : Dev) (k j : Nat) (x : Grp) : (d.setGrp k x).foutOf j = d.foutOf j := rfl
@[simp] theorem portOf_setGrp (d : Dev) (k j : Nat) (x : Grp) : (d.setGrp k x).portOf j = d.portOf j := rfl
@[simp] theorem hostqOf_setGrp (d : Dev) (k j : Nat) (x : Grp) : (d.setGrp k x).hostqOf j = d.hostqOf j := rfl
@[simp] theorem dmaOf_setGrp (d : Dev) (k j : Nat) (x : Grp) : (d.setGrp k x).dmaOf j = d.dmaOf j := rfl
@[simp] theorem cvuOf_setGrp (d : Dev) (k j : Nat) (x : Grp) : (d.setGrp k x).cvuOf j = d.cvuOf j := rfl
@[simp] theorem bankOf_setGrp (d : Dev) (k j : Nat) (x : Grp) : (d.setGrp k x).bankOf j = d.bankOf j := rfl
@[simp] theorem bufOf_setGrp (d : Dev) (k j : Nat) (x : Grp) : (d.setGrp k x).bufOf j = d.bufOf j := rfl
@[simp] theorem commitOf_setGrp (d : Dev) (k j : Nat) (x : Grp) : (d.setGrp k x).commitOf j = d.commitOf j := rfl
@[simp] theorem pcOf_setAu (d : Dev) (k j : Nat) (x : AU) : (d.setAu k x).pcOf j = d.pcOf j := rfl
@[simp] theorem tripOf_setAu (d : Dev) (k j : Nat) (x : AU) : (d.setAu k x).tripOf j = d.tripOf j := rfl
@[simp] theorem axOf_setAu (d : Dev) (k j : Nat) (x : AU) : (d.setAu k x).axOf j = d.axOf j := rfl
@[simp] theorem grpOf_setAu (d : Dev) (k j : Nat) (x : AU) : (d.setAu k x).grpOf j = d.grpOf j := rfl
@[simp] theorem engOf_setAu (d : Dev) (k j : Nat) (x : AU) : (d.setAu k x).engOf j = d.engOf j := rfl
@[simp] theorem foutOf_setAu (d : Dev) (k j : Nat) (x : AU) : (d.setAu k x).foutOf j = d.foutOf j := rfl
@[simp] theorem portOf_setAu (d : Dev) (k j : Nat) (x : AU) : (d.setAu k x).portOf j = d.portOf j := rfl
@[simp] theorem hostqOf_setAu (d : Dev) (k j : Nat) (x : AU) : (d.setAu k x).hostqOf j = d.hostqOf j := rfl
@[simp] theorem dmaOf_setAu (d : Dev) (k j : Nat) (x : AU) : (d.setAu k x).dmaOf j = d.dmaOf j := rfl
@[simp] theorem cvuOf_setAu (d : Dev) (k j : Nat) (x : AU) : (d.setAu k x).cvuOf j = d.cvuOf j := rfl
@[simp] theorem bankOf_setAu (d : Dev) (k j : Nat) (x : AU) : (d.setAu k x).bankOf j = d.bankOf j := rfl
@[simp] theorem bufOf_setAu (d : Dev) (k j : Nat) (x : AU) : (d.setAu k x).bufOf j = d.bufOf j := rfl
@[simp] theorem commitOf_setAu (d : Dev) (k j : Nat) (x : AU) : (d.setAu k x).commitOf j = d.commitOf j := rfl
@[simp] theorem pcOf_setEng (d : Dev) (k j : Nat) (x : Eng) : (d.setEng k x).pcOf j = d.pcOf j := rfl
@[simp] theorem tripOf_setEng (d : Dev) (k j : Nat) (x : Eng) : (d.setEng k x).tripOf j = d.tripOf j := rfl
@[simp] theorem axOf_setEng (d : Dev) (k j : Nat) (x : Eng) : (d.setEng k x).axOf j = d.axOf j := rfl
@[simp] theorem grpOf_setEng (d : Dev) (k j : Nat) (x : Eng) : (d.setEng k x).grpOf j = d.grpOf j := rfl
@[simp] theorem auOf_setEng (d : Dev) (k j : Nat) (x : Eng) : (d.setEng k x).auOf j = d.auOf j := rfl
@[simp] theorem foutOf_setEng (d : Dev) (k j : Nat) (x : Eng) : (d.setEng k x).foutOf j = d.foutOf j := rfl
@[simp] theorem portOf_setEng (d : Dev) (k j : Nat) (x : Eng) : (d.setEng k x).portOf j = d.portOf j := rfl
@[simp] theorem hostqOf_setEng (d : Dev) (k j : Nat) (x : Eng) : (d.setEng k x).hostqOf j = d.hostqOf j := rfl
@[simp] theorem dmaOf_setEng (d : Dev) (k j : Nat) (x : Eng) : (d.setEng k x).dmaOf j = d.dmaOf j := rfl
@[simp] theorem cvuOf_setEng (d : Dev) (k j : Nat) (x : Eng) : (d.setEng k x).cvuOf j = d.cvuOf j := rfl
@[simp] theorem bankOf_setEng (d : Dev) (k j : Nat) (x : Eng) : (d.setEng k x).bankOf j = d.bankOf j := rfl
@[simp] theorem bufOf_setEng (d : Dev) (k j : Nat) (x : Eng) : (d.setEng k x).bufOf j = d.bufOf j := rfl
@[simp] theorem commitOf_setEng (d : Dev) (k j : Nat) (x : Eng) : (d.setEng k x).commitOf j = d.commitOf j := rfl
@[simp] theorem pcOf_setFout (d : Dev) (k j : Nat) (x : FlowOut) : (d.setFout k x).pcOf j = d.pcOf j := rfl
@[simp] theorem tripOf_setFout (d : Dev) (k j : Nat) (x : FlowOut) : (d.setFout k x).tripOf j = d.tripOf j := rfl
@[simp] theorem axOf_setFout (d : Dev) (k j : Nat) (x : FlowOut) : (d.setFout k x).axOf j = d.axOf j := rfl
@[simp] theorem grpOf_setFout (d : Dev) (k j : Nat) (x : FlowOut) : (d.setFout k x).grpOf j = d.grpOf j := rfl
@[simp] theorem auOf_setFout (d : Dev) (k j : Nat) (x : FlowOut) : (d.setFout k x).auOf j = d.auOf j := rfl
@[simp] theorem engOf_setFout (d : Dev) (k j : Nat) (x : FlowOut) : (d.setFout k x).engOf j = d.engOf j := rfl
@[simp] theorem portOf_setFout (d : Dev) (k j : Nat) (x : FlowOut) : (d.setFout k x).portOf j = d.portOf j := rfl
@[simp] theorem hostqOf_setFout (d : Dev) (k j : Nat) (x : FlowOut) : (d.setFout k x).hostqOf j = d.hostqOf j := rfl
@[simp] theorem dmaOf_setFout (d : Dev) (k j : Nat) (x : FlowOut) : (d.setFout k x).dmaOf j = d.dmaOf j := rfl
@[simp] theorem cvuOf_setFout (d : Dev) (k j : Nat) (x : FlowOut) : (d.setFout k x).cvuOf j = d.cvuOf j := rfl
@[simp] theorem bankOf_setFout (d : Dev) (k j : Nat) (x : FlowOut) : (d.setFout k x).bankOf j = d.bankOf j := rfl
@[simp] theorem bufOf_setFout (d : Dev) (k j : Nat) (x : FlowOut) : (d.setFout k x).bufOf j = d.bufOf j := rfl
@[simp] theorem commitOf_setFout (d : Dev) (k j : Nat) (x : FlowOut) : (d.setFout k x).commitOf j = d.commitOf j := rfl
@[simp] theorem pcOf_setPort (d : Dev) (k j : Nat) (x : SubPort) : (d.setPort k x).pcOf j = d.pcOf j := rfl
@[simp] theorem tripOf_setPort (d : Dev) (k j : Nat) (x : SubPort) : (d.setPort k x).tripOf j = d.tripOf j := rfl
@[simp] theorem axOf_setPort (d : Dev) (k j : Nat) (x : SubPort) : (d.setPort k x).axOf j = d.axOf j := rfl
@[simp] theorem grpOf_setPort (d : Dev) (k j : Nat) (x : SubPort) : (d.setPort k x).grpOf j = d.grpOf j := rfl
@[simp] theorem auOf_setPort (d : Dev) (k j : Nat) (x : SubPort) : (d.setPort k x).auOf j = d.auOf j := rfl
@[simp] theorem engOf_setPort (d : Dev) (k j : Nat) (x : SubPort) : (d.setPort k x).engOf j = d.engOf j := rfl
@[simp] theorem foutOf_setPort (d : Dev) (k j : Nat) (x : SubPort) : (d.setPort k x).foutOf j = d.foutOf j := rfl
@[simp] theorem hostqOf_setPort (d : Dev) (k j : Nat) (x : SubPort) : (d.setPort k x).hostqOf j = d.hostqOf j := rfl
@[simp] theorem dmaOf_setPort (d : Dev) (k j : Nat) (x : SubPort) : (d.setPort k x).dmaOf j = d.dmaOf j := rfl
@[simp] theorem cvuOf_setPort (d : Dev) (k j : Nat) (x : SubPort) : (d.setPort k x).cvuOf j = d.cvuOf j := rfl
@[simp] theorem bankOf_setPort (d : Dev) (k j : Nat) (x : SubPort) : (d.setPort k x).bankOf j = d.bankOf j := rfl
@[simp] theorem bufOf_setPort (d : Dev) (k j : Nat) (x : SubPort) : (d.setPort k x).bufOf j = d.bufOf j := rfl
@[simp] theorem commitOf_setPort (d : Dev) (k j : Nat) (x : SubPort) : (d.setPort k x).commitOf j = d.commitOf j := rfl
@[simp] theorem pcOf_setHostq (d : Dev) (k j : Nat) (x : HostQ) : (d.setHostq k x).pcOf j = d.pcOf j := rfl
@[simp] theorem tripOf_setHostq (d : Dev) (k j : Nat) (x : HostQ) : (d.setHostq k x).tripOf j = d.tripOf j := rfl
@[simp] theorem axOf_setHostq (d : Dev) (k j : Nat) (x : HostQ) : (d.setHostq k x).axOf j = d.axOf j := rfl
@[simp] theorem grpOf_setHostq (d : Dev) (k j : Nat) (x : HostQ) : (d.setHostq k x).grpOf j = d.grpOf j := rfl
@[simp] theorem auOf_setHostq (d : Dev) (k j : Nat) (x : HostQ) : (d.setHostq k x).auOf j = d.auOf j := rfl
@[simp] theorem engOf_setHostq (d : Dev) (k j : Nat) (x : HostQ) : (d.setHostq k x).engOf j = d.engOf j := rfl
@[simp] theorem foutOf_setHostq (d : Dev) (k j : Nat) (x : HostQ) : (d.setHostq k x).foutOf j = d.foutOf j := rfl
@[simp] theorem portOf_setHostq (d : Dev) (k j : Nat) (x : HostQ) : (d.setHostq k x).portOf j = d.portOf j := rfl
@[simp] theorem dmaOf_setHostq (d : Dev) (k j : Nat) (x : HostQ) : (d.setHostq k x).dmaOf j = d.dmaOf j := rfl
@[simp] theorem cvuOf_setHostq (d : Dev) (k j : Nat) (x : HostQ) : (d.setHostq k x).cvuOf j = d.cvuOf j := rfl
@[simp] theorem bankOf_setHostq (d : Dev) (k j : Nat) (x : HostQ) : (d.setHostq k x).bankOf j = d.bankOf j := rfl
@[simp] theorem bufOf_setHostq (d : Dev) (k j : Nat) (x : HostQ) : (d.setHostq k x).bufOf j = d.bufOf j := rfl
@[simp] theorem commitOf_setHostq (d : Dev) (k j : Nat) (x : HostQ) : (d.setHostq k x).commitOf j = d.commitOf j := rfl
@[simp] theorem pcOf_setDma (d : Dev) (k j : Nat) (x : Dma) : (d.setDma k x).pcOf j = d.pcOf j := rfl
@[simp] theorem tripOf_setDma (d : Dev) (k j : Nat) (x : Dma) : (d.setDma k x).tripOf j = d.tripOf j := rfl
@[simp] theorem axOf_setDma (d : Dev) (k j : Nat) (x : Dma) : (d.setDma k x).axOf j = d.axOf j := rfl
@[simp] theorem grpOf_setDma (d : Dev) (k j : Nat) (x : Dma) : (d.setDma k x).grpOf j = d.grpOf j := rfl
@[simp] theorem auOf_setDma (d : Dev) (k j : Nat) (x : Dma) : (d.setDma k x).auOf j = d.auOf j := rfl
@[simp] theorem engOf_setDma (d : Dev) (k j : Nat) (x : Dma) : (d.setDma k x).engOf j = d.engOf j := rfl
@[simp] theorem foutOf_setDma (d : Dev) (k j : Nat) (x : Dma) : (d.setDma k x).foutOf j = d.foutOf j := rfl
@[simp] theorem portOf_setDma (d : Dev) (k j : Nat) (x : Dma) : (d.setDma k x).portOf j = d.portOf j := rfl
@[simp] theorem hostqOf_setDma (d : Dev) (k j : Nat) (x : Dma) : (d.setDma k x).hostqOf j = d.hostqOf j := rfl
@[simp] theorem cvuOf_setDma (d : Dev) (k j : Nat) (x : Dma) : (d.setDma k x).cvuOf j = d.cvuOf j := rfl
@[simp] theorem bankOf_setDma (d : Dev) (k j : Nat) (x : Dma) : (d.setDma k x).bankOf j = d.bankOf j := rfl
@[simp] theorem bufOf_setDma (d : Dev) (k j : Nat) (x : Dma) : (d.setDma k x).bufOf j = d.bufOf j := rfl
@[simp] theorem commitOf_setDma (d : Dev) (k j : Nat) (x : Dma) : (d.setDma k x).commitOf j = d.commitOf j := rfl
@[simp] theorem pcOf_setCvu (d : Dev) (k j : Nat) (x : Cvu) : (d.setCvu k x).pcOf j = d.pcOf j := rfl
@[simp] theorem tripOf_setCvu (d : Dev) (k j : Nat) (x : Cvu) : (d.setCvu k x).tripOf j = d.tripOf j := rfl
@[simp] theorem axOf_setCvu (d : Dev) (k j : Nat) (x : Cvu) : (d.setCvu k x).axOf j = d.axOf j := rfl
@[simp] theorem grpOf_setCvu (d : Dev) (k j : Nat) (x : Cvu) : (d.setCvu k x).grpOf j = d.grpOf j := rfl
@[simp] theorem auOf_setCvu (d : Dev) (k j : Nat) (x : Cvu) : (d.setCvu k x).auOf j = d.auOf j := rfl
@[simp] theorem engOf_setCvu (d : Dev) (k j : Nat) (x : Cvu) : (d.setCvu k x).engOf j = d.engOf j := rfl
@[simp] theorem foutOf_setCvu (d : Dev) (k j : Nat) (x : Cvu) : (d.setCvu k x).foutOf j = d.foutOf j := rfl
@[simp] theorem portOf_setCvu (d : Dev) (k j : Nat) (x : Cvu) : (d.setCvu k x).portOf j = d.portOf j := rfl
@[simp] theorem hostqOf_setCvu (d : Dev) (k j : Nat) (x : Cvu) : (d.setCvu k x).hostqOf j = d.hostqOf j := rfl
@[simp] theorem dmaOf_setCvu (d : Dev) (k j : Nat) (x : Cvu) : (d.setCvu k x).dmaOf j = d.dmaOf j := rfl
@[simp] theorem bankOf_setCvu (d : Dev) (k j : Nat) (x : Cvu) : (d.setCvu k x).bankOf j = d.bankOf j := rfl
@[simp] theorem bufOf_setCvu (d : Dev) (k j : Nat) (x : Cvu) : (d.setCvu k x).bufOf j = d.bufOf j := rfl
@[simp] theorem commitOf_setCvu (d : Dev) (k j : Nat) (x : Cvu) : (d.setCvu k x).commitOf j = d.commitOf j := rfl
@[simp] theorem pcOf_setBank (d : Dev) (k j : Nat) (x : Bank) : (d.setBank k x).pcOf j = d.pcOf j := rfl
@[simp] theorem tripOf_setBank (d : Dev) (k j : Nat) (x : Bank) : (d.setBank k x).tripOf j = d.tripOf j := rfl
@[simp] theorem axOf_setBank (d : Dev) (k j : Nat) (x : Bank) : (d.setBank k x).axOf j = d.axOf j := rfl
@[simp] theorem grpOf_setBank (d : Dev) (k j : Nat) (x : Bank) : (d.setBank k x).grpOf j = d.grpOf j := rfl
@[simp] theorem auOf_setBank (d : Dev) (k j : Nat) (x : Bank) : (d.setBank k x).auOf j = d.auOf j := rfl
@[simp] theorem engOf_setBank (d : Dev) (k j : Nat) (x : Bank) : (d.setBank k x).engOf j = d.engOf j := rfl
@[simp] theorem foutOf_setBank (d : Dev) (k j : Nat) (x : Bank) : (d.setBank k x).foutOf j = d.foutOf j := rfl
@[simp] theorem portOf_setBank (d : Dev) (k j : Nat) (x : Bank) : (d.setBank k x).portOf j = d.portOf j := rfl
@[simp] theorem hostqOf_setBank (d : Dev) (k j : Nat) (x : Bank) : (d.setBank k x).hostqOf j = d.hostqOf j := rfl
@[simp] theorem dmaOf_setBank (d : Dev) (k j : Nat) (x : Bank) : (d.setBank k x).dmaOf j = d.dmaOf j := rfl
@[simp] theorem cvuOf_setBank (d : Dev) (k j : Nat) (x : Bank) : (d.setBank k x).cvuOf j = d.cvuOf j := rfl
@[simp] theorem bufOf_setBank (d : Dev) (k j : Nat) (x : Bank) : (d.setBank k x).bufOf j = d.bufOf j := rfl
@[simp] theorem commitOf_setBank (d : Dev) (k j : Nat) (x : Bank) : (d.setBank k x).commitOf j = d.commitOf j := rfl
@[simp] theorem pcOf_setBuf (d : Dev) (k j : Nat) (x : Buf) : (d.setBuf k x).pcOf j = d.pcOf j := rfl
@[simp] theorem tripOf_setBuf (d : Dev) (k j : Nat) (x : Buf) : (d.setBuf k x).tripOf j = d.tripOf j := rfl
@[simp] theorem axOf_setBuf (d : Dev) (k j : Nat) (x : Buf) : (d.setBuf k x).axOf j = d.axOf j := rfl
@[simp] theorem grpOf_setBuf (d : Dev) (k j : Nat) (x : Buf) : (d.setBuf k x).grpOf j = d.grpOf j := rfl
@[simp] theorem auOf_setBuf (d : Dev) (k j : Nat) (x : Buf) : (d.setBuf k x).auOf j = d.auOf j := rfl
@[simp] theorem engOf_setBuf (d : Dev) (k j : Nat) (x : Buf) : (d.setBuf k x).engOf j = d.engOf j := rfl
@[simp] theorem foutOf_setBuf (d : Dev) (k j : Nat) (x : Buf) : (d.setBuf k x).foutOf j = d.foutOf j := rfl
@[simp] theorem portOf_setBuf (d : Dev) (k j : Nat) (x : Buf) : (d.setBuf k x).portOf j = d.portOf j := rfl
@[simp] theorem hostqOf_setBuf (d : Dev) (k j : Nat) (x : Buf) : (d.setBuf k x).hostqOf j = d.hostqOf j := rfl
@[simp] theorem dmaOf_setBuf (d : Dev) (k j : Nat) (x : Buf) : (d.setBuf k x).dmaOf j = d.dmaOf j := rfl
@[simp] theorem cvuOf_setBuf (d : Dev) (k j : Nat) (x : Buf) : (d.setBuf k x).cvuOf j = d.cvuOf j := rfl
@[simp] theorem bankOf_setBuf (d : Dev) (k j : Nat) (x : Buf) : (d.setBuf k x).bankOf j = d.bankOf j := rfl
@[simp] theorem commitOf_setBuf (d : Dev) (k j : Nat) (x : Buf) : (d.setBuf k x).commitOf j = d.commitOf j := rfl
@[simp] theorem pcOf_setCommit (d : Dev) (k j : Nat) (x : Commit) : (d.setCommit k x).pcOf j = d.pcOf j := rfl
@[simp] theorem tripOf_setCommit (d : Dev) (k j : Nat) (x : Commit) : (d.setCommit k x).tripOf j = d.tripOf j := rfl
@[simp] theorem axOf_setCommit (d : Dev) (k j : Nat) (x : Commit) : (d.setCommit k x).axOf j = d.axOf j := rfl
@[simp] theorem grpOf_setCommit (d : Dev) (k j : Nat) (x : Commit) : (d.setCommit k x).grpOf j = d.grpOf j := rfl
@[simp] theorem auOf_setCommit (d : Dev) (k j : Nat) (x : Commit) : (d.setCommit k x).auOf j = d.auOf j := rfl
@[simp] theorem engOf_setCommit (d : Dev) (k j : Nat) (x : Commit) : (d.setCommit k x).engOf j = d.engOf j := rfl
@[simp] theorem foutOf_setCommit (d : Dev) (k j : Nat) (x : Commit) : (d.setCommit k x).foutOf j = d.foutOf j := rfl
@[simp] theorem portOf_setCommit (d : Dev) (k j : Nat) (x : Commit) : (d.setCommit k x).portOf j = d.portOf j := rfl
@[simp] theorem hostqOf_setCommit (d : Dev) (k j : Nat) (x : Commit) : (d.setCommit k x).hostqOf j = d.hostqOf j := rfl
@[simp] theorem dmaOf_setCommit (d : Dev) (k j : Nat) (x : Commit) : (d.setCommit k x).dmaOf j = d.dmaOf j := rfl
@[simp] theorem cvuOf_setCommit (d : Dev) (k j : Nat) (x : Commit) : (d.setCommit k x).cvuOf j = d.cvuOf j := rfl
@[simp] theorem bankOf_setCommit (d : Dev) (k j : Nat) (x : Commit) : (d.setCommit k x).bankOf j = d.bankOf j := rfl
@[simp] theorem bufOf_setCommit (d : Dev) (k j : Nat) (x : Commit) : (d.setCommit k x).bufOf j = d.bufOf j := rfl

/-! ## Registers, clock and reset state under an update of a part -/

@[simp] theorem immW_setPc (d : Dev) (k : Nat) (x : PinCh) (a : Nat) : (d.setPc k x).immW a = d.immW a := rfl
@[simp] theorem lvW_setPc (d : Dev) (k : Nat) (x : PinCh) (a : Nat) : (d.setPc k x).lvW a = d.lvW a := rfl
@[simp] theorem now_setPc (d : Dev) (k : Nat) (x : PinCh) : (d.setPc k x).now = d.now := rfl
@[simp] theorem halted_setPc (d : Dev) (k : Nat) (x : PinCh) : (d.setPc k x).halted = d.halted := rfl
@[simp] theorem immW_setTrip (d : Dev) (k : Nat) (x : Trip) (a : Nat) : (d.setTrip k x).immW a = d.immW a := rfl
@[simp] theorem lvW_setTrip (d : Dev) (k : Nat) (x : Trip) (a : Nat) : (d.setTrip k x).lvW a = d.lvW a := rfl
@[simp] theorem now_setTrip (d : Dev) (k : Nat) (x : Trip) : (d.setTrip k x).now = d.now := rfl
@[simp] theorem halted_setTrip (d : Dev) (k : Nat) (x : Trip) : (d.setTrip k x).halted = d.halted := rfl
@[simp] theorem immW_setAx (d : Dev) (k : Nat) (x : Axis) (a : Nat) : (d.setAx k x).immW a = d.immW a := rfl
@[simp] theorem lvW_setAx (d : Dev) (k : Nat) (x : Axis) (a : Nat) : (d.setAx k x).lvW a = d.lvW a := rfl
@[simp] theorem now_setAx (d : Dev) (k : Nat) (x : Axis) : (d.setAx k x).now = d.now := rfl
@[simp] theorem halted_setAx (d : Dev) (k : Nat) (x : Axis) : (d.setAx k x).halted = d.halted := rfl
@[simp] theorem immW_setGrp (d : Dev) (k : Nat) (x : Grp) (a : Nat) : (d.setGrp k x).immW a = d.immW a := rfl
@[simp] theorem lvW_setGrp (d : Dev) (k : Nat) (x : Grp) (a : Nat) : (d.setGrp k x).lvW a = d.lvW a := rfl
@[simp] theorem now_setGrp (d : Dev) (k : Nat) (x : Grp) : (d.setGrp k x).now = d.now := rfl
@[simp] theorem halted_setGrp (d : Dev) (k : Nat) (x : Grp) : (d.setGrp k x).halted = d.halted := rfl
@[simp] theorem immW_setAu (d : Dev) (k : Nat) (x : AU) (a : Nat) : (d.setAu k x).immW a = d.immW a := rfl
@[simp] theorem lvW_setAu (d : Dev) (k : Nat) (x : AU) (a : Nat) : (d.setAu k x).lvW a = d.lvW a := rfl
@[simp] theorem now_setAu (d : Dev) (k : Nat) (x : AU) : (d.setAu k x).now = d.now := rfl
@[simp] theorem halted_setAu (d : Dev) (k : Nat) (x : AU) : (d.setAu k x).halted = d.halted := rfl
@[simp] theorem immW_setEng (d : Dev) (k : Nat) (x : Eng) (a : Nat) : (d.setEng k x).immW a = d.immW a := rfl
@[simp] theorem lvW_setEng (d : Dev) (k : Nat) (x : Eng) (a : Nat) : (d.setEng k x).lvW a = d.lvW a := rfl
@[simp] theorem now_setEng (d : Dev) (k : Nat) (x : Eng) : (d.setEng k x).now = d.now := rfl
@[simp] theorem halted_setEng (d : Dev) (k : Nat) (x : Eng) : (d.setEng k x).halted = d.halted := rfl
@[simp] theorem immW_setFout (d : Dev) (k : Nat) (x : FlowOut) (a : Nat) : (d.setFout k x).immW a = d.immW a := rfl
@[simp] theorem lvW_setFout (d : Dev) (k : Nat) (x : FlowOut) (a : Nat) : (d.setFout k x).lvW a = d.lvW a := rfl
@[simp] theorem now_setFout (d : Dev) (k : Nat) (x : FlowOut) : (d.setFout k x).now = d.now := rfl
@[simp] theorem halted_setFout (d : Dev) (k : Nat) (x : FlowOut) : (d.setFout k x).halted = d.halted := rfl
@[simp] theorem immW_setPort (d : Dev) (k : Nat) (x : SubPort) (a : Nat) : (d.setPort k x).immW a = d.immW a := rfl
@[simp] theorem lvW_setPort (d : Dev) (k : Nat) (x : SubPort) (a : Nat) : (d.setPort k x).lvW a = d.lvW a := rfl
@[simp] theorem now_setPort (d : Dev) (k : Nat) (x : SubPort) : (d.setPort k x).now = d.now := rfl
@[simp] theorem halted_setPort (d : Dev) (k : Nat) (x : SubPort) : (d.setPort k x).halted = d.halted := rfl
@[simp] theorem immW_setHostq (d : Dev) (k : Nat) (x : HostQ) (a : Nat) : (d.setHostq k x).immW a = d.immW a := rfl
@[simp] theorem lvW_setHostq (d : Dev) (k : Nat) (x : HostQ) (a : Nat) : (d.setHostq k x).lvW a = d.lvW a := rfl
@[simp] theorem now_setHostq (d : Dev) (k : Nat) (x : HostQ) : (d.setHostq k x).now = d.now := rfl
@[simp] theorem halted_setHostq (d : Dev) (k : Nat) (x : HostQ) : (d.setHostq k x).halted = d.halted := rfl
@[simp] theorem immW_setDma (d : Dev) (k : Nat) (x : Dma) (a : Nat) : (d.setDma k x).immW a = d.immW a := rfl
@[simp] theorem lvW_setDma (d : Dev) (k : Nat) (x : Dma) (a : Nat) : (d.setDma k x).lvW a = d.lvW a := rfl
@[simp] theorem now_setDma (d : Dev) (k : Nat) (x : Dma) : (d.setDma k x).now = d.now := rfl
@[simp] theorem halted_setDma (d : Dev) (k : Nat) (x : Dma) : (d.setDma k x).halted = d.halted := rfl
@[simp] theorem immW_setCvu (d : Dev) (k : Nat) (x : Cvu) (a : Nat) : (d.setCvu k x).immW a = d.immW a := rfl
@[simp] theorem lvW_setCvu (d : Dev) (k : Nat) (x : Cvu) (a : Nat) : (d.setCvu k x).lvW a = d.lvW a := rfl
@[simp] theorem now_setCvu (d : Dev) (k : Nat) (x : Cvu) : (d.setCvu k x).now = d.now := rfl
@[simp] theorem halted_setCvu (d : Dev) (k : Nat) (x : Cvu) : (d.setCvu k x).halted = d.halted := rfl
@[simp] theorem immW_setBank (d : Dev) (k : Nat) (x : Bank) (a : Nat) : (d.setBank k x).immW a = d.immW a := rfl
@[simp] theorem lvW_setBank (d : Dev) (k : Nat) (x : Bank) (a : Nat) : (d.setBank k x).lvW a = d.lvW a := rfl
@[simp] theorem now_setBank (d : Dev) (k : Nat) (x : Bank) : (d.setBank k x).now = d.now := rfl
@[simp] theorem halted_setBank (d : Dev) (k : Nat) (x : Bank) : (d.setBank k x).halted = d.halted := rfl
@[simp] theorem immW_setBuf (d : Dev) (k : Nat) (x : Buf) (a : Nat) : (d.setBuf k x).immW a = d.immW a := rfl
@[simp] theorem lvW_setBuf (d : Dev) (k : Nat) (x : Buf) (a : Nat) : (d.setBuf k x).lvW a = d.lvW a := rfl
@[simp] theorem now_setBuf (d : Dev) (k : Nat) (x : Buf) : (d.setBuf k x).now = d.now := rfl
@[simp] theorem halted_setBuf (d : Dev) (k : Nat) (x : Buf) : (d.setBuf k x).halted = d.halted := rfl
@[simp] theorem immW_setCommit (d : Dev) (k : Nat) (x : Commit) (a : Nat) : (d.setCommit k x).immW a = d.immW a := rfl
@[simp] theorem lvW_setCommit (d : Dev) (k : Nat) (x : Commit) (a : Nat) : (d.setCommit k x).lvW a = d.lvW a := rfl
@[simp] theorem now_setCommit (d : Dev) (k : Nat) (x : Commit) : (d.setCommit k x).now = d.now := rfl
@[simp] theorem halted_setCommit (d : Dev) (k : Nat) (x : Commit) : (d.setCommit k x).halted = d.halted := rfl

/-! ## Parts under a register write and an output -/

@[simp] theorem pcOf_setImmW (d : Dev) (a : Nat) (v : Word) (j : Nat) : (d.setImmW a v).pcOf j = d.pcOf j := rfl
@[simp] theorem pcOf_emit (d : Dev) (y : Output) (j : Nat) : (d.emit y).pcOf j = d.pcOf j := rfl
@[simp] theorem tripOf_setImmW (d : Dev) (a : Nat) (v : Word) (j : Nat) : (d.setImmW a v).tripOf j = d.tripOf j := rfl
@[simp] theorem tripOf_emit (d : Dev) (y : Output) (j : Nat) : (d.emit y).tripOf j = d.tripOf j := rfl
@[simp] theorem axOf_setImmW (d : Dev) (a : Nat) (v : Word) (j : Nat) : (d.setImmW a v).axOf j = d.axOf j := rfl
@[simp] theorem axOf_emit (d : Dev) (y : Output) (j : Nat) : (d.emit y).axOf j = d.axOf j := rfl
@[simp] theorem grpOf_setImmW (d : Dev) (a : Nat) (v : Word) (j : Nat) : (d.setImmW a v).grpOf j = d.grpOf j := rfl
@[simp] theorem grpOf_emit (d : Dev) (y : Output) (j : Nat) : (d.emit y).grpOf j = d.grpOf j := rfl
@[simp] theorem auOf_setImmW (d : Dev) (a : Nat) (v : Word) (j : Nat) : (d.setImmW a v).auOf j = d.auOf j := rfl
@[simp] theorem auOf_emit (d : Dev) (y : Output) (j : Nat) : (d.emit y).auOf j = d.auOf j := rfl
@[simp] theorem engOf_setImmW (d : Dev) (a : Nat) (v : Word) (j : Nat) : (d.setImmW a v).engOf j = d.engOf j := rfl
@[simp] theorem engOf_emit (d : Dev) (y : Output) (j : Nat) : (d.emit y).engOf j = d.engOf j := rfl
@[simp] theorem foutOf_setImmW (d : Dev) (a : Nat) (v : Word) (j : Nat) : (d.setImmW a v).foutOf j = d.foutOf j := rfl
@[simp] theorem foutOf_emit (d : Dev) (y : Output) (j : Nat) : (d.emit y).foutOf j = d.foutOf j := rfl
@[simp] theorem portOf_setImmW (d : Dev) (a : Nat) (v : Word) (j : Nat) : (d.setImmW a v).portOf j = d.portOf j := rfl
@[simp] theorem portOf_emit (d : Dev) (y : Output) (j : Nat) : (d.emit y).portOf j = d.portOf j := rfl
@[simp] theorem hostqOf_setImmW (d : Dev) (a : Nat) (v : Word) (j : Nat) : (d.setImmW a v).hostqOf j = d.hostqOf j := rfl
@[simp] theorem hostqOf_emit (d : Dev) (y : Output) (j : Nat) : (d.emit y).hostqOf j = d.hostqOf j := rfl
@[simp] theorem dmaOf_setImmW (d : Dev) (a : Nat) (v : Word) (j : Nat) : (d.setImmW a v).dmaOf j = d.dmaOf j := rfl
@[simp] theorem dmaOf_emit (d : Dev) (y : Output) (j : Nat) : (d.emit y).dmaOf j = d.dmaOf j := rfl
@[simp] theorem cvuOf_setImmW (d : Dev) (a : Nat) (v : Word) (j : Nat) : (d.setImmW a v).cvuOf j = d.cvuOf j := rfl
@[simp] theorem cvuOf_emit (d : Dev) (y : Output) (j : Nat) : (d.emit y).cvuOf j = d.cvuOf j := rfl
@[simp] theorem bankOf_setImmW (d : Dev) (a : Nat) (v : Word) (j : Nat) : (d.setImmW a v).bankOf j = d.bankOf j := rfl
@[simp] theorem bankOf_emit (d : Dev) (y : Output) (j : Nat) : (d.emit y).bankOf j = d.bankOf j := rfl
@[simp] theorem bufOf_setImmW (d : Dev) (a : Nat) (v : Word) (j : Nat) : (d.setImmW a v).bufOf j = d.bufOf j := rfl
@[simp] theorem bufOf_emit (d : Dev) (y : Output) (j : Nat) : (d.emit y).bufOf j = d.bufOf j := rfl
@[simp] theorem commitOf_setImmW (d : Dev) (a : Nat) (v : Word) (j : Nat) : (d.setImmW a v).commitOf j = d.commitOf j := rfl
@[simp] theorem commitOf_emit (d : Dev) (y : Output) (j : Nat) : (d.emit y).commitOf j = d.commitOf j := rfl

end Sys2Proof.Machine
end

