-- ==== Sys2Proof/Tests/Slice0.lean ====
section
/-! SUPPORT. Tests of the model's own: ill-formed commands that the check refuses, and for every statement states and operands that
meet its hypotheses, clause by clause. -/
namespace Sys2Proof.Machine

/-! ## Well-formedness: one ill-formed command for each check, which the check refuses -/

theorem test_illFormed0 : ∀ i ∈ ([.hearthRun 8 0, .sourceReadyLoss 4, .refFrameMark 4 0 false 0, .refFrameMark 0 14 false 0, .ringFrameReceive 2 [] 0, .snapshotRead 0 4 0 4, .snapshotRead 0 0 2 4, .snapshotRead 0 0 (2 ^ 24) 4, .snapshotRead 0 0 0 2, .snapshotRead 0 0 0 0, .commit 0 257 false, .registerWrite 0 2 0, .registerWrite 0 (2 ^ 27) 0, .mediaStoreWrite 0 (2 ^ 29) [], .unsupportedTlp 6, .claim 0 0 16, .handover 0 0 8, .hownWrefusedRead 0 8, .errClr 0 2, .errClr 0 (2 ^ 26)] : List Instr), i.wf = false := by decide

theorem test_illFormed1 : ∀ i ∈ ([.ingressPacket 260 false false, .pathSilent 32768 0, .pathSilent 0 2, .calendarRequest 128, .hostRxPop 0 16, .edgePlacement 256, .triggerInstant 0 2, .timerArm 0 0 8 0, .tripInputTransition 16 false 0, .axisGo 0 32 0, .groupDemandStart 64 0, .groupDemandStart 0 4, .encoderEdge 8 0 false 0 false, .encoderEdge 0 3 false 0 false, .outputFire 0 4, .transferComplete 0 8, .migrationHandoff 32768, .bankGive 0 2048 0, .bankTestGo 0 4 0, .qmemConfRead 0 0 11] : List Instr), i.wf = false := by decide

theorem test_illFormed2 : ∀ i ∈ ([.poolFaultRead 0 0 64 0, .poolFaultRead 0 0 0 2, .dmaRun 0 32, .maskWindowEnd 5 0 0, .maskWindowEnd 0 0 4, .cvuGo 0 16, .zynLinkUp false (2 ^ 16) 0, .zynLinkUp false 0 256, .nakReceive (2 ^ 16), .responseReceive 0 0 0 256 0, .preparedReceive 0 0 0 (2 ^ 32) 0 [], .zynCountRead 0 6, .clockGate 8 0 false, .governorCountRead 0 3, .quadResetCmd 0 16, .supplyFail 8, .pinBankSupplyLoss 16, .egressPacket ⟨32768, false⟩, .functionEnable 6 ⟨false, false⟩ false, .vectorUnmask 6 ⟨0, 0⟩] : List Instr), i.wf = false := by decide

theorem test_illFormed3 : ∀ i ∈ ([.vectorUnmask 0 ⟨16384, 0⟩, .snapshotRead 0 0 4092 8, .heartbeatReceive [] 0, .pcieLinkUp 0 1] : List Instr), i.wf = false := by decide

theorem test_wellFormed : ∀ i ∈ ([.hearthRun 0 1, .boundary, .nop 259, .refFrameMark 3 13 true 0, .pushq 256] : List Instr), i.wf = true := by decide

/-! ## Helpers -/

/-- A device awake, its house owned by master 0. -/
def wd : Dev := { own := [(houseDom, { st := .owned, owner := 0 })] }

/-- The same with a hearth. -/
def wh (h : Hearth) : Dev := { wd with h := h }

/-- With immediate words. -/
def wi (l : Tab Word) : Dev := { wd with regs := { imm := l } }

/-- With live words. -/
def wl (l : Tab Word) : Dev := { wd with regs := { live := l } }

/-- A state of a device. -/
def ws (d : Dev) : State := { dev := d }

/-! ## The worked examples of the spec -/

/-- "123456789" (R398). -/
def wdigits : List Byte := [0x31, 0x32, 0x33, 0x34, 0x35, 0x36, 0x37, 0x38, 0x39]

theorem test_check_values : crcOf 0 wdigits = 0xCBF43926 ∧ crcOf 1 wdigits = 0xE3069283 ∧ crcOf 2 wdigits = 0x29B1 ∧ crcOf 3 wdigits = 0x6C40DF5F0B497347 := by decide +kernel

/-- The example of the Short Time wrap (chapter Scope). -/
theorem test_short_time_wrap : laterMod 64 ((2 ^ 48 - 1000) * nsTU) (500 * nsTU) = true ∧ unshort ((2 ^ 48 - 1000) * nsTU) (500 * nsTU) = (2 ^ 48 + 500) * nsTU := by decide

/-- FC20000 and PC70: pages and the ID of a pulse (chapters Architecture, Flow Channels, Pin Channels). -/
theorem test_addresses : A.FCH_MODE 20000 = 0x019C6720 ∧ A.PCH_MODE 70 = 0x02015040 ∧ fcId 20000 = 0x8E20 ∧ engId 257 = 0x60C0 := by decide

/-- The grid of 59.94 Hz after 1,700,000,000.5 s (chapter Hearth Time Engine). -/
theorem test_grid : gridFrom (1001, 60000) (1700000000 * secTU + 500000000 * nsTU) = 101898101929 ∧
    gridPoint (1001, 60000) 101898101929 = 1700000000 * (secTU : Int) + 515483333 * (nsTU : Int) + 21845 ∧
    gridPoint (1001, 60000) 101898101930 = 1700000000 * (secTU : Int) + 532166666 * (nsTU : Int) + 43690 := by decide

/-- TSET of that example, with the TPLL locked and RUN clear. -/
theorem test_tset : ∀ d : Dev, d = { wi [(A.HTIM_TSET 0, 0x65000000#32), (A.HTIM_TSET 1, 0xF1001DCD#32), (A.HTIM_TSET 2, 0x6553#32)] with h := { tpll := .locked } } →
    (d.doTset false).h.tset = some (1700000000 * secTU + 500000000 * nsTU) := by
  rintro _ rfl; decide

/-- The word at 0x0405 of the strobe routine (chapter Mentalas Microengine). -/
theorem test_microword : ∀ w : Micro, w = 0x00000006000000000200418F08820406#128 → mNxt w = 0x406 ∧ mAlt w = 0x410 ∧ mCond w = 2 ∧ mDur w = 7 ∧ mOp w = 0x31 ∧ mSra w = 1 ∧ mFn w = 1 ∧ mImm w = 0 ∧ mOfs w = 6 ∧
    illegalWord true false w = false ∧ illegalWord false false w = true := by
  rintro _ rfl; decide

/-- The duty of the LED wall: 25 % of a period of 17,083,733,333 1/3 TU (chapter Pin Channels: Waveforms). -/
theorem test_pwm_duty : pinPart [(0x10, 0xEECF4000#32), (0x14, 0x0003000B#32)] (2 ^ 22) = 4270933333 := by decide

/-- L77, L100, PC70, PC255 and TRIP13 (chapter Package, Balls and Electrical Characteristics). -/
theorem test_balls : (laneBall 77 true false = (50, 36) ∧ laneBall 77 false true = (48, 37) ∧ rowName 50 = "BM" ∧ rowName 48 = "BK") ∧
    (laneBall 100 true false = (18, 2) ∧ laneBall 100 true true = (19, 2) ∧ rowName 18 = "W" ∧ rowName 19 = "Y") ∧
    (pinBall 70 = (19, 26) ∧ lvdsBall 255 true = (39, 27) ∧ rowName 39 = "BA" ∧ tripBall 13 = (40, 16) ∧ rowName 40 = "BB") ∧
    ballName 19 26 = .pin 70 ∧ ballName 19 15 = .vddioPb 4 ∧ ballName 39 27 = .lvds 255 true ∧ ballName 40 16 = .trip 13 ∧ ballName 50 36 = .lane 77 true false ∧
    ballName 2 4 = .zl 1 true false ∧ ballName 8 51 = .pcie 7 false true ∧ ballName 51 1 = .vss := by decide

/-! ## Witnesses: the hypotheses of every statement are met together, clause by clause -/

/-- TSET_GO taken; refused by RUN; refused by nanoseconds above 999,999,999. -/
theorem witness_tsetGo : (Awake (ws wd) ∧ Reaches 0 A.HTIM_CTRL (ws wd) ∧ wd.h.run = false ∧ tsetGood wd ∧
      fget (0#32 ||| 2#32) F.HTIM_CTRL_STEP_GO = 0 ∧ fget (0#32 ||| 2#32) F.HTIM_CTRL_RUN = 0) ∧
    (Reaches 0 A.HTIM_CTRL (ws (wh { run := true })) ∧ (wh { run := true }).h.run = true) ∧
    (∀ d, d = wi [(A.HTIM_TSET 0, 0xCA000000#32), (A.HTIM_TSET 1, 0x3B9A#32)] → Reaches 0 A.HTIM_CTRL (ws d) ∧
      fullNs (d.immW (A.HTIM_TSET 0)).toNat (d.immW (A.HTIM_TSET 1)).toNat = 1000000000 ∧ ¬ tsetGood d) ∧
    tsetGood (wi [(A.HTIM_TSET 0, 0xC9FF0000#32), (A.HTIM_TSET 1, 0x3B9A#32)]) := by
  refine ⟨by decide, by decide, ?_, by decide⟩; rintro _ rfl; decide

/-- The load, with and without a start that waits for it; the start alone, held by a load, and repeated. -/
theorem witness_hearthRun : (∀ h : Hearth, h = { tset := some 5 } → Awake (ws (wh h)) ∧ (wh h).h.tset = some 5 ∧ (wh h).h.runPend = false ∧
      (wh h).h.run = false ∧ (wh h).h.tset.isSome = true ∧ Reaches 0 A.HTIM_CTRL (ws (wh h))) ∧
    (∀ h : Hearth, h = { tset := some 5, runPend := true } → (wh h).h.runPend = true ∧ (wh h).h.run = false ∧ (wh h).h.pstep = none ∧ (wh h).h.slew = none) ∧
    (fget (0#32 ||| 1#32) F.HTIM_CTRL_TSET_GO = 0 ∧ fget (0#32 ||| 1#32) F.HTIM_CTRL_STEP_GO = 0 ∧ wd.h.tset = none ∧ wd.h.pstep = none) := by
  refine ⟨?_, ?_, by decide⟩ <;> rintro _ rfl <;> decide

/-- A device whose hearth runs, and one with HTIM_PSTEP written. -/
def wrun : Dev := wh { run := true, ctr := 2 ^ 60 }
def wstep (hi lo : Word) : Dev := { wrun with regs := { imm := [(A.HTIM_PSTEP 0, lo), (A.HTIM_PSTEP 1, hi)] } }

/-- STEP_GO as a step: admitted, busy, too large. -/
theorem witness_stepGo : (Reaches 0 A.HTIM_CTRL (ws (wstep 0 1)) ∧ fget ((0#32 &&& ~~~8#32) ||| 4#32) F.HTIM_CTRL_TSET_GO = 0 ∧
      fget ((0#32 &&& ~~~8#32) ||| 4#32) F.HTIM_CTRL_RUN = 0 ∧ (wstep 0 1).corrBusy = false ∧ stepFits (wstep 0 1)) ∧
    (Awake (ws (wh { pstep := some ⟨1, none, 0⟩ })) ∧ Reaches 0 A.HTIM_CTRL (ws (wh { pstep := some ⟨1, none, 0⟩ })) ∧ (wh { pstep := some ⟨1, none, 0⟩ }).corrBusy = true) ∧
    (Reaches 0 A.HTIM_CTRL (ws (wstep 0x7FFFFFFF 0)) ∧ ¬ stepFits (wstep 0x7FFFFFFF 0)) := by decide

/-- STEP_GO as a slew: admitted at one second exactly, refused above it. -/
theorem witness_slewGo : (Reaches 0 A.HTIM_CTRL (ws (wstep 0x3B9A 0xCA000000)) ∧ fget (0#32 ||| 12#32) F.HTIM_CTRL_TSET_GO = 0 ∧ fget (0#32 ||| 12#32) F.HTIM_CTRL_RUN = 0 ∧
      (wstep 0x3B9A 0xCA000000).corrBusy = false ∧ (pstepTU (wstep 0x3B9A 0xCA000000)).natAbs = secTU) ∧
    secTU < (pstepTU (wstep 0x3B9A 0xCA000001)).natAbs := by decide

theorem witness_trims : (Awake (ws (wh { slew := some ⟨65536, 100⟩ })) ∧ (wh { slew := some ⟨65536, 100⟩ }).h.slew = some ⟨65536, 100⟩) ∧ Reaches 0 A.HTIM_FTRIM (ws wd) ∧
    (0x30D4000#32).toInt = 51200000 ∧ 51200000 < (0x30D4001#32).toInt ∧ (0xFCF2BFFF#32).toInt < -51200000 ∧ (0xFCF2C000#32).toInt = -51200000 := by decide

/-- A step instant with nothing passed over, forward and back. -/
theorem witness_phaseStepApply (x : Int) (hx : x = 7 ∨ x = -7) : ∀ d, d = wh { run := true, ctr := 2 ^ 60, pstep := some ⟨x, none, 0⟩ } →
    Awake (ws d) ∧ d.h.pstep = some ⟨x, none, 0⟩ ∧ d.h.runPend = false ∧ 0 ≤ d.h.cycle ∧ d.dueEvent (max d.now ((d.now : Int) + x).toNat) = none ∧
    (∀ y ∈ d.pins, y.2.chat = none) ∧ d.pins = [] ∧ d.trips = [] ∧ d.axes = [] ∧ d.ports = [] ∧ d.au = [] ∧ ∀ u < 8, d.auRuns u = false := by
  rcases hx with rfl | rfl <;> (rintro _ rfl; decide)

/-- The TPLL's selections: kept, refused, changed, and chosen in HOLDOVER. -/
theorem witness_sourceSelect : (Reaches 0 A.HSRC_SEL (ws wd) ∧ fget 0#32 F.HSRC_SEL_SRC = wd.h.src ∧ wd.h.tpll ≠ .holdover) ∧
    (fget 1#32 F.HSRC_SEL_SRC = 1 ∧ 1 ≠ wd.h.src ∧ ¬ isReady (ws wd) 1) ∧
    (∀ h : Hearth, h = { ready := [true, true, false, false] } → Reaches 0 A.HSRC_SEL (ws (wh h)) ∧ isReady (ws (wh h)) 1 ∧ (wh h).h.tpll ≠ .holdover ∧ h.src ≠ 1) ∧
    (∀ h : Hearth, h = { tpll := .holdover } → Reaches 0 A.HSRC_SEL (ws (wh h)) ∧ isReady (ws (wh h)) 0) ∧
    (∀ h : Hearth, h = { tpll := .holdover, ready := [false, false, false, false] } → ¬ isReady (ws (wh h)) 0 ∧ h.src = 0 ∧ fget 0#32 F.HSRC_SEL_AUTO = 0) := by
  refine ⟨by decide, by decide, ?_, ?_, ?_⟩ <;> rintro _ rfl <;> decide

theorem witness_tpllLock : (∀ d : Dev, d = { wd with sq := { armed := true } } → Awake (ws d) ∧ d.h.tpll = .acquire ∧ isReady (ws d) d.h.src ∧ d.sq.armed = true) ∧
    (∀ d : Dev, d = wh { run := true } → d.h.tpll = .acquire ∧ isReady (ws d) d.h.src ∧ d.h.run = true ∧ d.h.everLocked = false ∧ d.sq.armed = false ∧
      0 < (periodOf d.live).1 ∧ 0 < (periodOf d.live).2) := by
  refine ⟨?_, ?_⟩ <;> rintro _ rfl <;> decide

theorem witness_sourceReady : (∀ d, d = wh { ready := [true, true, false, false] } → isReady (ws d) 1 ∧ 1 ≠ d.h.src ∧ noAuto d (decide (d.h.tpll = .holdover))) ∧
    (∀ d, d = wh { ready := [true, true, false, false], src := 1, tpll := .locked } → isReady (ws d) 1 ∧ 1 = d.h.src ∧ noAuto d true) ∧
    (∀ d, d = wh { ready := [true, true, false, false], src := 1 } → isReady (ws d) 1 ∧ d.h.tpll = .acquire ∧ d.h.everLocked = false ∧ 1 = d.h.src) ∧
    (¬ isReady (ws wd) 3 ∧ noAuto wd (decide (wd.h.tpll = .holdover))) := by
  refine ⟨?_, ?_, ?_, by decide⟩ <;> rintro _ rfl <;> decide

theorem witness_autoSelect : ∀ d : Dev, d = { wi [(A.HSRC_SEL, 0x3910#32)] with h := { tpll := .holdover, ready := [false, false, false, false] } } →
    d.h.ready.length = 4 ∧ d.im A.HSRC_SEL F.HSRC_SEL_AUTO = 1 ∧ d.im A.HSRC_SEL F.HSRC_SEL_PRIO = 0x39 ∧ ¬ isReady (ws d) 3 ∧ ∀ k < 8, ¬ isReady (ws d) k := by
  rintro _ rfl; decide

theorem witness_hsrcCfgWrite : (Reaches 0 A.HSRC_CFG (ws wd) ∧ wd.h.src = 0) ∧
    (∀ d, d = wh { src := 1 } → Reaches 0 A.HSRC_CFG (ws d) ∧ fget 1#32 F.HSRC_CFG_OCXO_FREQ ≠ d.im A.HSRC_CFG F.HSRC_CFG_OCXO_FREQ) ∧
    (∀ d, d = wh { src := 3 } → Reaches 0 A.HSRC_CFG (ws d) ∧ fget 0x7F000#32 F.HSRC_CFG_SYNCE_LANE ≠ d.im A.HSRC_CFG F.HSRC_CFG_SYNCE_LANE) := by
  refine ⟨by decide, ?_, ?_⟩ <;> rintro _ rfl <;> decide

theorem witness_rcoTrim : (∀ d, d = wi [(A.HRCO_CTRL, 1#32)] → Awake (ws d) ∧ d.im A.HRCO_CTRL F.HRCO_CTRL_TSRC = 1 ∧ d.h.trimGood < 2) ∧
    (∀ d : Dev, d = { wi [(A.HRCO_CTRL, 7#32)] with h := { trimGood := 2 } } → d.im A.HRCO_CTRL F.HRCO_CTRL_TSRC = 7 ∧ 2 ≤ d.h.trimGood) ∧
    (Reaches 0 A.HRCO_CTRL (ws wd) ∧ fget 7#32 F.HRCO_CTRL_TSRC = 7 ∧ wd.h.src = 0) ∧ fget 6#32 F.HRCO_CTRL_TSRC ≠ 7 := by
  refine ⟨?_, ?_, by decide, by decide⟩ <;> rintro _ rfl <;> decide

/-- The owner's read and another's, of the first and of the last register of the list. -/
theorem witness_readsThatClear : Awake (ws wd) ∧ rcRead 0 0 0 false (.capLostRead 0) A.HCAP_LOST 0xFFFFFFFF#32 ∧ rcRead 0 7 0 false (.zynCountRead 0 1) (A.ZYN_HBMISS + 4) 0xFFFFFFFF#32 ∧
    wd.ownsReg 0 A.HCAP_LOST = true ∧ wd.ownsReg 1 A.HCAP_LOST = false ∧ wd.ownsReg 0 (A.ZYN_HBMISS + 4) = true := by
  refine ⟨by decide, .inl ⟨rfl, rfl, rfl⟩, ?_, by decide, by decide, by decide⟩
  unfold rcRead; repeat (first | exact ⟨rfl, rfl, rfl⟩ | apply Or.inr)

theorem witness_latchingReads : (wd.h.cap = [] ∧ wd.late.log = []) ∧
    (∀ d, d = wh { cap := [[1, 2, 3, 4, 5]] } → d.h.cap = [1, 2, 3, 4, 5] :: [] ∧ d.ownsReg 0 (A.HCAP_E 3) = true ∧ d.ownsReg 1 (A.HCAP_E 3) = false) ∧
    (∀ d : Dev, d = { wd with late := { log := [[1, 2, 3, 4, 5, 6]] } } → Awake (ws d) ∧ d.late.log = [1, 2, 3, 4, 5, 6] :: [] ∧ d.ownsReg 0 A.HLFL_E0 = true) := by
  refine ⟨by decide, ?_, ?_⟩ <;> rintro _ rfl <;> decide

theorem witness_referenceInputs : (Awake (ws wd) ∧ wd.lvb (A.HREF_IN 0) F.HREF_IN_EN = false ∧ wd.lvb A.HREF_PPS F.HREF_PPS_PPS_IN_EN = false) ∧
    (∀ d : Dev, d = { wl [(A.HREF_IN 3, fput 0 F.HREF_IN_EN 1), (A.HCAP_CFG, 0)] with h := { refs := [(3, { lock := true, missing := 1 })] } } → Awake (ws d) ∧ d.lvb (A.HREF_IN 3) F.HREF_IN_EN = true ∧
      (Tab.get d.h.refs {} 3).lock = true ∧ 1 ≤ (Tab.get d.h.refs {} 3).missing ∧ d.h.cap.length < 1024 ∧ bitOf (d.lv A.HCAP_CFG F.HCAP_CFG_EN_REF) 3 = false) ∧
    (∀ d : Dev, d = wl [(A.HREF_IN 0, fput 0 F.HREF_IN_EN 1), (A.HCAP_CFG, fput 0 F.HCAP_CFG_EN_REF 1)] → d.lvb (A.HREF_IN 0) F.HREF_IN_EN = true ∧
      (Tab.get d.h.refs {} 0).lock = false ∧ bitOf (d.lv A.HCAP_CFG F.HCAP_CFG_EN_REF) 0 = true) ∧
    (∀ d : Dev, d = wl [(A.HREF_PPS, fput 0 F.HREF_PPS_PPS_IN_EN 1), (A.HCAP_CFG, fput 0 F.HCAP_CFG_EN_PPS 1)] →
      d.lvb A.HREF_PPS F.HREF_PPS_PPS_IN_EN = true ∧ d.lvb A.HCAP_CFG F.HCAP_CFG_EN_PPS = true) := by
  refine ⟨by decide, ?_, ?_, ?_⟩ <;> rintro _ rfl <;> decide

/-- Marks of a wrong format, a first mark, and the eighth at the period of 25 Hz, to 1 µs and past it. -/
theorem witness_marks : marksInARow {} 0 0 5 0 ∧ marksInARow {} 0 2 5 1 ∧ marksInARow { good := 7, lastMark := some 0 } 2 2 (secTU / 25 + usTU) 8 ∧
    marksInARow { good := 7, lastMark := some 0 } 2 2 (secTU / 25 + usTU + 1) 1 := by
  refine ⟨⟨fun _ => rfl, fun h => absurd h.1 (by decide), fun h => absurd h.1 (by decide)⟩, ⟨fun h => absurd ⟨by decide, .inl rfl⟩ h, fun _ h => (by obtain ⟨_, k, _⟩ := h; cases k), fun _ _ => rfl⟩,
    ⟨fun h => absurd ⟨by decide, .inr rfl⟩ h, fun _ _ => rfl, fun _ h => absurd ⟨0, rfl, by decide⟩ h⟩,
    ⟨fun h => absurd ⟨by decide, .inr rfl⟩ h, fun _ h => (by obtain ⟨_, k, h⟩ := h; cases k; exact absurd h (by decide)), fun _ _ => rfl⟩⟩

/-- Outputs due at a whole second and at a whole 100 ns, the instant of the output's last edge being past or none. -/
theorem witness_referenceOutputs : ∀ d : Dev, d = { wl [(A.HREF_OUT 0, fput (fput 0 F.HREF_OUT_EN 1) F.HREF_OUT_FMT 2), (A.HREF_PPS, fput (fput 0 F.HREF_PPS_PPS_OUT_EN 1) F.HREF_PPS_M10_OUT_EN 1),
      (A.HREF_OFS 0, 0), (A.HREF_PPSOFS, 0)] with h := { ctr := (secTU - 5) * 65536, outEdge := [(4, secTU - 5), (5, 0)] } } → ∀ x, x = secTU - 5 → Awake (ws d) ∧ d.gate 19 = true ∧ x ≤ secTU ∧
    (0 < (fmtRate (d.lv (A.HREF_OUT 0) F.HREF_OUT_FMT)).1 ∧ 0 < (fmtRate (d.lv (A.HREF_OUT 0) F.HREF_OUT_FMT)).2 ∧ d.lv (A.HREF_OUT 0) F.HREF_OUT_EN = 1 ∧ nextFrom d 0 x ∧
      (d.lvW (A.HREF_OFS 0)).toInt = 0 ∧ ∃ k ∈ [24, 25, 26], ((secTU : Nat) : Int) = k * (fmtRate (d.lv (A.HREF_OUT 0) F.HREF_OUT_FMT)).2 * secTU / (fmtRate (d.lv (A.HREF_OUT 0) F.HREF_OUT_FMT)).1 ∧
        (k - 1) * (fmtRate (d.lv (A.HREF_OUT 0) F.HREF_OUT_FMT)).2 * secTU / (fmtRate (d.lv (A.HREF_OUT 0) F.HREF_OUT_FMT)).1 < (x : Int)) ∧
    (d.lv A.HREF_PPS F.HREF_PPS_PPS_OUT_EN = 1 ∧ d.h.ppsFall = none ∧ nextFrom d 4 (x + 1) ∧ (d.lvW A.HREF_PPSOFS).toInt = 0 ∧ (secTU : Int) - secTU < x) ∧
    (d.lv A.HREF_PPS F.HREF_PPS_M10_OUT_EN = 1 ∧ nextFrom d 5 x ∧ (secTU : Int) = 10000000 * (100 * nsTU : Nat) ∧ (secTU : Int) - (100 * nsTU : Nat) < x) ∧
    (∀ e : Dev, e = { d with h := { d.h with ppsFall := some (secTU + 7) } } → e.lv A.HREF_PPS F.HREF_PPS_PPS_OUT_EN = 1 ∧ e.h.ppsFall = some (secTU + 7)) := by
  rintro _ rfl _ rfl
  refine ⟨by decide, by decide, by decide, ⟨by decide, by decide, by decide, by unfold nextFrom; decide, by decide, by decide⟩, ⟨by decide, by decide, by unfold nextFrom; decide, by decide, by decide⟩,
    ⟨by decide, by unfold nextFrom; decide, by decide, by decide⟩, ?_⟩
  rintro _ rfl; decide

/-- The 45 octets of a MARK of a node with its HOPS, TX_TIME 0 and CORR 0. -/
def wmark (node : Nat) : List Byte := [0x11, 3, 0] ++ leBytes 2 node ++ List.replicate 40 0

/-- An origin with a boundary behind it, a member, frames that are taken and refused, a link that changes. -/
theorem witness_timingRing : (∀ d : Dev, d = { wl [(A.HRING_CFG, fput (fput 0 F.HRING_CFG_ROLE 1) F.HRING_CFG_NODE_ID 7), (A.HCAP_CFG, fput 0 F.HCAP_CFG_EN_RING 1)] with sq := { anyBoundary := true } } →
      Awake (ws d) ∧ d.gate 18 = true ∧ d.lv A.HRING_CFG F.HRING_CFG_ROLE = 1 ∧ d.sq.anyBoundary = true ∧ d.h.markSent ≠ some d.sq.num ∧
      d.lv A.HRING_CFG F.HRING_CFG_NODE_ID = 7 ∧ d.lvb A.HCAP_CFG F.HCAP_CFG_EN_RING = true ∧ d.h.cap.length < 1024) ∧
    (∀ d : Dev, d = wl [(A.HRING_CFG, fput (fput 0 F.HRING_CFG_ROLE 0) F.HRING_CFG_NODE_ID 7)] → d.lv A.HRING_CFG F.HRING_CFG_ROLE = 0 ∧ d.gate 18 = true ∧ d.lv A.HRING_CFG F.HRING_CFG_NODE_ID = 7) ∧
    (∀ d : Dev, d = wl [(A.HRING_CFG, fput 0 F.HRING_CFG_ROLE 2)] → d.lv A.HRING_CFG F.HRING_CFG_ROLE = 2 ∧ wd.h.linkUp.getD 0 false ≠ true) := by
  refine ⟨?_, ?_, ?_⟩ <;> rintro _ rfl <;> decide

/-- Octets with a right CRC of node 7 and of another, with a wrong CRC, with an unknown type, and code-groups that are no frame. -/
theorem witness_ringFrames : (∀ bs, bs = withRingCrc (wmark 7) → bs.length = 49 ∧ leNat (bs.drop 45) = crcOf 1 (bs.take 45) ∧ byteAt bs 0 = 0x11 ∧ leNat ((bs.drop 3).take 2) = 7) ∧
    (∀ bs, bs = withRingCrc (wmark 8) → bs.length = 49 ∧ leNat (bs.drop 45) = crcOf 1 (bs.take 45) ∧ byteAt bs 0 = 0x11 ∧ leNat ((bs.drop 3).take 2) = 8) ∧
    (∀ bs, bs = wmark 7 ++ [0, 0, 0, 0] → bs.length = 49 ∧ leNat (bs.drop 45) ≠ crcOf 1 (bs.take 45)) ∧
    (∀ bs, bs = withRingCrc (List.replicate 45 0) → bs.length = 49 ∧ leNat (bs.drop 45) = crcOf 1 (bs.take 45) ∧ byteAt bs 0 ≠ 0x11) ∧ ∀ b : List Byte, b.length = 49 → [] ≠ ringFrameOf b := by
  refine ⟨?_, ?_, ?_, ?_, fun b _ => by simp [ringFrameOf]⟩ <;> rintro _ rfl <;> decide +kernel

theorem witness_boundary : ∀ d : Dev, d = { h := { run := true, ctr := 100 * 65536 }, sq := { armed := true, locked := true, nxt := 100 } } →
    Awake (ws d) ∧ Quiet d ∧ d.sq.modes = [] ∧ d.now ≤ d.sq.nxt := by
  rintro _ rfl; refine ⟨by decide, ?_, by decide, by decide⟩; constructor <;> decide

/-- Two locked commits that set one word: the house's and room 3's. -/
theorem witness_applying : ∀ d : Dev, d = { sq := { commits := [(3, { st := .locked, id := 2 }), (houseDom, { st := .locked, id := 1 })] }, regs := { pending := [(3, [(8, 5#32)]), (houseDom, [(8, 6#32)])] } } →
    (d.commitOf 3).st = .locked ∧ (d.applying.map (·.dom)) = [houseDom, 3] ∧ Tab.get? (Tab.get d.regs.pending [] 3) 8 = some 5#32 ∧ ((Tab.get d.regs.pending [] 3).map (·.1)).Nodup := by
  rintro _ rfl; decide

theorem witness_lockInstant (st : CommitSt) (h : st = .checked ∨ st = .checking ∨ st = .agreeing ∨ st = .locked) : ∀ c : Commit, c = { st := st, target := 1 } →
    ∀ d : Dev, d = { sq := { armed := true, commits := [(3, c)] } } → Awake (ws d) ∧ d.sq.armed = true ∧ d.sq.locked = false ∧ d.sq.commits = [(3, c)] ∧ c.twin = false ∧ c.prepared = none ∧
    c.target = d.sq.num + 1 ∧ c.st = st := by
  rintro _ rfl _ rfl; rcases h with rfl | rfl | rfl | rfl <;> decide

theorem witness_drainClose : ∀ d : Dev, d = { h := { ctr := 2 ^ 60 }, sq := { num := 2, closedBelow := 1, bnd := 5, anyBoundary := true }, regs := { retiring := some [] } } → Awake (ws d) ∧ d.drainDue = true ∧ d.fout = [] ∧ d.eng = [] ∧
    ∀ c < 16, d.lv (A.CVU_CFG c) F.CVU_CFG_TRIG ≠ 1 ∧ ∀ i < 16, d.lvb (A.CVU_GUARD c i) F.CVU_GUARD_EN = false := by
  rintro _ rfl; decide

theorem witness_publication : ∀ p : Publn, p = { epoch := 4, slot := some 1, closed := true, bank := [] } → ∀ d : Dev, d = { sq := { pubs := [p] } } →
    Awake (ws d) ∧ d.sq.pubs = [p] ∧ p.slot = some 1 ∧ p.closed = true ∧ wd.sq.pubs = [] ∧ wd.sq.armed = false := by
  rintro _ rfl _ rfl; decide

theorem witness_snapshots : (Reaches 0 A.HSNP_PIN (ws wd) ∧ wd.sq.cur = none ∧ (wd.slotOf 0).st = .empty ∧ ∀ p ∈ wd.sq.pubs, p.slot.isSome) ∧
    (∀ d : Dev, d = { wd with sq := { cur := some 1, slots := [(1, { st := .published }), (2, { st := .filling })] } } → Awake (ws d) ∧ Reaches 0 A.HSNP_PIN (ws d) ∧ d.sq.cur = some 1 ∧
      (1 :: (d.sq.pins.filter (fun e => e.1 != 0 && e.2.held)).map (·.2.slot)).eraseDups.length ≤ 2 ∧ (d.slotOf 1).st = .published ∧ (d.slotOf 2).st = .filling) ∧
    (∀ d : Dev, d = { wd with sq := { cur := some 1, pins := [(1, { held := true, slot := 2 }), (2, { held := true, slot := 3 })] } } → Reaches 0 A.HSNP_PIN (ws d) ∧
      2 < (1 :: (d.sq.pins.filter (fun e => e.1 != 0 && e.2.held)).map (·.2.slot)).eraseDups.length) := by
  refine ⟨by decide, ?_, ?_⟩ <;> rintro _ rfl <;> decide

/-- The house owned by master 0, room 3 by master 0 with a commit in a state, epoch 0 in progress and target 5. -/
def wc (l : Tab Commit) (pfw : Bool) : Dev :=
  { own := [(3, { st := .owned, owner := 0 }), (houseDom, { st := .owned, owner := 0 })], sq := { commits := l, pfwActive := pfw }, regs := { per := [(1024 * A.HCOM_TARGET, 5#32)] } }

theorem witness_commit : (∀ d, d = wc [] false → Awake (ws d) ∧ Reaches 0 A.HCOM_CMD (ws d) ∧ d.owns 0 3 = true ∧ d.owns 1 3 = false ∧ d.owns 0 4 = false ∧ d.owns 0 houseDom = true ∧
      (d.commitOf 3).st = .idle ∧ d.per A.HCOM_TARGET 0 F.HCOM_TARGET_EPOCH = 5 ∧ d.tooLate 5 = false ∧ d.tooLate 0 = true ∧ Reaches 1 A.HCOM_CMD (ws d)) ∧
    (wc [] true).sq.pfwActive = true ∧ ((wc [(3, { st := .locked })] false).commitOf 3).st = .locked ∧
    (∀ st : CommitSt, st = .checking ∨ st = .checked ∨ st = .agreeing → ∀ d, d = wc [(3, { st := st })] false → (d.commitOf 3).st = st ∧ (d.commitOf 3).twin = false ∧ 3 ≠ houseDom ∧ d.tooLate 5 = false) := by
  refine ⟨?_, by decide, by decide, ?_⟩
  · rintro _ rfl; decide
  · rintro st (rfl | rfl | rfl) _ rfl <;> decide

/-- A check without failures, and one that fails by rule 0x04. -/
theorem witness_checkComplete : ∀ d : Dev, d = { wc [(3, { st := .checking })] false with sq := { armed := true, commits := [(3, { st := .checking })] } } → Awake (ws d) ∧ (d.commitOf 3).st = .checking ∧
    (d.commitOf 3).twin = false ∧ d.failures 3 = [] := by rintro _ rfl; decide +kernel

theorem witness_checkFails : ∀ d, d = wc [(3, { st := .checking })] false → d.failures 3 = [(4, 0)] ∧ (d.commitOf 3).st = .checking ∧ (d.commitOf 3).twin = false ∧ 3 ≠ houseDom := by
  rintro _ rfl; decide +kernel

theorem savedSlot_valid (n e : Nat) (w : Tab Word) : (savedSlot n e w).valid = true := by simp [FlashSlot.valid, FlashSlot.sum, savedSlot, FlashSlot.body, FlashSlot.head]

theorem witness_powerFail : (Awake (ws wd) ∧ wd.sq.pfwLow = false ∧ wd.sq.commits = [] ∧ wd.joined = false ∧ wd.sq.saving = false ∧ wd.sq.pfwActive = false ∧ wd.flashInUse = none ∧ wd.sq.blocked = false ∧
      Reaches 0 A.HCOM_SAVE (ws wd) ∧ Reaches 0 A.HCOM_LFACK (ws wd)) ∧
    (∀ d : Dev, d = { wd with sq := { saving := true, blocked := true, commits := [(3, { st := .locked })], nxt := 100, flashA := some (savedSlot 1 0 []) } } → d.sq.pfwLow = false ∧ d.sq.saving = true ∧ d.sq.blocked = true ∧
      (∃ f, d.flashInUse = some (false, f)) ∧ d.sq.commits = [(3, { st := .locked })] ∧ d.joined = false ∧ d.sq.nxt < 0 + 5 * usTU ∧ Reaches 0 A.HCOM_SAVE (ws d) ∧ Reaches 0 A.HCOM_LFACK (ws d)) ∧
    (∀ d : Dev, d = { wd with sq := { pfwLow := true, pfwActive := true } } → d.sq.pfwLow = true ∧ d.sq.pfwActive = true) ∧
    (∀ d : Dev, d = { wd with sq := { pfwActive := true, flashB := some (savedSlot 1 0 []), commits := [(3, { st := .checked })] } } → d.sq.pfwLow = false ∧ d.sq.pfwActive = true ∧ (∃ f, d.flashInUse = some (true, f)) ∧ d.joined = false) := by
  refine ⟨by decide, ?_, ?_, ?_⟩ <;> rintro _ rfl
  · exact ⟨by decide, by decide, by decide, ⟨savedSlot 1 0 [], by simp [Dev.flashInUse, Option.filter, savedSlot_valid]⟩, by decide, by decide, by decide, by decide, by decide⟩
  · decide
  · exact ⟨by decide, by decide, ⟨savedSlot 1 0 [], by simp [Dev.flashInUse, Option.filter, savedSlot_valid]⟩, by decide⟩

/-- A staged register, a plain immediate one, a read-only one; a write refused, and one to a block that is down. -/
theorem witness_registerWrites : (∃ r, ∃ ix, descAt (wd.egress A.HGOV_CFG) A.HGOV_CFG = some (r, ix) ∧ r.rws ≠ 0 ∧ wd.busMeet 0 A.HGOV_CFG = .act) ∧
    (∃ r, ∃ ix, descAt (wd.egress (A.HTIM_TSET 0)) (A.HTIM_TSET 0) = some (r, ix) ∧ r.rws = 0 ∧ wd.busMeet 0 (A.HTIM_TSET 0) = .act ∧ perMaster r.id = false ∧
      ∀ (d : Dev) (mem : Mem), d.writeAct 0 (A.HTIM_TSET 0) 5#32 mem (pageOf (A.HTIM_TSET 0)) r.id ix = none) ∧
    (∃ r, ∃ ix, descAt (wd.egress A.HEPC_EPOCH) A.HEPC_EPOCH = some (r, ix) ∧ wd.busMeet 0 A.HEPC_EPOCH = .nothing) ∧
    (wd.busMeet 1 A.HGOV_CFG = .refuse ∧ wd.sq.refusedM.contains 1 = false ∧ ∀ d : Dev, d = { wd with sq := { refusedM := [1] } } → d.busMeet 1 A.HGOV_CFG = .refuse ∧ d.sq.refusedM.contains 1 = true) ∧
    (wd.busMeet 0 (A.EV_EN 0x1004000) = .late ∧ wd.late.log.length < 64) := by
  refine ⟨⟨_, _, rfl, by decide, by decide⟩, ⟨_, _, rfl, by decide, by decide, by decide, fun _ _ => rfl⟩, ⟨_, _, rfl, by decide⟩, ⟨by decide, by decide, ?_⟩, by decide, by decide⟩
  rintro _ rfl; decide

theorem witness_pageCommands : (Reaches 0 (A.PG_CTRL 0x1000) (ws wd) ∧ Reaches 0 (A.PG_CTRL 0xB000) (ws wd) ∧ Reaches 0 (A.EV_FORCE 0x1000) (ws wd) ∧ dividedBits (pageOf (A.EV_FORCE 0x1000)) = false) ∧
    (∀ d : Dev, d = { wd with eng := [(0, { st := .idle })] } → Reaches 0 (A.EV_FORCE 0x1004000) (ws d) ∧ dividedBits (pageOf (A.EV_FORCE 0x1004000)) = true) := by
  refine ⟨by decide, ?_⟩; rintro _ rfl; decide

/-- Byte `a` of the store is qualified for master 0: its bank is the house's. -/
theorem witness_mediaStore : ∀ d : Dev, d = { wd with banks := [(0, { holder := houseDom })], sq := { refusedM := [1] } } → Awake (ws d) ∧ (ws d).memOk ∧ 5 + ([some 1#8, none] : List (Option Byte)).length ≤ 2 ^ 29 ∧
    d.qualifies 0 (bankOfByte 5) = true ∧ d.qualifies 1 (bankOfByte 5) = false ∧ d.sq.refusedM.contains 1 = true ∧ 2 ^ 29 - 2 + ([some 1#8, none] : List (Option Byte)).length ≤ 2 ^ 29 ∧ 2 ^ 29 < 2 ^ 29 - 1 + 2 := by
  rintro _ rfl; decide

/-- A function in D0 and one in D3hot; a negotiated width, a width and a speed that the link does not have. -/
theorem witness_endpointEvents : Awake (ws wd) ∧ 5 < 6 ∧ (∀ p ∈ wd.sq.pubs, p.slot.isSome) ∧ (Tab.get wd.pcie {} 5).d3hot = false ∧
    (1 ≤ 5 ∧ 5 ≤ 5 ∧ (8 = 1 ∨ 8 = 2 ∨ 8 = 4 ∨ 8 = 8)) ∧ ¬ (1 ≤ 5 ∧ 5 ≤ 5 ∧ (3 = 1 ∨ 3 = 2 ∨ 3 = 4 ∨ 3 = 8)) ∧ ¬ (1 ≤ 0 ∧ 0 ≤ 5 ∧ (8 = 1 ∨ 8 = 2 ∨ 8 = 4 ∨ 8 = 8)) ∧
    (∀ d : Dev, d = { wd with pcie := [(0, { d3hot := true })] } → Awake (ws d) ∧ (Tab.get d.pcie {} 0).d3hot = true) := by
  refine ⟨by decide, by decide, by decide, by decide, by decide, by decide, by decide, ?_⟩; rintro _ rfl; decide

/-- Room 3 in each state of its ownership, the house owned by master 0. -/
def wo (o : Own) : Dev := { own := [(3, o), (houseDom, { st := .owned, owner := 0 })] }

theorem witness_ownershipRequests : (∀ o : Own, o = {} ∨ o = { st := .electing, claims := [(1, 2), (2, 2)], winEnd := 100000 } ∨ o = { st := .owned, owner := 1 } ∨ o = { st := .offered, owner := 1, target := 2, deadline := 5 } →
      Awake (ws (wo o)) ∧ Reaches 0 A.HOWN_REQ (ws (wo o)) ∧ Reaches 1 A.HOWN_REQ (ws (wo o)) ∧ Steady (wo o) 3 ∧ (wo o).ownEnt 3 = o ∧ (wo o).owns 0 houseDom = true ∧ (wo o).owns 2 houseDom = false ∧ 3 ≠ houseDom) ∧
    (wo { st := .owned, owner := 1 }).owns 1 3 = true ∧ (wo { st := .owned, owner := 1 }).owns 2 3 = false ∧ (wo { st := .offered, owner := 1 }).owns 1 3 = true := by
  refine ⟨?_, by decide⟩; rintro _ (rfl | rfl | rfl | rfl) <;> decide

theorem witness_ownershipTimes : (∀ d, d = wo { st := .electing, claims := [(1, 2), (2, 3), (4, 3)], winEnd := 100000 } → Awake (ws d) ∧ (d.ownEnt 3).st = .electing ∧ ((d.ownEnt 3).claims.map (·.1)).Pairwise (· < ·) ∧
      (∀ e ∈ (d.ownEnt 3).claims, e.1 < 8) ∧ (2, 3) ∈ (d.ownEnt 3).claims ∧ (∀ e ∈ (d.ownEnt 3).claims, e.2 < 3 ∨ e.2 = 3 ∧ 2 ≤ e.1) ∧ (d.commitOf 3).st = .idle) ∧
    (∀ d : Dev, d = { wo { st := .electing, claims := [(1, 2)] } with sq := { commits := [(3, { st := .checked })] } } → (d.commitOf 3).st = .checked ∧ (d.commitOf 3).twin = false ∧
      (∀ e ∈ (d.ownEnt 3).claims, e.2 < 2 ∨ e.2 = 2 ∧ 1 ≤ e.1) ∧ (1, 2) ∈ (d.ownEnt 3).claims) ∧
    ((wo { st := .offered, owner := 1, target := 2, deadline := 5 }).ownEnt 3).st = .offered := by
  refine ⟨?_, ?_, by decide⟩ <;> rintro _ rfl <;> decide

/-- An RTP packet of 60 octets to 239.1.1.1 port 5004, made by hand with its IPv4 header checksum. -/
def pkb : List Byte := [1, 0, 94, 1, 1, 1, 2, 0, 0, 0, 0, 1, 8, 0, 69, 0, 0, 46, 0, 1, 0, 0, 64, 17, 128, 187, 10, 0, 0, 1, 239, 1, 1, 1, 19, 136, 19, 140, 0, 26, 0, 0, 128, 96, 0, 5, 0, 0, 0, 9, 0, 0, 0, 7, 0, 0, 0, 0, 0, 0]

/-- Lane 0 up as a sub-port of its own octet, tile 0 online, flow channel 0 taking what `pkb` is, with a mode word. -/
def wf (mode : Word) : Dev :=
  { own := [(houseDom, { st := .owned, owner := 0 })]
    regs := { live := [(A.PRT_CFG 0, fput 0 F.PRT_CFG_SPLIT 3), (A.PRT_SUB 0 0, fput (resetWord false (A.PRT_SUB 0 0)) F.PRT_SUB_EN 1), (A.FCH_MODE 0, mode), (A.FCH_KEYP 0 0, 0), (A.FCH_KEYIP 0 0 0, 4009820417#32), (A.FCH_KEYU 0 0, 5004#32)] }
    eng := [(0, { st := .idle })], ports := [(0, { up := true })]
    pwr := { active := [(3, 0), (5, 0)], spllLock := [true, true, true, true] } }

theorem witness_framesReceived : (∀ d, d = wf 5#32 → Awake (ws d) ∧ d.subUp 0 = true ∧ d.subUp 8 = false ∧ fcMode d.live 0 F.FCH_MODE_CLASS = 0 ∧ classify (d.viewAt 0) (d.keysAt 0) 0 pkb = some (0, 0) ∧ d.cutReaders 0 0 = [] ∧ pkb.length + 4 = 64 ∧
      64 ≤ d.lv (subCfg d.live 0) F.PRT_SUB_MAXLEN ∧ be16 pkb 12 ≠ 0x8808 ∧ d.lv (subCfg d.live 0) F.PRT_SUB_MAXLEN < 2 ^ 14) ∧
    (∀ d, d = wf 0#32 → classify (d.viewAt 0) (d.keysAt 0) 0 pkb = none ∧ hostCause d.live pkb = 4 ∧ (d.hostqOf 0).rx.length < 256) := by
  refine ⟨?_, ?_⟩ <;> rintro _ rfl <;> decide +kernel

/-- The host takes or leaves a frame, with a pool to store it in. -/
theorem witness_framesToHost : ∀ d : Dev, d = { wf 0#32 with pools := [(0, { free := [7] })], regs := { live := [(A.PRT_CFG 0, fput 0 F.PRT_CFG_SPLIT 3), (A.PRT_SUB 0 0, fput (fput (resetWord false (A.PRT_SUB 0 0)) F.PRT_SUB_EN 1) F.PRT_SUB_HOSTF 8),
      (A.PRT_HCFG 0, 0), (A.POOL_CFG 0 0, fput (fput 0 F.POOL_CFG_EN 1) F.POOL_CFG_DOM houseDom)] } } →
    d.subUp 0 = true ∧ bitOf (d.lv (subCfg d.live 0) F.PRT_SUB_HOSTF) (4 - 1) = true ∧ bitOf (d.lv (subCfg d.live 0) F.PRT_SUB_HOSTF) (3 - 1) = false ∧
      (d.allocBuf 0 (d.lv (A.PRT_HCFG 0) F.PRT_HCFG_RXPOOL) houseDom .hostRx).1.isSome = true := by
  rintro _ rfl; decide +kernel

/-- A full host queue; a cut-through reader of channel 0. -/
theorem witness_framesTurnedAway : (∀ d : Dev, d = { wf 0#32 with hostq := [(0, { rx := List.replicate 256 [] })] } → d.subUp 0 = true ∧ 256 ≤ (d.hostqOf 0).rx.length) ∧
    (∀ d : Dev, d = { wf 5#32 with fout := [(1, { bind := some { src := 0, words := [(0, 0x10000#32)] } })] } → classify (d.viewAt 0) (d.keysAt 0) 0 pkb = some (0, 0) ∧ d.cutReaders 0 0 ≠ []) := by
  refine ⟨?_, ?_⟩ <;> rintro _ rfl <;> decide +kernel

/-- A packet of channel 0 stamped 5, as it waits for the datapath. -/
def wpk : InPkt := { fc := 0, path := 0, port := some 0, stamp := 5, bytes := pkb }

/-- Nothing to take; a packet of no ingress channel, one with a bad FCS that none reads, one with a false header; one whose datapath has
stopped. -/
theorem witness_packetsLeft : (wd.nextPkt 0 false = none ∧ wd.nextPkt 0 true = none ∧ Tab.get wd.tileBe [] 0 = []) ∧
    (∀ d : Dev, d = { wf 0#32 with tileIn := [(0, [wpk])] } → Awake (ws d) ∧ takenPacket d 0 false false wpk [] 0 ∧ wpk.old = false ∧ fcDir (d.viewAt 5) 0 ≠ 1) ∧
    (∀ d : Dev, d = { wf 5#32 with tileIn := [(0, [{ wpk with bad := true }])] } → takenPacket d 0 false false { wpk with bad := true } [] 0 ∧ fcDir (d.viewAt 5) 0 = 1 ∧ d.cutReaders 0 5 = []) ∧
    (∀ d : Dev, d = { wf 5#32 with tileIn := [(0, [{ wpk with bytes := pkb.set 14 0x46#8 }])] } → takenPacket d 0 false false { wpk with bytes := pkb.set 14 0x46#8 } [] 0 ∧ fcDir (d.viewAt 5) 0 = 1 ∧
      pktValid (pkb.set 14 0x46#8) (fcEss (d.viewAt 5) 0) = false) ∧
    (∀ d : Dev, d = { wf 5#32 with tileIn := [(0, [wpk])], eng := [] } → takenPacket d 0 false false wpk [] 0 ∧ pktValid pkb (fcEss (d.viewAt 5) 0) = true ∧ d.fdpRuns 0 = false) := by
  refine ⟨by decide, ?_, ?_, ?_, ?_⟩ <;> rintro _ rfl <;> (try unfold takenPacket) <;> decide +kernel

/-- A scheduled packet that the pool has a buffer for; a best-effort one that waits for its turn and one that waits for the spine; one at
the front of the tile's queue, its datapath running and not. -/
theorem witness_packetsTaken : (∀ d : Dev, d = { wf 5#32 with tileIn := [(0, [wpk])], pools := [(0, { free := [7] })], regs := { live := (wf 5#32).regs.live ++ [(A.POOL_CFG 0 0, fput (fput 0 F.POOL_CFG_EN 1) F.POOL_CFG_DOM houseDom)] } } →
      Awake (ws d) ∧ takenPacket d 0 false false wpk [] 0 ∧ fcDir (d.viewAt 5) 0 = 1 ∧ pktValid pkb (fcEss (d.viewAt 5) 0) = true ∧ (d.measured (d.viewAt 5) wpk).1 = true ∧ d.fdpRuns 0 = true ∧
      (d.viewAt 5).f (A.FCH_POL0 0) F.FCH_POL0_CIR = 0 ∧ fcMode (d.viewAt 5) 0 F.FCH_MODE_CLASS = 0 ∧ (d.allocBuf 0 ((d.viewAt 5).f (A.FCH_POOL 0) F.FCH_POOL_POOL) (fcHolder (d.viewAt 5) 0) .datapath).1.isSome = true) ∧
    (∀ d : Dev, d = { wf 0x25#32 with tileIn := [(0, [wpk])] } → Awake (ws d) ∧ takenPacket d 0 true false wpk [] 0x10 ∧ takenPacket d 0 false true wpk [] 0x11 ∧ fcDir (d.viewAt 5) 0 = 1 ∧ pktValid pkb (fcEss (d.viewAt 5) 0) = true ∧
      (d.measured (d.viewAt 5) wpk).1 = true ∧ (d.letIn (d.viewAt 5) wpk (d.measured (d.viewAt 5) wpk).2.f).1 = 0 ∧ fcMode (d.viewAt 5) 0 F.FCH_MODE_CLASS = 1) ∧
    (∀ d : Dev, d = { wf 0x25#32 with tileBe := [(0, [wpk])] } → Awake (ws d) ∧ d.nextPkt 0 false = none ∧ Tab.get d.tileBe [] 0 = wpk :: [] ∧ d.fdpRuns 0 = true) ∧
    (∀ d : Dev, d = { wf 0x25#32 with tileBe := [(0, [wpk])], eng := [] } → d.nextPkt 0 false = none ∧ d.fdpRuns 0 = false) := by
  refine ⟨?_, ?_, ?_, ?_⟩ <;> rintro _ rfl <;> (try unfold takenPacket) <;> decide +kernel

/-- Channel 0 with MERGE = 1: its first packet is accepted on path A. -/
theorem witness_merge : ∀ d, d = wf 0x45#32 → fcMode d.live 0 F.FCH_MODE_MERGE = 1 ∧ fcEss d.live 0 ≠ 6 ∧ 1 ≤ d.live.f (A.FCH_MERGE 0) F.FCH_MERGE_WIN ∧
    (measMerge d.live 0 0 pkb { f := {} }).1 = true ∧ (measMerge d.live 0 0 pkb { f := {} }).2.f.oldA < 32 ∧ (measMerge d.live 0 0 pkb { f := {} }).2.f.oldB < 32 := by
  rintro _ rfl; decide +kernel

/-- Path A with a last packet and path B since silent about it; a path that has delivered none. -/
theorem witness_paths : (∀ d : Dev, d = { wf 0x45#32 with fin := [(0, { lastA := some 5, lastB := some 9, sinceA := some 9 })] } → Awake (ws d) ∧ fcDir d.live 0 = 1 ∧ fcMode d.live 0 F.FCH_MODE_MERGE ≠ 0 ∧ (Tab.get d.fin {} 0).sinceA = some 9 ∧
      (Tab.get d.fin {} 0).silentA = false ∧ (Tab.get d.fin {} 0).sinceB = none ∧ Reaches 0 (A.FCH_CTL 0) (ws d)) ∧
    (∀ d : Dev, d = { wf 0x45#32 with fin := [(0, { lastA := some 5, sinceB := some 5 })] } → Awake (ws d) ∧ (Tab.get d.fin {} 0).lastB = none ∧ (Tab.get d.fin {} 0).sinceB = some 5 ∧ (Tab.get d.fin {} 0).silentB = false) ∧
    (∀ d, d = wf 0#32 → fcMode d.live 0 F.FCH_MODE_MERGE = 0 ∧ fcDir d.live 0 ≠ 1 ∧ Reaches 0 (A.FCH_CTL 0) (ws d)) := by
  refine ⟨?_, ?_, ?_⟩ <;> rintro _ rfl <;> decide +kernel

/-- A stored packet, and tile 0 as egress channel 0 of it with a binding. -/
def wst : Stored := { src := 0, buf := 7, len := 60, ulen := 26, stamp := 5, ts := 9, clk := 90000, ovr := false, inPort := some 0 }
def wout (o : FlowOut) : Dev := { wf 0#32 with fout := [(0, o)], bufs := [(7, { alloc := true, dom := houseDom, holder := .datapath, readers := 1 })] }
/-- Its frame in progress is that of `wst`, with a reason `why` to refuse it. -/
def wbind (why : Nat) : FlowOut := { inq := [wst], bind := some { src := 0, cur := some (9, 0), why := why } }

/-- The frame in progress accepted, of a slot that has been taken, and refused; a frame's first packet; a channel that migrates; a packet
that no binding takes; a place past the end of the period; a stopped datapath. -/
theorem witness_egressPackets : (∀ o, o = wbind 0 → Awake (ws (wout o)) ∧ (wout o).foutOf 0 = o ∧ o.inq = wst :: [] ∧ o.bindOf wst.who = some { src := 0, cur := some (9, 0) } ∧ wst.who = 0 ∧ (wout o).fdpRuns 0 = true ∧
      ef [] 0 F.FCH_MODE_CLASS ≠ 1 ∧ ef [] 0 F.FCH_MODE_CUT ≠ 1 ∧ (o.frame 0 { src := 0, cur := some (9, 0) } wst).1.why = 0 ∧ packetOfs [] 0 * (tper []).2 < (tper []).1 * secTU) ∧
    ((wbind 0xFE).frame 0 { src := 0, cur := some (9, 0), why := 0xFE } wst).1.why = 0xFE ∧ ((wbind 11).frame 0 { src := 0, cur := some (9, 0), why := 11 } wst).1.why = 11 ∧ (wbind 0xFE).seqFrom = none ∧
    ({ wbind 0xFE with seqFrom := some 1 } : FlowOut).seqFrom ≠ none ∧ (none : Option (Nat × Nat)) ≠ some (wst.ts, wst.fst) ∧
    (FlowOut.bindOf { inq := [wst] } wst.who = none) ∧ (tper [(0x68, 0x3B9ACA00#32)]).1 * secTU ≤ packetOfs [(0x68, 0x3B9ACA00#32)] 5 * (tper [(0x68, 0x3B9ACA00#32)]).2 ∧
    (wd.fdpRuns 0 = false) := by
  refine ⟨?_, by decide⟩; rintro _ rfl; decide +kernel

/-- Lane 0 at its own octet of eight lanes' width, lane 8 the same of one. -/
def wslow : Dev := { wf 0#32 with regs := { live := [(A.PRT_CFG 0, fput 0 F.PRT_CFG_SPLIT 0), (A.PRT_CFG 1, fput 0 F.PRT_CFG_SPLIT 3)] } }

/-- Cut-through to lane 0, up and not, from a faster and from an equal port; best effort with room in the queue and with none, the contract
met and not. -/
theorem witness_egressCut : (ef [(0, 0x10000#32), (0x10, 0)] 0 F.FCH_MODE_CLASS ≠ 1 ∧ ef [(0, 0x10000#32), (0x10, 0)] 0 F.FCH_MODE_CUT = 1 ∧ egPort [(0, 0x10000#32), (0x10, 0)] = 0 ∧ wst.ovr = false ∧ { wst with ovr := true }.ovr = true ∧
      ((wf 0#32).portOf 0).up = true ∧ ((wf 0#32).portOf 1).up = false ∧ wst.raw = [] ∧ { wst with raw := pkb }.raw ≠ []) ∧
    (∃ i, wst.inPort = some i ∧ laneWidth wslow.live (8 / 8) < laneWidth wslow.live (i / 8)) ∧ (¬ ∃ i, wst.inPort = some i ∧ laneWidth wslow.live (0 / 8) < laneWidth wslow.live (i / 8)) ∧
    (ef [(0, 0x20#32)] 0 F.FCH_MODE_CLASS = 1 ∧ ((wf 0#32).portOf (egPort [(0, 0x20#32)])).be.length < 4096) ∧
    ((wf 0#32).contract (wf 0#32).live houseDom 0 64 0 true true).1 = true ∧ ((wf 0#32).contract (wf 0#32).live 3 0 64 0 true true).1 = false ∧
    4096 ≤ (List.replicate 4096 (⟨5, 0, 0, wst, [], 0, 9, true, some 5, false⟩ : CalEnt)).length := by
  refine ⟨by decide, ⟨0, by decide⟩, ?_, by decide +kernel, by decide +kernel, by decide +kernel, Nat.le_of_eq (List.length_replicate ..).symm⟩
  rintro ⟨i, h, h'⟩; cases h; revert h'; decide

/-- A slot for which nothing came and one that a packet fills; none to decide; a slot point to come. -/
theorem witness_slots : (∀ o : FlowOut, o = { bind := some { src := 0 }, nextSlot := some 65536000000000 } → Awake (ws (wout o)) ∧ (wout o).foutOf 0 = o ∧ o.nextDecision = some (0, [], 65536000000000) ∧ o.swPend = false ∧
      ∀ e ∈ o.held, e.slot ≠ 65536000000000 ∨ e.p.who ≠ 0) ∧
    (∀ o : FlowOut, o = { bind := some { src := 0 }, nextSlot := some 65536000000000, held := [⟨wst, 65536000000000, 0, 0⟩] } → o.nextDecision = some (0, [], 65536000000000) ∧ o.held = [] ++ ⟨wst, 65536000000000, 0, 0⟩ :: [] ∧
      wst.who = 0 ∧ o.retire = none ∧ o.seqFrom = none) ∧
    (FlowOut.nextDecision {} = none ∧ FlowOut.nextPoint {} = none) ∧
    (∀ o : FlowOut, o = { bind := some { src := 0 }, nextPoint := some 65536000000000 } → o.bind = some { src := 0 } ∧ o.nextPoint = some 65536000000000 ∧ o.swS ≤ 65536000000000) := by
  refine ⟨?_, ?_, by decide, ?_⟩ <;> rintro _ rfl <;> decide

theorem witness_bindingsEnd : (∀ r : Binding, r = { src := 1 } → ∀ o : FlowOut, o = { retire := some r } → o.elder = none ∧ o.retire = some r ∧ r.paced = true ∧ o.swPend = false ∧ (∀ e ∈ o.held, e.p.who ≠ 1) ∧ ∀ p ∈ o.inq, p.who ≠ 1) ∧
    (∀ r : Binding, r = { src := 1 } → ∀ o : FlowOut, o = { elder := some r } → o.elder = some r ∧ (∀ e ∈ o.held, e.p.who ≠ 2) ∧ ∀ p ∈ o.inq, p.who ≠ 2) ∧
    (FlowOut.elder {} = none ∧ FlowOut.retire {} = none ∧ (wbind 0).inq ≠ []) ∧
    (∀ d : Dev, d = { wf 0#32 with fout := [(0, { q := 4 }), (1, { seqFrom := some 0, held := [⟨wst, 5, 0, 0⟩] })] } → Awake (ws d) ∧ (d.foutOf 0).inq = [] ∧
      d.fout.find? (fun e => e.2.seqFrom == some 0) = some (1, { seqFrom := some 0, held := [⟨wst, 5, 0, 0⟩] }) ∧ wst.who = 0) := by
  refine ⟨?_, ?_, by decide, ?_⟩
  · rintro _ rfl _ rfl; decide
  · rintro _ rfl _ rfl; decide
  · rintro _ rfl; decide

/-- A request for lane 0, and the port's only calendar entry, in time and late. -/
theorem witness_departures : (∀ p : SubPort, p = { up := true, cal := [⟨5, 0, 0, wst, [], 0, 9, false, none, false⟩] } → ∀ d : Dev, d = { wf 0#32 with ports := [(0, p)] } → Awake (ws d) ∧ d.portOf 0 = p ∧ d.subUp 0 = true ∧
      p.cal = [] ++ ⟨5, 0, 0, wst, [], 0, 9, false, none, false⟩ :: []) ∧
    (∀ e : CalEnt, e = ⟨5, 0, 0, wst, [], 0, 9, false, some 5, false⟩ → ∀ d : Dev, d = { wf 0#32 with ports := [(0, { up := true, cal := [e] })] } → d.subUp 0 = true ∧ (d.portOf 0).be = [] ∧ e.arr.isSome ∧
      (∀ x ∈ (d.hostqOf 0).tx, x.sub ≠ subIdx d.live 0) ∧ ef e.words 0 F.FCH_MODE_DROP_LATE = 0 ∧ e.p.raw = [] ∧ ptpAt d.live pkb = none) ∧
    (∀ d : Dev, d = { wf 0#32 with hostq := [(0, { tx := [⟨7, 7, 60, 0⟩] })] } → d.subUp 0 = true ∧ (d.portOf 0).cal = [] ∧ (d.hostqOf 0).tx = ⟨7, 7, 60, 0⟩ :: [] ∧ 0 = subIdx d.live 0) ∧
    (∀ d : Dev, d = { wf 0#32 with ports := [(0, { up := true, be := [⟨5, 0, 0, wst, [], 0, 9, true, some 5, false⟩] })] } → d.subUp 0 = true ∧ (d.portOf 0).cal = [] ∧ (d.hostqOf 0).tx = [] ∧
      (d.portOf 0).be = ⟨5, 0, 0, wst, [], 0, 9, true, some 5, false⟩ :: [] ∧ wst.raw = []) ∧
    (wd.subUp 0 = false ∧ ef [(0, 0x4000000#32)] 0 F.FCH_MODE_DROP_LATE = 1) := by
  refine ⟨?_, ?_, ?_, ?_, by decide⟩
  · rintro _ rfl _ rfl; decide
  · rintro _ rfl _ rfl; decide
  · rintro _ rfl; decide
  · rintro _ rfl; decide

theorem witness_hostQueues : (Awake (ws wd) ∧ Reaches 0 (A.PRT_HFREE 0) (ws wd) ∧ wd.freeOutcome 7 houseDom true ≠ 0 ∧ wd.owns 1 houseDom = false ∧ wd.owns 0 houseDom = true ∧ Reaches 0 (A.PRT_HTX1 0) (ws wd) ∧ (wd.hostqOf 0).tx.length < 64 ∧
      subEn wd.live 0 = false) ∧
    (∀ d : Dev, d = { wd with bufs := [(7, { alloc := true, dom := houseDom, holder := .explicit, ever := true, gen := 1 })], regs := { imm := [(A.PRT_HTX0 0, 0x40007#32)] } } → (d.bufOf 7).alloc = true ∧ (d.bufOf 7).dom = houseDom ∧ (d.bufOf 7).holder = .explicit ∧
      d.im (A.PRT_HTX0 0) F.PRT_HTX0_HANDLE = 0x40007 ∧ 0x40007 % 2 ^ 18 = 7 ∧ Reaches 0 (A.PRT_HTX1 0) (ws d) ∧ d.freeOutcome 0x40007 houseDom true = 0) ∧
    (∀ d, d = wf 0#32 → subEn d.live 0 = true ∧ d.laneRuns 0 = true ∧ fget 1#32 F.PRT_LINK_UP = 1 ∧ fget 0#32 F.PRT_LINK_UP = 0) := by
  refine ⟨by decide, ?_, ?_⟩ <;> rintro _ rfl <;> decide

/-- Pin channel 0 in a live mode, its bank driven, with run-time state. -/
def wpin (mode : Nat) (c : PinCh) : Dev :=
  { own := [(houseDom, { st := .owned, owner := 0 })], regs := { live := [(A.PCH_MODE 0, BitVec.ofNat 32 mode)] }, pins := [(0, c)], pwr := { active := [(4, 0)] } }

/-- The words of a waveform of a mode. -/
def wmode (mode : Nat) : Tab Word := [(0, BitVec.ofNat 32 mode)]

/-- An entry of the edge queue due before any request, its level new and not; in the safe state too. A request, one to the level that stands,
one of a pair that dead time leaves too short. Nothing to place. An entry on its way, in time, late to be skipped and late to be moved. -/
theorem witness_edgesPlaced : (∀ c : PinCh, c = { words := wmode 3, q := [⟨100, true, true, none, 0⟩], oe := true } → Awake (ws (wpin 3 c)) ∧ (wpin 3 c).pcOf 0 = c ∧ c.mode = 3 ∧ c.q = ⟨100, true, true, none, 0⟩ :: [] ∧ c.reqs.head? = none ∧ true ≠ c.wlevel ∧
      c.inSafe = false ∧ pinHeld (wpin 3 c) 0) ∧
    (∀ c : PinCh, c = { words := wmode 3, q := [⟨100, false, true, some 120, 0⟩], inSafe := true, reqs := [⟨121, true, 0, 0⟩], lastEdge := some 99 } → c.inSafe = true ∧ (∀ r ∈ c.reqs.head?, 120 < r.t) ∧ c.lastEdge = some 99) ∧
    (∀ c : PinCh, c = { words := wmode 2, reqs := [⟨100, true, 0, 0⟩], oe := true } → Awake (ws (wpin 2 c)) ∧ c.mode ≠ 3 ∧ c.reqs = ⟨100, true, 0, 0⟩ :: [] ∧ true ≠ c.wlevel ∧ pinHeld (wpin 2 c) 0 ∧ (wpin 2 c).tooShort 0 ⟨100, true, 0, 0⟩ = false) ∧
    (∀ c : PinCh, c = { words := wmode 2, reqs := [⟨100, false, 2, 0⟩] } → c.reqs = ⟨100, false, 2, 0⟩ :: [] ∧ false = c.wlevel) ∧
    (∀ c : PinCh, c = { q := [⟨24 * nsTU, true, false, none, 0⟩] } → c.q = [] ++ ⟨24 * nsTU, true, false, none, 0⟩ :: [] ∧ (wpin 3 c).now + 24 * nsTU ≤ 24 * nsTU) ∧
    (∀ c : PinCh, c = { q := [⟨24 * nsTU - 1, true, false, none, 0⟩] } → 24 * nsTU - 1 < (wpin 3 c).now + 24 * nsTU ∧ (wpin 3 c).lv (A.PCH_MODE 0) F.PCH_MODE_LATE_POL ≠ 1) ∧
    (wpin (3 + 16) {}).lv (A.PCH_MODE 0) F.PCH_MODE_LATE_POL = 1 ∧ PinCh.reqs {} = [] ∧ PinCh.q {} = [] := by
  refine ⟨?_, ?_, ?_, ?_, ?_, ?_, by decide⟩ <;> rintro _ rfl <;> decide

/-- The next period of a pulse train, its first after RESTART, of a train of one period; of a PWM whose duty keeps MINPW from both sides;
no period to begin, and settings that wait for C. -/
theorem witness_waveforms : (∀ c : PinCh, c = { words := wmode 2, running := true, fresh := false, nextN := 1 } → Awake (ws (wpin 2 c)) ∧ (wpin 2 c).pcOf 0 = c ∧ c.nextPeriod = some (1, false) ∧ c.inSafe = false ∧ periodic c.mode = true ∧
      c.cPoint = none ∧ c.safePend = none ∧ c.reqs = [] ∧ c.mode = 2 ∧ c.restartN = none ∧
      pinGamma c.words c.anchor 1 + (pf c.words 0x20 F.PCH_CMPA_NS * nsTU + pf c.words 0x28 F.PCH_CMPFR_A_FR : Nat) ≤ pinGamma c.words c.anchor 1 + (pf c.words 0x24 F.PCH_CMPB_NS * nsTU + pf c.words 0x28 F.PCH_CMPFR_B_FR : Nat)) ∧
    (∀ c : PinCh, c = { words := wmode 2, stopped := true, restartN := some 0, nextN := 0 } → c.nextPeriod = some (0, true) ∧ c.goes = false) ∧
    (∀ c : PinCh, c = { words := [(0, 4#32), (0x10, 65536000#32), (0x34, 0)], running := true, duty := 2 ^ 23 } → c.nextPeriod = some (0, false) ∧ c.mode = 4 ∧ ¬ leads (wpin 4 c) 0 ∧ c.pend = none ∧ c.sched = [] ∧ c.raw = false ∧ c.safePend = none ∧ c.reqs = [] ∧
      pf c.words 0x30 F.PCH_PWM_CENTRE = 0 ∧ pf c.words 0x3C F.PCH_TRIG_EN = 0 ∧ pf c.words 0x40 F.PCH_TRIG_EN = 0 ∧ pf c.words 0x34 F.PCH_PWMW_MINPW = 0 ∧
      c.duty * pinPnum c.words / (pinPden c.words * 2 ^ 24) < (pinGamma c.words c.anchor (0 + 1) - pinGamma c.words c.anchor 0).toNat ∧ pinGamma c.words c.anchor 0 ≥ 0) ∧
    (PinCh.cPoint {} = none ∧ PinCh.nextPeriod {} = none ∧ ({ inSafe := true } : PinCh).inSafe = true ∧ periodic (PinCh.mode {}) = false) ∧
    (∀ c : PinCh, c = { words := wmode 2, cPoint := some 500 } → c.cPoint = some 500 ∧ periodic (pf (pinWords (wpin 2 c).regs.live 0) 0 F.PCH_MODE_MODE) = true ∧ c.inSafe = false ∧ c.mode ≠ 4) := by
  refine ⟨?_, ?_, ?_, by decide, ?_⟩ <;> rintro _ rfl <;> decide

/-- Pin channel 0 of a pair in a mode, that this side drives and mirrors, or that the twin drives. -/
def wpair (mode : Nat) (mine : Bool) (c : PinCh) : Dev :=
  { wpin mode c with
    regs := { live := [(A.PCH_MODE 0, BitVec.ofNat 32 mode), (A.ZYN_PROLE 0, 1#32)] }
    zyn := { pair := .joined, link := .up, dead := false, driving := if mine then [0] else [] } }

/-- A channel that is mirrored to a twin that can be told, and one that the twin drives. -/
theorem witness_mirrored : (∀ d, d = wpair 3 true { words := wmode 3 } → Awake (ws d) ∧ Reaches 0 (A.PCH_EQ2 0) (ws d) ∧ Reaches 0 (A.PCH_CTL 0) (ws d) ∧ Reaches 0 (A.PCH_DUTY 0) (ws d) ∧ d.shadowed 0 = false ∧
      mirrors d 0 ∧ canSend d ∧ (d.pcOf 0).mode = 3 ∧ (d.pcOf 0).q.length < 32 ∧ d.isHS 0 = false ∧ (d.pcOf 0).lastPush = none) ∧
    (∀ d, d = wpair 4 false { words := wmode 4 } → Awake (ws d) ∧ Reaches 0 (A.PCH_EQ2 0) (ws d) ∧ Reaches 0 (A.PCH_CTL 0) (ws d) ∧ Reaches 0 (A.PCH_DUTY 0) (ws d) ∧ d.shadowed 0 = true) ∧
    (∀ d, d = wpair 4 true { words := wmode 4, running := true } → d.shadowed 0 = false ∧ mirrors d 0 ∧ canSend d ∧ periodic (d.pcOf 0).mode = true ∧ (d.pcOf 0).inSafe = false ∧ ¬ leads d 0 ∧ (d.pcOf 0).wlevel = false) ∧
    (∀ d, d = { wpair 4 true {} with zyn := {} } → d.shadowed 0 = true) := by
  refine ⟨?_, ?_, ?_, ?_⟩ <;> rintro _ rfl <;> decide

/-- A queue with room: empty, its last entry at the push's instant, and one before it; a full one, a push out of order, an HS output; a
channel of another mode. -/
theorem witness_edgeQueue : (∀ c : PinCh, c = { words := wmode 3 } → Awake (ws (wpin 3 c)) ∧ Reaches 0 (A.PCH_EQ2 0) (ws (wpin 3 c)) ∧ (wpin 3 c).shadowed 0 = false ∧ ¬ mirrors (wpin 3 c) 0 ∧ c.mode = 3 ∧ c.q.length < 32 ∧ (wpin 3 c).isHS 0 = false ∧
      c.lastPush = none ∧ unshort (wpin 3 c).now (((wpin 3 c).immW (A.PCH_EQ0 0)).toNat + ((wpin 3 c).immW (A.PCH_EQ1 0)).toNat * 2 ^ 32) = 0) ∧
    (∀ c : PinCh, c = { words := wmode 3, q := [⟨0, true, false, none, 0⟩], lastPush := some 0 } → c.q.getLast?.any (fun e => e.t == 0) = true ∧ ∀ p, c.lastPush = some p → p ≤ 0) ∧
    (∀ c : PinCh, c = { words := wmode 12, q := List.replicate 32 ⟨0, true, true, none, 0⟩ } → c.mode = 12 ∧ 32 ≤ c.q.length) ∧
    (∀ c : PinCh, c = { words := wmode 3, lastPush := some 5 } → ∃ p, c.lastPush = some p ∧ 0 < p) ∧
    (PinCh.mode {} ≠ 3 ∧ PinCh.mode {} ≠ 12) := by
  refine ⟨?_, ?_, ?_, ?_, by decide⟩ <;> rintro _ rfl
  · decide
  · exact ⟨rfl, by rintro p ⟨⟩; decide⟩
  · decide
  · exact ⟨5, rfl, by decide⟩

/-- A channel that runs no waveform; a train at its inactive level; one in a pulse whose end is asked for; a PWM that leads none. -/
theorem witness_pinCommands : (∀ c : PinCh, c = { words := wmode 3 } → Awake (ws (wpin 3 c)) ∧ Reaches 0 (A.PCH_CTL 0) (ws (wpin 3 c)) ∧ Reaches 0 (A.PCH_DUTY 0) (ws (wpin 3 c)) ∧ (wpin 3 c).shadowed 0 = false ∧ ¬ mirrors (wpin 3 c) 0 ∧ periodic c.mode = false) ∧
    (∀ c : PinCh, c = { words := wmode 2, running := true } → periodic c.mode = true ∧ c.inSafe = false ∧ ¬ leads (wpin 2 c) 0 ∧ c.wlevel = false) ∧
    (∀ c : PinCh, c = { words := wmode 4, running := true, wlevel := true, reqs := [⟨50, false, 0, 0⟩] } → periodic c.mode = true ∧ ¬ leads (wpin 4 c) 0 ∧ c.wlevel = true ∧ c.reqs = ⟨50, false, 0, 0⟩ :: []) ∧
    (∀ c : PinCh, c = { words := wmode 4, running := true } → ∀ d : Dev, d = { wpin 4 c with pins := [(0, c), (1, { words := wmode 5 })] } → leads d 0 ∧ periodic (d.pcOf 0).mode = true ∧ (d.pcOf 0).inSafe = false) := by
  refine ⟨?_, ?_, ?_, ?_⟩
  · rintro _ rfl; decide
  · rintro _ rfl; decide
  · rintro _ rfl; decide
  · rintro _ rfl _ rfl; decide

theorem witness_triggers : (∀ c : PinCh, c = { words := wmode 4, trigs := [(1, 100)] } → ∀ d : Dev, d = { wpin 4 c with pins := [(0, c), (1, { words := [(0, 9#32), (0x44, fput (fput 0 F.PCH_TOUT_LEADER 0) F.PCH_TOUT_SEL 2)] })] } → Awake (ws d) ∧ c.mode ≠ 9 ∧
      c.trigs.find? (fun x => x.1 == 1) = some (1, 100) ∧ c.trigs.find? (fun x => x.1 == 0) = none ∧ (d.pcOf 1).mode = 9 ∧ pf (d.pcOf 1).words 0x44 F.PCH_TOUT_LEADER = 0 ∧ bitOf (pf (d.pcOf 1).words 0x44 F.PCH_TOUT_SEL) 1 = true ∧
      pcHolder d.live 1 = pcHolder d.live 0 ∧ (d.pcOf 1).inSafe = false ∧ (d.pcOf 1).safePend = none ∧ (d.pcOf 1).reqs = []) := by
  rintro _ rfl _ rfl; decide

/-- A device none of whose channels waits for a chatter instant has no chatter to come. -/
theorem calm (d : Dev) (h : ∀ e ∈ d.pins, e.2.chat = none) (pc t : Nat) : noChatter d pc t := by
  have key : ∀ (l : Tab PinCh), (∀ e ∈ l, e.2.chat = none) → ∀ k, (Tab.get l {} k).chat = none := by
    intro l; induction l with
    | nil => intro _ k; rfl
    | cons e t ih =>
      intro hl k
      rw [Tab.get, Tab.get?]
      split
      · exact hl e (.head _)
      · exact ih (fun x hx => hl x (.tail _ hx)) k
  intro k _ x hx
  rw [Dev.pcOf, key d.pins h] at hx; cases hx

/-- A change alone; one that ends a narrow pulse, before it is due; a pin without supply; a pin whose chatter is proved by this change. -/
theorem witness_inputsStamped : (∀ c : PinCh, c = {} → Awake (ws (wpin 6 c)) ∧ (wpin 6 c).pcOf 0 = c ∧ true ≠ c.inLevel ∧ c.held = none ∧ c.trs.head? = none ∧ deliveredMode ((wpin 6 c).pcMode 0) = true ∧ deliveredMode ((wpin 2 c).pcMode 0) = false ∧
      pinBank 0 = some 0 ∧ (wpin 6 c).pwr.banksOff.contains 0 = false ∧ (∀ t, noChatter (wpin 6 c) 0 t)) ∧
    (∀ c : PinCh, c = { held := some ⟨90, true, 0, false⟩, trs := [(90, true)], inLevel := true } → c.held = some ⟨90, true, 0, false⟩ ∧ 100 < (wpin 6 c).qualDue 0 ⟨90, true, 0, false⟩ ∧ c.trs = (90, true) :: [] ∧ 100 < 90 + pinSpacing 0 ∧ ∀ t, noChatter (wpin 6 c) 0 t) ∧
    (∀ d : Dev, d = { wpin 6 {} with pwr := { active := [(4, 0)], banksOff := [0] } } → d.pwr.banksOff.contains 0 = true) ∧
    (∀ c : PinCh, c = { trs := [(90, true)], inLevel := true } → ∀ d : Dev, d = { wpin 11 c with regs := { live := [(A.PCH_MODE 0, 11#32), (A.PCH_LIM 0, fput (fput 0 F.PCH_LIM_CHAT_N 1) F.PCH_LIM_CHAT_W 100)] } } →
      ∀ n, n = d.lv (A.PCH_LIM 0) F.PCH_LIM_CHAT_N → d.pcMode 0 = 11 ∧ n ≠ 0 ∧ c.chatter = false ∧ 90 + pinSpacing 0 ≤ 10 ^ 6 ∧
      n < (((10 ^ 6, false) :: c.trs).filter (fun y => decide (10 ^ 6 < y.1 + d.lv (A.PCH_LIM 0) F.PCH_LIM_CHAT_W * usTU))).length) := by
  refine ⟨?_, ?_, ?_, ?_⟩
  · rintro _ rfl
    exact ⟨by decide, by decide, by decide, by decide, by decide, by decide, by decide, by decide, by decide, calm _ (by decide) _⟩
  · rintro _ rfl
    exact ⟨by decide, by decide, by decide, by decide, calm _ (by decide) _⟩
  · rintro _ rfl; decide
  · rintro _ rfl _ rfl _ rfl; decide

/-- The device that captures, with a word that selects edges. -/
def wcap (mode : Nat) (sel : Word) (c : PinCh) : Dev := { wpin mode c with regs := { live := [(A.PCH_MODE 0, BitVec.ofNat 32 mode), (A.PCH_IN 0, sel)] } }

/-- A held change in each mode that delivers: its edge not selected; a capture with room and without; a counter with no gate, with one that was
open and one that was shut, and with a clear after the change; a limit that is not active; a pin that feeds no angle unit. -/
theorem witness_inputsQualify : (∀ c : PinCh, c = { held := some ⟨90, true, 0, false⟩ } → Awake (ws (wpin 6 c)) ∧ c.held = some ⟨90, true, 0, false⟩ ∧ (∀ t, noChatter (wcap 6 1 c) 0 t) ∧
      (wcap 6 1 c).pcMode 0 = 6 ∧ (wcap 7 1 c).pcMode 0 = 7 ∧ (wcap 8 1 c).pcMode 0 = 8 ∧ (wcap 11 1 c).pcMode 0 = 11 ∧ c.fifo.length < 16 ∧ deliveredMode ((wpin 2 c).pcMode 0) = false ∧
      bitOf ((wcap 6 1 c).lv (A.PCH_IN 0) F.PCH_IN_EDGE) 0 = true ∧ bitOf ((wcap 6 2 c).lv (A.PCH_IN 0) F.PCH_IN_EDGE) 0 = false ∧ (wcap 8 1 c).quadLines 0 = [] ∧ (wcap 7 1 c).lvb (A.PCH_IN 0) F.PCH_IN_GATE_EN = false ∧
      (⟨90, true, 0, false⟩ : Cap).here = 90 ∧ false ≠ (wcap 11 1 c).lvb (A.PCH_LIM 0) F.PCH_LIM_ACT ∧ bitOf ((wcap 11 2 c).lv (A.PCH_IN 0) F.PCH_IN_EDGE) 1 = true ∧ tileAxes (wcap 11 1 c).live (0 / 64) = []) ∧
    (∀ c : PinCh, c = { held := some ⟨90, true, 0, false⟩, fifo := List.replicate 16 ⟨1, true, 0, false⟩, clrAt := some 90, trs := [(90, true), (50, false)] } → 16 ≤ c.fifo.length ∧ (∃ x, c.clrAt = some x ∧ 90 ≤ x) ∧
      (wcap 7 (fput (fput 0 F.PCH_IN_EDGE 1) F.PCH_IN_GATE_EN 1) c).lvb (A.PCH_IN 0) F.PCH_IN_GATE_EN = true ∧
      ((wcap 7 (fput (fput 0 F.PCH_IN_EDGE 1) F.PCH_IN_GATE_EN 1) c).pcOf (64 * (0 / 64) + (wcap 7 (fput (fput 0 F.PCH_IN_EDGE 1) F.PCH_IN_GATE_EN 1) c).lv (A.PCH_IN 0) F.PCH_IN_GATE)).levelAt 90 = true ∧ c.levelAt 89 = false) ∧
    (PinCh.held {} = none ∧ PinCh.fifo {} = [] ∧ homePin wd.live 0 = none ∧ PinCh.fifo { fifo := [⟨90, true, 0, false⟩] } = ⟨90, true, 0, false⟩ :: [] ∧ (wpin 6 {}).ownsReg 0 (A.PCH_CAP0 0) = true ∧ wd.ownsReg 1 (A.PCH_CAP0 0) = false) := by
  refine ⟨?_, ?_, by decide⟩ <;> rintro _ rfl
  · exact ⟨by decide, by decide, calm _ (by decide) _, by decide⟩
  · exact ⟨by decide, ⟨90, by decide⟩, by decide⟩

/-- A pin that feeds line B of angle unit 1. -/
theorem witness_quadLine : ∀ d : Dev, d = { wpin 8 { held := some ⟨90, true, 0, false⟩ } with regs := { live := [(A.AU_CFG 1, fput (fput (fput 0 F.AU_CFG_EN 1) F.AU_CFG_PIN_A 1) F.AU_CFG_PIN_B 0), (A.PCH_MODE 0, 8#32)] } } → d.pcMode 0 = 8 ∧
    d.quadLines 0 = [(1, 1)] ∧ (Tab.get (Tab.get d.au {} 1).inq [] 1).length < 64 ∧ 64 ≤ (List.replicate 64 (⟨90, true, 0, false⟩ : Cap)).length := by
  rintro _ rfl; decide

/-- A limit ahead of a move whose next step is far enough off. -/
theorem witness_limit : ∀ d : Dev, d = { own := [(houseDom, { st := .owned, owner := 0 })], pins := [(0, { held := some ⟨90, true, 0, false⟩ })], axes := [(0, { st := .move, tNext := 10 ^ 10 })], pwr := { active := [(4, 0)] }, regs := { live := [(A.PCH_MODE 0, 11#32), (A.PCH_IN 0, fput 0 F.PCH_IN_EDGE 3), (A.PCH_LIM 0, fput 0 F.PCH_LIM_ACT 1), (A.AX_OPT 0, fput 0 F.AX_OPT_EN 1), (A.AX_PINS 0, fput 0 F.AX_PINS_LPOS_EN 1)] } } →
    d.pcMode 0 = 11 ∧ bitOf (d.lv (A.PCH_IN 0) F.PCH_IN_EDGE) 0 = true ∧ true = d.lvb (A.PCH_LIM 0) F.PCH_LIM_ACT ∧ tileAxes d.live (0 / 64) = [0] ∧ (if (d.axOf 0).neg then lnegPin d.live 0 else lposPin d.live 0) = some 0 ∧ (d.axOf 0).moving = true ∧ 90 + d.lv (A.PCH_IN 0) F.PCH_IN_FILT * nsTU + 20 * nsTU ≤ (d.axOf 0).tNext := by
  rintro _ rfl; decide

/-- Timer 0 of tile 0 with a start by arming, one by an event with a copy on its way, and one that counts. -/
def wtmr (start : Nat) (x : Timer) : Dev :=
  { own := [(houseDom, { st := .owned, owner := 0 })], eng := [(0, { st := .idle })], timers := [(0, x)]
    regs := { live := [(A.TMR_CFG 0 0, fput (fput 0 F.TMR_CFG_EN 1) F.TMR_CFG_START start), (A.TMR_TOP0 0 0, 7#32), (A.TMR_HI 0 0, 0#32), (A.TMR_CMP0 0 0, 3#32)] } }

theorem witness_timers : (∀ d, d = wtmr 2 {} → Awake (ws d) ∧ Reaches 0 (A.TMR_ARM1 0 0) (ws d) ∧ Reaches 0 (A.TMR_CTL 0 0) (ws d) ∧ d.tmrOn 0 0 2 = true ∧ d.now ≤ unshort d.now 5 ∧ (d.tmr 0 0).armed = none ∧ (d.tmr 0 0).started = false ∧
      takeCopy (fun x => x == .timer 0 0) d.fabric = none) ∧
    (∀ d : Dev, d = { wtmr 2 {} with h := { ctr := 10 ^ 12 } } → unshort d.now 5 < d.now ∧ d.tmrOn 0 0 2 = true) ∧
    (∀ d : Dev, d = { wtmr 1 {} with fabric := [⟨⟨0x3100, 5, 0⟩, .timer 0 0, 327, none, false⟩] } → takeCopy (fun x => x == .timer 0 0) d.fabric = some (⟨⟨0x3100, 5, 0⟩, .timer 0 0, 327, none, false⟩, []) ∧ d.tmrOn 0 0 1 = true ∧
      d.now ≤ 5 + d.lv (A.TMR_SOFS 0 0) F.TMR_SOFS_SOFS * nsTU ∧ (wtmr 2 {}).tmrOn 0 0 1 = false) ∧
    (∀ d, d = wtmr 2 { started := true } → (d.tmr 0 0).started = true ∧ (tmrCfg d.live 0 0).dir ≤ 2 ∧ ((tmrCfg d.live 0 0).value 3).1 = (tmrCfg d.live 0 0).cmp ∧ ((tmrCfg d.live 0 0).value 8).1 = 0 ∧ (d.tmr 0 0).matchTick < 3 ∧
      (d.tmr 0 0).wrapTick < 8 ∧ (∀ j < 3, ((tmrCfg d.live 0 0).value j).1 ≠ (tmrCfg d.live 0 0).cmp) ∧ ∀ j < 8, 0 < j → ((tmrCfg d.live 0 0).value j).1 ≠ 0) := by
  refine ⟨?_, ?_, ?_, ?_⟩ <;> rintro _ rfl <;> decide

/-- Trip input 0 with an enabled configuration, active high, for channel 0. -/
def wtrip (x : Trip) : Dev :=
  { own := [(houseDom, { st := .owned, owner := 0 })], trips := [(0, x)], pwr := { active := [(4, 0)] }, pins := [(0, { words := [(0, 4#32)] })]
    regs := { live := [(A.TRIP_CFG 0, fput (fput 0 F.TRIP_CFG_EN 1) F.TRIP_CFG_POL 1), (A.TRIP_MASK 0 0, 1#32)] } }

/-- An input at rest, with a change to either level; one whose level has held, outside any window, inside one, as it trips and once it has; a
window that ends with nothing held, with an input that fell, and with one that still asserts; a clear taken and refused. -/
theorem witness_trips :
    (∀ x : Trip, x = {} → Awake (ws (wtrip x)) ∧ (wtrip x).tripOf 0 = x ∧ x.held = none ∧ x.blank = [] ∧ false = x.level ∧ true ≠ x.level ∧ (wtrip x).pwr.banksOff.contains 0 = false ∧
      (wtrip x).lvb (A.TRIP_CFG 0) F.TRIP_CFG_EN = true ∧ true = (wtrip x).lvb (A.TRIP_CFG 0) F.TRIP_CFG_POL ∧ wd.lvb (A.TRIP_CFG 0) F.TRIP_CFG_EN = false ∧
      Reaches 0 (A.TRIP_CTL 0) (ws (wtrip x)) ∧ x.asserted = false) ∧
    ({ wtrip {} with pwr := { banksOff := [0] } } : Dev).pwr.banksOff.contains 0 = true ∧
    (∀ x : Trip, x = { held := some 100, level := true } → x.held = some 100 ∧ (¬ ∃ y ∈ x.blank, y.1 ≤ 100 + 0 * nsTU ∧ 100 + 0 * nsTU < y.2) ∧ x.tripped = false ∧ (wtrip x).lv (A.TRIP_CFG 0) F.TRIP_CFG_FILT = 0 ∧
      tileGrps (wtrip x).live 0 = [] ∧ tileAxes (wtrip x).live 0 = [] ∧ tripPcs (wtrip x).live 0 = [0]) ∧
    (∀ x : Trip, x = { held := some 100, blank := [(100, 101), (300, 400)], tripped := true } → (∃ y ∈ x.blank, y.1 ≤ 100 + 0 * nsTU ∧ 100 + 0 * nsTU < y.2) ∧ (¬ ∃ y ∈ x.blank, y.1 ≤ 101 + 0 * nsTU ∧ 101 + 0 * nsTU < y.2) ∧ x.tripped = true) ∧
    (∀ x : Trip, x = { blank := [(100, 200)], blankHeld := [150, 170], asserted := true } → Awake (ws (wtrip x)) ∧ (wtrip x).tripOf 0 = x ∧ x.blank = (100, 200) :: [] ∧ x.blankHeld ≠ [] ∧ x.asserted = true ∧ x.tripped = false ∧
      tileGrps (wtrip x).live 0 = [] ∧ tileAxes (wtrip x).live 0 = []) ∧
    (∀ x : Trip, x = { blank := [(100, 200)] } → x.blankHeld = [] ∧ x.asserted = false) := by
  refine ⟨?_, by decide, ?_, ?_, ?_, ?_⟩ <;> rintro _ rfl
  · decide
  · decide
  · exact ⟨⟨_, .head _, by decide⟩, by decide, rfl⟩
  · decide
  · decide

theorem witness_safeState :
    (∀ c : PinCh, c = { words := wmode 2, safePend := some 100, oe := true, pin := true } → Awake (ws (wpin 2 c)) ∧ (wpin 2 c).pcOf 0 = c ∧ c.safePend = some 100 ∧ c.mode ≠ 10 ∧ c.inSafe = false ∧ (wpin 2 c).wantPin 0 ≠ none ∧ c.oe = true ∧
      ({ wpin 2 c with regs := { live := [(A.PCH_MODE 0, 2#32), (A.PCH_SAFE 0, 0#32)] } } : Dev).lv (A.PCH_SAFE 0) F.PCH_SAFE_SAFE = 0 ∧ c.inv ≠ c.pin) ∧
    (∀ c : PinCh, c = { words := wmode 2, safePend := some 100, oe := true } → ∀ d : Dev, d = { wpin 2 c with regs := { live := [(A.PCH_MODE 0, 2#32), (A.PCH_SAFE 0, fput 0 F.PCH_SAFE_SAFE 2)] } } →
      d.wantPin 0 ≠ none ∧ d.lv (A.PCH_SAFE 0) F.PCH_SAFE_SAFE = 2 ∧ c.pin = c.inv) ∧
    (∀ c : PinCh, c = { words := wmode 2, safePend := some 100 } → ∀ t, noChatter (wpin 2 c) 0 t) ∧ PinCh.safePend {} = none ∧
    (∀ c : PinCh, c = { words := wmode 2, inSafe := true, resume := some 100 } → c.resume = some 100 ∧ ∀ w ∈ [1, 2, 3, 4, 12], ((wpin w c).setPc 0 { c with inSafe := false }).wantPin 0 ≠ none ∧
      pf (pinWords (wpin w c).regs.live 0) 0 F.PCH_MODE_MODE = w ∧ w ≠ 5) ∧ periodic 2 = true ∧ PinCh.resume {} = none ∧
    (∀ d : Dev, d = { wpin 2 {} with eng := [(256, { st := .halted })] } → (d.tileOffline 256 || (d.engOf 256).resetting) = false ∧ (d.engOf 256).st = .halted ∧ tileGrps d.live 0 = [] ∧ tileAxes d.live 0 = []) ∧
    ((wpin 2 {}).tileOffline 256 || ((wpin 2 {}).engOf 256).resetting) = true ∧ (({ wpin 2 {} with eng := [(256, { st := .idle })] } : Dev).engOf 256).st ≠ .halted := by
  refine ⟨?_, ?_, ?_, rfl, ?_, by decide, by decide, ?_, by decide, by decide⟩ <;> rintro _ rfl
  · decide
  · rintro _ rfl; decide
  · exact calm _ (by decide) _
  · decide
  · decide

/-- Axis 0 of pin tile 0 with step pin 0 and direction pin 1, enabled. -/
def wax (x : Axis) : Dev :=
  { own := [(houseDom, { st := .owned, owner := 0 })], axes := [(0, x)], pwr := { active := [(4, 0)] }, pins := [(0, { oe := true }), (1, { oe := true }), (2, { inLevel := true })]
    regs := {
      live := [(A.AX_PINS 0, fput (fput (fput (fput 0 F.AX_PINS_STEP_EN 1) F.AX_PINS_DIR 1) F.AX_PINS_DIR_EN 1) F.AX_PINS_LPOS 2), (A.AX_OPT 0, fput (fput 0 F.AX_OPT_EN 1) F.AX_OPT_HOME 2),
        (A.AX_TIME 0, fput (fput 0 F.AX_TIME_SWIDTH 100) F.AX_TIME_DSETUP 50), (A.AX_HMAX 0, 1000#32), (A.PCH_MODE 0, 12#32), (A.PCH_MODE 1, 12#32), (A.PCH_LIM 2, fput (fput 0 F.PCH_LIM_ACT 1) F.PCH_LIM_CHAT_W 100)]
      imm := [(A.AX_STEPS 0, 5#32), (A.AX_PCRU 0, 10000#32), (A.AX_PSTA 0, 20000#32)] } }

/-- An axis at rest that may go either way, with a direction edge to place and with none; one not enabled; one with a limit ahead and its home pin
active; one with a channel in the safe state; one that moves and one that homes, with no step before the command takes effect; one stopped hard, whose
stop has set causes; a limit in chatter. -/
theorem witness_axisCommands : (∀ d, d = wax {} → Awake (ws d) ∧ Reaches 0 (A.AX_CMD 0) (ws d) ∧ axFree d 0 ∧ (∀ t, noChatter d (64 * (0 / 8)) t) ∧ (d.axOf 0).st = .idle ∧ d.live.b (A.AX_OPT 0) F.AX_OPT_EN = true ∧
      (stepPin d.live 0 = some 0 ∧ d.lv (A.AX_TIME 0) F.AX_TIME_SWIDTH + pinSpacing 0 / nsTU ≤ (d.immW (A.AX_PCRU 0)).toNat) ∧ (d.immW (A.AX_PCRU 0)).toNat ≤ (d.immW (A.AX_PSTA 0)).toNat ∧
      sgn 32 (d.immW (A.AX_STEPS 0)).toNat ≠ 0 ∧ d.aheadActive 0 false = false ∧ d.axSafe 0 = false ∧ d.limActive (homePin d.live 0) = false ∧ d.aheadActive 0 true = false ∧
      0 < d.live.f (A.AX_HMAX 0) F.AX_HMAX_HMAX ∧ (d.axOf 0).moving = false ∧ d.limActive (lposPin d.live 0) = false ∧ d.limActive (lnegPin d.live 0) = false ∧ limPins d.live 0 = [] ∧ (dirPin d.live 0).isSome ∧ (d.axOf 0).dirLevel = false) ∧
    (wd.axOf 0).st = .idle ∧ wd.live.b (A.AX_OPT 0) F.AX_OPT_EN = false ∧ (wl [(A.AX_HMAX 0, 0#32)]).live.f (A.AX_HMAX 0) F.AX_HMAX_HMAX = 0 ∧
    (∀ d : Dev, d = { wax {} with
      regs := { (wax {}).regs with
        live := Tab.set (Tab.set (wax {}).regs.live (A.AX_PINS 0) (fput (fput (fput 0 F.AX_PINS_STEP_EN 1) F.AX_PINS_LPOS 2) F.AX_PINS_LPOS_EN 1)) (A.AX_OPT 0) (fput (fput (fput 0 F.AX_OPT_EN 1) F.AX_OPT_HOME 2) F.AX_OPT_HOME_EN 1) }
      pins := [(2, { inLevel := true, chatter := true, trs := [(0, true)] })] } →
      d.aheadActive 0 (!true) = true ∧ d.limActive (homePin d.live 0) = true ∧ d.limActive (lposPin d.live 0) = true ∧ stepPin d.live 0 ≠ none ∧ 2 ∈ limPins d.live 0 ∧ (d.pcOf 2).chatter = true ∧
      (d.pcOf 2).trs.head? = some (0, true) ∧ d.now < 0 + d.lv (A.PCH_LIM 2) F.PCH_LIM_CHAT_W * usTU) ∧
    (∀ d : Dev, d = { wax {} with
      regs := { (wax {}).regs with live := (A.ZYN_PROLE 0, 1#32) :: (wax {}).regs.live }, zyn := { pair := .joined, link := .up, dead := false, driving := [0] } } →
      Awake (ws d) ∧ Reaches 0 (A.AX_CMD 0) (ws d) ∧ axFree d 0 ∧ mirrors d 0 ∧ d.axChan 0 = some 0) ∧
    (∀ d : Dev, d = { wax {} with regs := { (wax {}).regs with live := (A.ZYN_PROLE 0, 1#32) :: (wax {}).regs.live } } → Awake (ws d) ∧ Reaches 0 (A.AX_CMD 0) (ws d) ∧ d.axShadowed 0 = true) ∧
    (∀ d : Dev, d = { wax {} with pins := [(0, { cause := 1 })] } → d.axSafe 0 = true) ∧
    (∀ x : Axis, x = { st := .move, n := 10, j := 2, tNext := 10 ^ 10 } → x.moving = true ∧ 0 + 24 * nsTU < x.tNext ∧ x.st ≠ .idle) ∧
    (∀ x : Axis, x = { st := .homeSeek, n := 10, j := 10, tNext := 5 } → x.moving = true ∧ x.st = .homeSeek ∧ x.n ≤ x.j) ∧
    ((wax { st := .hardStop, stopped := [0, 1] }).axOf 0).st = .hardStop := by
  refine ⟨?_, by decide, by decide, by decide, ?_, ?_, ?_, ?_, ?_, ?_, by decide⟩ <;> rintro _ rfl
  · have h : (wax {}).axChan 0 = some 0 := by decide
    exact ⟨by decide, by decide, ⟨by decide, fun pc e => by rw [h] at e; cases e; exact fun k => absurd k (by decide)⟩, calm _ (by decide) _, by decide⟩
  · decide
  · exact ⟨by decide, by decide, ⟨by decide, fun _ _ _ => by decide⟩, by decide, by decide⟩
  · decide
  · decide
  · decide
  · decide

/-- A move with a direction edge and a step to place, its last step and one before; a direction pin in the safe state; an axis without pins. -/
theorem witness_axesMove : (∀ x : Axis, x = { st := .move, n := 5, j := 1, tNext := 500, dirAt := [(400, true)] } → Awake (ws (wax x)) ∧ x.dirAt = (400, true) :: [] ∧ dirPin (wax x).live 0 = some 1 ∧ true ≠ ((wax x).pcOf 1).wlevel ∧
      pinHeld (wax x) 1 ∧ (∀ t, noChatter (wax x) (64 * (0 / 8)) t) ∧ x.moving = true ∧ ¬ x.n ≤ x.j + 1 ∧ stepPin (wax x).live 0 = some 0 ∧ ((wax x).pcOf 0).reqs = [] ∧ ((wax x).pcOf 0).safePend = none ∧ ((wax x).pcOf 0).wlevel = false ∧ pinHeld (wax x) 0) ∧
    (∀ x : Axis, x = { st := .homeSeek, n := 5, j := 4, neg := true } → x.moving = true ∧ x.n ≤ x.j + 1) ∧
    (dirPin wd.live 0 = none ∧ stepPin wd.live 0 = none ∧ (wd.axOf 0).dirAt = [] ∧ (wd.axOf 0).moving = false) ∧
    (∀ d : Dev, d = { wax {} with pins := [(1, { inSafe := true })] } → (d.pcOf 1).inSafe = true) := by
  refine ⟨?_, ?_, by decide, ?_⟩ <;> rintro _ rfl
  · exact ⟨by decide, by decide, by decide, by decide, by decide, calm _ (by decide) _, by decide⟩
  · decide
  · decide

/-- Group 0 of pin tile 0: high side on pin 0, member 1 on pin 1, member 2 on pin 2. -/
def wgrp (x : Grp) (c : PinCh) : Dev :=
  { own := [(houseDom, { st := .owned, owner := 0 })], grps := [(0, x)], pwr := { active := [(4, 0)] }, pins := [(0, { oe := true }), (1, c), (2, { oe := true })]
    regs := { live := [(A.GRP_CFG 0, fput (fput 0 F.GRP_CFG_EN 1) F.GRP_CFG_HS 0), (A.GRP_MEM 0, fput (fput (fput (fput 0 ⟨7, 1⟩ 1) ⟨0, 6⟩ 1) ⟨15, 1⟩ 1) ⟨8, 6⟩ 2), (A.PCH_MODE 0, 6#32), (A.PCH_MODE 1, 6#32),
      (A.PCH_PWMW 1, 0#32), (A.GRP_HOLDP 0, 50000#32), (A.PCH_GHOLD 1, fput 0 F.PCH_GHOLD_HOLD_DUTY (2 ^ 23))] } }

/-- A demand that begins alone, while another pulls in, and where a member of a lower number has none at that instant; one that ends pulling
in, waiting and holding; a member that chops; none to begin, to end, to hold or to chop. -/
theorem witness_groups : hsPin (wgrp {} {}).live 0 = 0 ∧ (0 : Nat) ≠ 64 * (0 / 16) + 1 ∧
    (∀ c : PinCh, c = { q := [⟨100, true, true, none, 0⟩], oe := true } → ∀ x : Grp, x = {} → Awake (ws (wgrp x c)) ∧ (wgrp x c).pcOf (64 * (0 / 16) + 1) = c ∧ (wgrp x c).grpOf 0 = x ∧ c.q = ⟨100, true, true, none, 0⟩ :: [] ∧
      ((wgrp x c).groupOf 0 1).isSome ∧ (wgrp x c).safeHeld 1 = false ∧ c.inSafe = false ∧ ((wgrp x c).pcOf 0).inSafe = false ∧ x.demands = [] ∧ x.demands.any (fun m => m.k == 1) = false ∧
      (∀ e' ∈ ([] : List EdgeEnt).head?, e'.arr = false ∨ e'.level = true) ∧ ∀ o ∈ grpMembers (wgrp x c).live 0, o.2 % 64 < 1 → ((wgrp x c).pcOf o.2).q.head? = none) ∧
    (∀ x : Grp, x = { demands := [⟨2, 50, .pulling, 50⟩] } → x.demands = [⟨2, 50, .pulling, 50⟩] ∧ 2 ≠ 1 ∧ 50 < 100) ∧
    (∀ c : PinCh, c = { q := [⟨100, false, true, none, 0⟩], oe := true } → ∀ x : Grp, x = { demands := [⟨1, 50, .pulling, 50⟩] } → c.q = ⟨100, false, true, none, 0⟩ :: [] ∧ x.demands = [⟨1, 50, .pulling, 50⟩] ∧
      x.demands.find? (fun y => y.k == 1 && y.st == .pulling) = some ⟨1, 50, .pulling, 50⟩ ∧ ∀ o ∈ grpMembers (wgrp x c).live 0, o.2 ≠ 1 → ((wgrp x c).pcOf o.2).q.head? = none) ∧
    (∀ m : Demand, m = ⟨1, 50, .waiting, 50⟩ → m.st = .waiting ∧ m.st ≠ .pulling ∧ m.st ≠ .holding) ∧
    (∀ x : Grp, x = { demands := [⟨1, 50, .holding, 50⟩] } → ∀ c : PinCh, c = { oe := true } → x.demands.find? (fun y => y.k == 1 && y.st == .holding) = some ⟨1, 50, .holding, 50⟩ ∧ c.inSafe = false ∧ c.safePend = none ∧ c.reqs = [] ∧
      ¬ leads (wgrp x c) 1 ∧ c.q.head? = none ∧
      ∀ on, on = (wgrp x c).lv (A.PCH_GHOLD 1) F.PCH_GHOLD_HOLD_DUTY * ((wgrp x c).lv (A.GRP_HOLDP 0) F.GRP_HOLDP_HOLD_P * nsTU) / 2 ^ 24 → (wgrp x c).lv (A.PCH_PWMW 1) F.PCH_PWMW_MINPW * 4096 ≤ on ∧
        on + (wgrp x c).lv (A.PCH_PWMW 1) F.PCH_PWMW_MINPW * 4096 ≤ (wgrp x c).lv (A.GRP_HOLDP 0) F.GRP_HOLDP_HOLD_P * nsTU) ∧
    ({ inSafe := true } : PinCh).inSafe = true := by
  refine ⟨by decide, by decide, ?_, ?_, ?_, ?_, ?_, rfl⟩ <;> rintro _ rfl
  · rintro _ rfl; decide
  · decide
  · rintro _ rfl; decide
  · decide
  · rintro _ rfl; exact ⟨by decide, by decide, by decide, by decide, by decide, by decide, by rintro _ rfl; decide⟩

/-- Angle unit 0 that runs, tracking lines on pins 0 and 1, index enabled. -/
def wau (x : AU) : Dev :=
  { own := [(houseDom, { st := .owned, owner := 0 })], au := [(0, x)], pwr := { active := [(6, 0), (4, 0)] }, pins := [(0, { words := wmode 3, oe := true })]
    regs := { live := [(A.AU_CFG 0, fput (fput (fput 0 F.AU_CFG_EN 1) F.AU_CFG_PIN_B 1) F.AU_CFG_Z_EN 1), (A.AU_CHK 0, 0#32), (A.AU_EXP 0, fput 0 F.AU_EXP_FLOW_EN 1), (A.PCH_MODE 0, 3#32)] } }

/-- An edge of line A alone, in either direction; one too close to the other line's; a stamp lost; a stamp that changes nothing; a unit that is off
or does not run. -/
theorem witness_encoder :
    (∀ x : AU, x = { st := .sync, edges := [{ c := 0, t := 50 }], lastB := some 0, inq := [(0, [⟨10 ^ 8, true, 0, false⟩])] } → Awake (ws (wau x)) ∧ (wau x).auOf 0 = x ∧ Tab.get x.inq [] 0 = ⟨10 ^ 8, true, 0, false⟩ :: [] ∧
      Tab.get x.inq [] 1 = [] ∧ x.ovr = none ∧ x.st ≠ .off ∧ (wau x).auRuns 0 = true ∧ (x.lvA == true) = false ∧ (wau x).live.f (A.AU_CHK 0) F.AU_CHK_CHK_GAP = 0 ∧
      (∀ o, x.lastB = some o → o + pinSpacing 0 ≤ 10 ^ 8 ∨ 10 ^ 8 + pinSpacing 0 ≤ o) ∧ ¬ (x.st = .seek ∧ x.setc.isSome) ∧ x.suspect = none ∧
      ((quadIdx true false + 4 - quadIdx x.lvA x.lvB) % 4 = 1) ∧ ¬ ((quadIdx false true + 4 - quadIdx x.lvA x.lvB) % 4 = 1) ∧ (wau x).live.b (A.AU_CFG 0) F.AU_CFG_REV = false) ∧
    (∀ x : AU, x = { st := .sync, lastB := some 100, inq := [(0, [⟨101, true, 0, false⟩])] } → (∃ o, x.lastB = some o ∧ 101 < o + pinSpacing 0 ∧ o < 101 + pinSpacing 0) ∧ Tab.get x.inq [] 0 = ⟨101, true, 0, false⟩ :: []) ∧
    (∀ x : AU, x = { st := .seek, ovr := some 90, inq := [(1, [⟨100, false, 0, false⟩])] } → x.ovr = some 90 ∧ x.st ≠ .off ∧ (x.lvB == false) = true) ∧
    AU.st {} = .off ∧ wd.auRuns 0 = false := by
  refine ⟨?_, ?_, ?_, by decide⟩ <;> rintro _ rfl
  · exact ⟨by decide, by decide, by decide, by decide, by decide, by decide, by decide, by decide, by decide, by rintro _ ⟨⟩; decide, by decide⟩
  · exact ⟨⟨100, rfl, by decide⟩, by decide⟩
  · decide

/-- The index of a unit that seeks, of one whose count agrees and of one whose count does not; an index that is not used, or comes at the other
level; a unit without edges, one with an edge and one with a suspect edge. -/
theorem witness_index :
    (∀ x : AU, x = { st := .seek, inq := [(2, [⟨100, true, 0, false⟩])] } → Tab.get x.inq [] 2 = ⟨100, true, 0, false⟩ :: [] ∧ x.ovr = none ∧ true = !x.neg ∧ (x.lvZ == true) = false ∧ (wau x).live.b (A.AU_CFG 0) F.AU_CFG_Z_EN = true ∧
      (wau x).encSupplied 0 = true ∧ x.edges.head? = none ∧ x.suspect = none ∧ x.stall = false) ∧
    (∀ x : AU, x = { st := .sync, c := 8 } → ∀ w, w = (wau x).live → x.st = .sync ∧ ((x.c - (w.f (A.AU_ZCOUNT 0) F.AU_ZCOUNT_ZCOUNT : Nat)) % (auC w 0 : Int)).toNat = 0 ∧ w.f (A.AU_CHK 0) F.AU_CHK_ZTOL = 0) ∧
    (∀ x : AU, x = { st := .sync, c := 3, edges := [{ c := 3, t := 7 }], suspect := some { c := 4, t := 9 } } → ∀ w, w = (wau x).live →
      w.f (A.AU_CHK 0) F.AU_CHK_ZTOL < min ((x.c - (w.f (A.AU_ZCOUNT 0) F.AU_ZCOUNT_ZCOUNT : Nat)) % (auC w 0 : Int)).toNat (auC w 0 - ((x.c - (w.f (A.AU_ZCOUNT 0) F.AU_ZCOUNT_ZCOUNT : Nat)) % (auC w 0 : Int)).toNat)) ∧
    wd.live.b (A.AU_CFG 0) F.AU_CFG_Z_EN = false ∧ true = AU.neg { neg := true } := by
  refine ⟨?_, ?_, ?_, by decide⟩ <;> rintro _ rfl
  · decide
  · rintro _ rfl; decide
  · rintro _ rfl; decide

/-- An entry due and none; a queue with room, with none and one entry of no direction; a unit that does not track; an exposure to capture, one that
waits for its packet and none of either. -/
theorem witness_angle :
    (∀ x : AU, x = { st := .seek, outs := [(0, [⟨5, 1, true, false, false, some 100, false, false⟩])] } → Awake (ws (wau x)) ∧ (wau x).auOf 0 = x ∧ x.out 0 = [⟨5, 1, true, false, false, some 100, false, false⟩] ∧ (wau x).lv (A.AU_OUT 0 0) F.AU_OUT_PIN = 0 ∧
      ((wau x).pcOf 0).mode = 3 ∧ true ≠ ((wau x).pcOf 0).wlevel ∧ pinHeld (wau x) 0 ∧ x.out 1 = [] ∧ Reaches 0 (A.AU_Q2 0 0) (ws (wau x)) ∧ Reaches 0 (A.AU_QSTAT 0 0) (ws (wau x)) ∧ Reaches 0 (A.AU_SETC1 0) (ws (wau x)) ∧
      Reaches 0 (A.AU_CTL 0) (ws (wau x)) ∧ (x.out 0).length < 32 ∧ fget 2#32 F.AU_Q2_DIR ≠ 0 ∧ fget 0#32 F.AU_Q2_DIR = 0 ∧ x.st ≠ .sync ∧ (wau x).auRuns 0 = true ∧ (wau x).expoNext 0 (wau x).now = some (0, 0) ∧ x.expo = none) ∧
    (∀ x : AU, x = { outs := [(0, List.replicate 32 ⟨5, 1, true, false, false, none, false, false⟩)] } → 32 ≤ (x.out 0).length ∧ ∀ e ∈ x.out 0, e.tp = none) ∧
    wd.auRuns 0 = false ∧ AU.st { st := .sync } = .sync ∧ AU.expo { expo := some (3, 10 ^ 9, false, []) } = some (3, 10 ^ 9, false, []) := by
  refine ⟨?_, ?_, by decide⟩ <;> rintro _ rfl
  · decide +kernel
  · decide

/-- A microword of an operation with its FN, OFS, IMM, registers and SETF. -/
def wmic (op fn ofs imm dst sra srb setf : Nat) : Micro :=
  BitVec.ofNat 128 (op * 2 ^ 35 + dst * 2 ^ 41 + sra * 2 ^ 46 + srb * 2 ^ 51 + fn * 2 ^ 57 + setf * 2 ^ 61 + imm * 2 ^ 64 + ofs * 2 ^ 96 + 1)

/-- An engine in a dispatch of the house, before a microword at address 0; X1 to X3 hold values. -/
def we (w : Micro) : Eng :=
  { st := .run, slice := 100, sliceLeft := 100, dom := houseDom, lastDom := houseDom, cstore := [(0, w)], x := [(1, 0x1000#64), (2, 7#64), (3, 0x2000#64)], back := .run, busyAt := some 0 }

/-- Tile `T`'s engine is `e`. -/
def weng (T : Nat) (e : Eng) : Dev := { own := [(houseDom, { st := .owned, owner := 0 })], eng := [(T, e)] }

/-- An ADD of X1 and X2 to X4 with flags runs on such an engine, and so does every other operation on registers. -/
theorem witness_words : (∀ op ∈ [0, 1, 2, 3, 4, 5, 6, 7, 8, 9, 0xA, 0xB, 0xC, 0xD, 0xE, 0xF, 0x10, 0x11], Awake (ws (weng 0 (we (wmic op 0 0 0 4 1 2 1)))) ∧ ∀ e, e = (weng 0 (we (wmic op 0 0 0 4 1 2 1))).engOf 0 → e.between = true ∧
      e.sliceDue = false ∧ e.handlerDue = false ∧ e.resetting = false ∧ (weng 0 (we (wmic op 0 0 0 4 1 2 1))).engGated 0 = false ∧ mOp e.word = op ∧ illegalWord (decide (256 ≤ 0)) (e.st == .trap) e.word = false ∧
      (weng 0 (we (wmic op 0 0 0 4 1 2 1))).breakAt 0 e e.word = false) ∧
    aluWord 0 (we (wmic 2 0 0 0 4 1 2 1)) (wmic 2 0 0 0 4 1 2 1) 0 (.add 0) 2 (some 0x1007#64)
      (((we (wmic 2 0 0 0 4 1 2 1)).wr 4 0x1007#64).flags4 false false false false) ∧
    aluWord 0 (we (wmic 0xE 0 0 0 4 1 2 1)) (wmic 0xE 0 0 0 4 1 2 1) 0 (.ffs 0) 0xE (some 12#64) (((we (wmic 0xE 0 0 0 4 1 2 1)).wr 4 12#64).flags4 false false false false) := by
  refine ⟨?_, ?_, ?_⟩
  · intro op h
    refine ⟨rfl, ?_⟩
    rintro _ rfl
    revert op
    decide
  · rintro _ _ rfl rfl k hk zn hz
    refine .inr (.inr (.inl ⟨rfl, rfl, by decide, ?_⟩))
    have hs : mSetf (wmic 2 0 0 0 4 1 2 1) = true := by decide
    rw [if_pos hs, hk]
    decide
  · rintro _ _ rfl rfl k hk zn hz
    have hf : ∀ j < 12, ((we (wmic 0xE 0 0 0 4 1 2 1)).opA (wmic 0xE 0 0 0 4 1 2 1)).getLsbD j = false := by decide
    iterate 14 apply Or.inr
    refine .inl ⟨12, rfl, rfl, .inl ⟨by decide, by decide, hf⟩, rfl, ?_⟩
    rw [hk]; decide

/-- The engine of a device runs the operation of the word it stands at, as a test. -/
def runsNow (d : Dev) (T op : Nat) : Bool :=
  (d.engOf T).between && !(d.engOf T).sliceDue && !(d.engOf T).handlerDue && !(d.engOf T).resetting && !(d.engGated T) && mOp (d.engOf T).word == op &&
    !(illegalWord (decide (256 ≤ T)) ((d.engOf T).st == .trap) (d.engOf T).word) && !(d.breakAt T (d.engOf T) (d.engOf T).word)

theorem runsWord_of_runsNow {d : Dev} {T op : Nat} (h : runsNow d T op = true) : runsWord d T op := by
  rintro _ rfl
  simpa [runsNow, and_assoc] using h

/-- Every operation that steers runs on an engine in a dispatch, RETT in a handler; with room on the stack, with none, at an empty one; with no transfer and with one; for instants before and after now. -/
theorem witness_wordsSteer : (∀ op ∈ [0x18, 0x19, 0x1A, 0x1B, 0x1C, 0x1D, 0x1E, 0x20], runsWord (weng 0 (we (wmic op 0 0 0 4 1 2 0))) 0 op) ∧ runsWord (weng 0 (we (wmic 0x21 0 0 5 4 1 2 0))) 0 0x21 ∧ runsWord (weng 0 (we (wmic 0x21 0 0 9 4 1 2 0))) 0 0x21 ∧
    runsWord (weng 0 { we (wmic 0x1F 0 0 0 4 1 2 0) with st := .trap }) 0 0x1F ∧
    (∀ e, e = we (wmic 0x18 0 0 0 4 1 2 0) → e.stack.length < 8 ∧ e.stack = [] ∧ e.st = .run ∧ e.inInit = false ∧ e.tags = []) ∧
    runsWord (weng 0 { we (wmic 0x18 0 0 0 4 1 2 0) with stack := [1, 2, 3, 4, 5, 6, 7, 8] }) 0 0x18 ∧ 8 ≤ [1, 2, 3, 4, 5, 6, 7, 8].length ∧
    runsWord (weng 0 { we (wmic 0x1B 0 0 0 4 1 2 0) with tags := [(0, ⟨false, 0, 0, 8⟩)] }) 0 0x1B ∧ runsWord (weng 0 { we (wmic 0x1D 0 0 1 4 1 2 0) with tags := [(0, ⟨false, 0, 0, 8⟩)] }) 0 0x1D ∧
    ([(0, (⟨false, 0, 0, 8⟩ : Xfer))].any (fun x => (mImm (wmic 0x1D 0 0 1 4 1 2 0) % 256).testBit x.1) = true) ∧ runsWord (weng 0 { we (wmic 0x1B 0 0 0 4 1 2 0) with inInit := true }) 0 0x1B ∧
    (∀ d, d = weng 0 (we (wmic 0x1C 0 0 0 4 1 2 0)) → ∀ t, t = unshort d.now ((d.engOf 0).opA (d.engOf 0).word).toNat → d.now < t ∧ (t ≤ d.now + d.lv (A.TENG_CFG 0) F.TENG_CFG_WAIT_MAX * nsTU ∨ d.now + d.lv (A.TENG_CFG 0) F.TENG_CFG_WAIT_MAX * nsTU < t)) ∧
    (∀ d, d = weng 0 (we (wmic 0x1C 0 0 0 4 0 2 0)) → unshort d.now ((d.engOf 0).opA (d.engOf 0).word).toNat ≤ d.now) := by
  have H : ∀ op ∈ [0x18, 0x19, 0x1A, 0x1B, 0x1C, 0x1D, 0x1E, 0x20], runsNow (weng 0 (we (wmic op 0 0 0 4 1 2 0))) 0 op = true := by decide
  refine ⟨fun op h => runsWord_of_runsNow (H op h), ?_, ?_, ?_, ?_, ?_, by decide, ?_, ?_, by decide, ?_, ?_, ?_⟩
  · exact runsWord_of_runsNow (by decide)
  · exact runsWord_of_runsNow (by decide)
  · exact runsWord_of_runsNow (by decide)
  · rintro _ rfl; decide
  · exact runsWord_of_runsNow (by decide)
  · exact runsWord_of_runsNow (by decide)
  · exact runsWord_of_runsNow (by decide)
  · exact runsWord_of_runsNow (by decide)
  · rintro _ rfl _ rfl; decide
  · rintro _ rfl; decide

theorem witness_wordsReachMemory : (∀ op ∈ [0x24, 0x25, 0x26, 0x27, 0x28, 0x2C, 0x2D], runsWord (weng 0 (we (wmic op 3 0 0 4 1 3 0))) 0 op) ∧
    (∀ d, d = weng 0 (we (wmic 0x24 3 0 0 4 1 3 0)) → ∀ e, e = d.engOf 0 → e.panAddrA e.word % 8 = 0 ∧ (e.cb + mOfs e.word) % 8 = 0 ∧ d.panDenied 0 e (e.panAddrA e.word) 8 false false = false ∧ d.panDenied 0 e (e.panAddrA e.word) 8 true false = false ∧
      d.panDenied 0 { e with cbOwn := false } (e.cb + mOfs e.word) 8 true true = false ∧ Tab.get? e.tags 3 = none ∧ d.storeHeld houseDom ((e.opA (wmic 0x2C 3 0 0 4 1 3 0)).toNat : Int) 1 = true ∧
      d.panDenied 0 e (e.rd (mSrb (wmic 0x2C 3 0 0 4 1 3 0))).toNat 1 true false = false ∧ e.st = .run ∧ e.inInit = false) ∧
    (∀ d, d = weng 0 (we (wmic 0x24 3 1 0 4 1 3 0)) → ∀ e, e = d.engOf 0 → e.panAddrA e.word % 8 ≠ 0) ∧
    (∀ d, d = weng 0 { we (wmic 0x24 3 0 0 4 1 3 0) with x := [(1, 0x3FE00#64)] } → ∀ e, e = d.engOf 0 → e.panAddrA e.word % 8 = 0 ∧ d.panDenied 0 e (e.panAddrA e.word) 8 false false = true) ∧
    (∀ d, d = weng 0 { we (wmic 0x2C 3 0 0 4 1 3 0) with x := [(1, 0x20000000#64)] } → ∀ e, e = d.engOf 0 → d.storeHeld e.dom ((e.opA e.word).toNat : Int) 1 = false) ∧
    Tab.get? ([(3, ⟨true, 0x1000, 0x2000, 8⟩)] : Tab Xfer) 3 = some ⟨true, 0x1000, 0x2000, 8⟩ := by
  have H : ∀ op ∈ [0x24, 0x25, 0x26, 0x27, 0x28, 0x2C, 0x2D], runsNow (weng 0 (we (wmic op 3 0 0 4 1 3 0))) 0 op = true := by decide
  refine ⟨fun op h => runsWord_of_runsNow (H op h), ?_, ?_, ?_, ?_, by decide⟩ <;> rintro _ rfl _ rfl <;> decide

theorem witness_wordsReachOut : (∀ op ∈ [0x2E, 0x2F, 0x30, 0x32, 0x34], runsWord (weng 0 (we (wmic op 0 0 0 4 1 2 0))) 0 op) ∧ runsWord (weng 256 (we (wmic 0x31 0 0 0 4 1 2 0))) 256 0x31 ∧
    (weng 256 (we (wmic 0x31 0 0 0 4 1 2 0))).shadowed 0 = false ∧ ({ weng 256 (we (wmic 0x31 0 0 0 4 1 2 0)) with regs := { live := [(A.ZYN_PROLE 0, 1#32)] } } : Dev).shadowed 0 = true ∧
    auHolder (weng 0 (we 0)).live 0 ≠ 3 ∧
    (∀ r, r = A.TENG_DBGSEL 0 → ∀ e : Eng, e = we (wmic 0x33 0 0 r 4 1 2 0) → runsWord (weng 0 e) 0 0x33 ∧ mImm e.word = r ∧ (weng 0 e).immAdmits e.dom r = true ∧ (weng 0 e).downAt r = false ∧
      ∀ d' ops, (weng 0 e).domWrite e.dom (engineReader 0) r (BitVec.ofNat 32 (e.rd (mSrb e.word)).toNat) {} = (d', ops) → d'.pwr.inReset = false ∧ d'.now = (weng 0 e).now ∧ d'.engOf 0 = (weng 0 { e with began := (weng 0 e).now }).engOf 0) ∧
    (weng 0 (we 0)).immAdmits houseDom 0 = false ∧ (weng 0 (we 0)).immAdmits houseDom (A.FCH_CTL 128) = true ∧ (weng 0 (we 0)).downAt (A.FCH_CTL 128) = true ∧
    poolEn (weng 0 (we 0)).live 0 0 = false ∧ (we (wmic 0x30 0 0 0 4 1 2 0)).opB (wmic 0x30 0 0 0 4 1 2 0) = 7#64 ∧ (0x40 ≤ (0x7F : Nat) % 256) ∧ auHolder (weng 0 (we 0)).live 0 = houseDom := by
  have H : ∀ op ∈ [0x2E, 0x2F, 0x30, 0x32, 0x34], runsNow (weng 0 (we (wmic op 0 0 0 4 1 2 0))) 0 op = true := by decide
  refine ⟨fun op h => runsWord_of_runsNow (H op h), runsWord_of_runsNow (by decide), by decide, by decide, by decide, ?_, by decide⟩
  rintro _ rfl _ rfl
  refine ⟨runsWord_of_runsNow (by decide), by decide, by decide, by decide, ?_⟩
  intro d' ops h
  have h1 := congrArg (fun x => x.1.pwr.inReset) h
  have h2 := congrArg (fun x => x.1.now) h
  have h3 := congrArg (fun x => x.1.engOf 0) h
  exact ⟨h1.symm.trans (by decide), h2.symm.trans (by decide), h3.symm.trans (by decide)⟩

/-- An image of one word for a flow tile, unsealed, at address 0 of the media store. -/
def wimg : Mem := { store := [(0, 0x4D), (1, 0x4E), (2, 0x54), (3, 0x4C), (4, 1), (5, 1), (7, 1), (0x10, 1), (0x16, 4), (0x2C, 16), (0x2D0, 0xB3), (0x2D1, 0xF4), (0x2D2, 0xD4), (0x2D3, 0xE2)] }

/-- An entry of the house, and one of room 0. -/
def went (dom : Nat) : InEnt := ⟨⟨0x3100, 0, 0⟩, dom, 0, 0xFF, false⟩

/-- An idle engine with an entry, its dispatch table valid at index 0. -/
def wideng (dom : Nat) : Eng := { st := .idle, inbox := [went dom], img := { disp := [(0, 2 ^ 15)] } }

theorem witness_dispatches :
    (∀ e, e = wideng houseDom → ∀ d, d = weng 0 e → e.st = .idle ∧ e.resetting = false ∧ d.engGated 0 = false ∧ e.tags = [] ∧ e.inbox = went houseDom :: [] ∧ Tab.get e.img.disp 0 (went houseDom).idx / 2 ^ 15 ≠ 0 ∧
      (houseDom == houseDom || (roomShare d.live 0 houseDom).isSome) = true) ∧
    (∀ d : Dev, d = { weng 0 (wideng 3) with regs := { live := [(A.HRAS_SHA 0 0, fput (fput 0 F.HRAS_SHA_ROOM 3) F.HRAS_SHA_EN 1)] }, budget := [(budKey 0 3, 5)] } → ((3 : Nat) == houseDom || (roomShare d.live 0 3).isSome) = true ∧ 0 < d.budgetLeft 0 3) ∧
    (∀ d : Dev, d = { weng 0 (wideng 3) with regs := { live := [(A.HRAS_SHA 0 0, fput (fput 0 F.HRAS_SHA_ROOM 3) F.HRAS_SHA_EN 1)] } } → ((3 : Nat) == houseDom || (roomShare d.live 0 3).isSome) = true ∧ d.budgetLeft 0 3 ≤ 0 ∧ (went 3).held = false) ∧
    ((3 : Nat) == houseDom || (roomShare (weng 0 (wideng 3)).live 0 3).isSome) = false ∧
    (∀ e : Eng, e = { we 0 with st := .wait, wait := some (.untilT 1000) } → Awake (ws (weng 0 e)) ∧ e.st ≠ .halted ∧ e.resetting = false ∧ (weng 0 e).engGated 0 = false ∧ e.wait = some (.untilT 1000) ∧ e.between = false) ∧
    (∀ e : Eng, e = { we 0 with wait := some (.tags 1) } → e.wait = some (.tags 1) ∧ ∀ x ∈ e.tags, (1 : Nat).testBit x.1 = false) ∧
    (∀ e : Eng, e = { we 0 with wait := some .finish } → e.wait = some .finish ∧ e.tags = [] ∧ e.inInit = false) ∧
    (∀ e : Eng, e = { we 0 with st := .halted, step := true, wait := some (.untilT 1000), haltReq := true } → e.st = .halted ∧ e.step = true ∧ e.haltReq = true ∧ (∃ t, e.wait = some (.untilT t)) ∧ e.resetting = false) ∧
    (∀ e : Eng, e = { we 0 with sliceLeft := 0, charged := 100 } → e.between = true ∧ e.inInit = false ∧ e.sliceDue = true ∧ e.charged ≠ 0) ∧
    (∀ e : Eng, e = we 0 → e.between = true ∧ e.sliceDue = false ∧ e.handlerDue = false) ∧
    (∀ e : Eng, e = { we 0 with st := .trap, hwords := 256 } → e.between = true ∧ e.handlerDue = true) := by
  refine ⟨?_, ?_, ?_, by decide, ?_, ?_, ?_, ?_, ?_, ?_, ?_⟩ <;> rintro _ rfl
  case refine_7 => exact ⟨rfl, rfl, rfl, ⟨_, rfl⟩, rfl⟩
  · rintro _ rfl; decide
  all_goals decide

theorem witness_enginesControlled :
    (∀ e, e = we 0 → ∀ d, d = weng 0 e → Awake (ws d) ∧ Reaches 0 (A.TENG_DBG 0) (ws d) ∧ Reaches 0 (A.TENG_DBGV1 0) (ws d) ∧ Reaches 0 (A.TENG_LDCMD 0) (ws d) ∧ e.st = .run ∧ e.st ≠ .halted ∧ e.wait = none ∧ d.flashBoot = false ∧ d.loadQ = [] ∧
      e.st ≠ .loading ∧ (∀ c < 32, (d.dmaOf c).move.any (·.meets 0) = false) ∧ (∀ c < 16, ¬ ((d.cvuOf c).st = .scanning ∧ (d.cvuOf c).space ≠ 0 ∧ (d.cvuOf c).tile = 0))) ∧
    (we 0).wait ≠ some .finish ∧ ({ we 0 with wait := some .finish } : Eng).wait = some .finish ∧ Eng.st {} = .offline ∧
    (∀ e : Eng, e = { we 0 with st := .halted } → e.st = .halted ∧ e.wait = none) ∧
    (∀ d : Dev, d = { wd with loadQ := [0], pwr := { active := [(2, 0)] } } → d.loadQ = 0 :: [] ∧ d.eng.any (fun y => y.2.ldBusy) = false ∧ (d.engOf 0).resetting = false ∧ (d.engOf 0).st = .offline ∧ d.activated 2 0 = true) ∧
    ({ wd with loadQ := [0] } : Dev).activated 2 0 = false ∧
    (∀ d : Dev, d = { weng 0 { st := .loading, ldBusy := true } with pwr := { steward := false } } → (d.engOf 0).st = .loading ∧ d.pwr.steward = false ∧ d.pwr.bootWait = false ∧ d.im (A.TENG_LDADDR 0) F.TENG_LDADDR_ADDR / 8 * 8 = 0 ∧
      wholeHolder d.live 0 = houseDom ∧ (d.storeHeld houseDom 0 0x2C0 && d.storeHeld houseDom 0 0x2D4) = true) ∧
    ({} : Dev).loadCheck 0 false [] true ≠ 0 ∧
    (∀ d : Dev, d = { wd with mig := [(0, 128, 0, 0)], fin := [(128, { held := true })], regs := { retiring := some [] } } → Tab.get? d.mig 0 = some (128, 0, 0) ∧ (Tab.get d.fin {} 128).held = true ∧ d.oldSettled 0 = true ∧ d.regs.retiring ≠ none) ∧
    Tab.get? wd.mig 0 = none := by
  refine ⟨?_, by decide, rfl, rfl, ?_, ?_, by decide, ?_, by decide, ?_, by decide⟩ <;> rintro _ rfl
  · rintro _ rfl; decide
  all_goals decide

theorem wimg_disp (i : Nat) (hi : i < 256) : imgDisp (wimg.bytes 0 0x2D4) i = 0 := by
  have h : ((wimg.bytes 0 0x2D4).drop 0x40).take 512 = List.replicate 512 0 := by decide +kernel
  have e : ((wimg.bytes 0 0x2D4).drop (0x40 + 2 * i)).take 2 = ((((wimg.bytes 0 0x2D4).drop 0x40).take 512).drop (2 * i)).take 2 := by
    rw [List.drop_take, List.drop_drop, List.take_take, Nat.min_eq_left (by omega)]
  rw [imgDisp, imgField, e, h, List.drop_replicate, List.take_replicate, Nat.min_eq_left (by omega)]
  rfl

theorem wimg_crc : crcOf 1 ((wimg.bytes 0 0x2D4).take 0x2D0) = 3805607091 := by
  have step : ∀ r xs ys, crcRun 1 r (xs ++ ys) = crcRun 1 (crcRun 1 r xs) ys := fun r xs ys => List.foldl_append ..
  have cut : ∀ n, (wimg.bytes 0 0x2D4).take (n + 90) = (wimg.bytes 0 0x2D4).take n ++ ((wimg.bytes 0 0x2D4).drop n).take 90 := fun n => List.take_add
  have h0 : crcRun 1 (crcInit 1) (((wimg.bytes 0 0x2D4).drop 0).take 90) = 1549683016 := by decide +kernel
  have h1 : crcRun 1 1549683016 (((wimg.bytes 0 0x2D4).drop 90).take 90) = 620662454 := by decide +kernel
  have h2 : crcRun 1 620662454 (((wimg.bytes 0 0x2D4).drop 180).take 90) = 1157890153 := by decide +kernel
  have h3 : crcRun 1 1157890153 (((wimg.bytes 0 0x2D4).drop 270).take 90) = 1742534960 := by decide +kernel
  have h4 : crcRun 1 1742534960 (((wimg.bytes 0 0x2D4).drop 360).take 90) = 3044039697 := by decide +kernel
  have h5 : crcRun 1 3044039697 (((wimg.bytes 0 0x2D4).drop 450).take 90) = 1692738507 := by decide +kernel
  have h6 : crcRun 1 1692738507 (((wimg.bytes 0 0x2D4).drop 540).take 90) = 2496484255 := by decide +kernel
  have h7 : crcRun 1 2496484255 (((wimg.bytes 0 0x2D4).drop 630).take 90) = 852546744 := by decide +kernel
  rw [crcOf, cut 630, step, cut 540, step, cut 450, step, cut 360, step, cut 270, step, cut 180, step, cut 90, step]
  rw [show (wimg.bytes 0 0x2D4).take 90 = ((wimg.bytes 0 0x2D4).drop 0).take 90 from rfl, h0, h1, h2, h3, h4, h5, h6, h7]
  decide +kernel

/-- The image passes every check, its check value among them. -/
theorem witness_image : imgLen (wimg.bytes 0 0x2C0) = 0x2D4 ∧ imgKind (wimg.bytes 0 0x2D4) ≠ 3 ∧ imgSealed (wimg.bytes 0 0x2D4) = false ∧ (weng 0 { st := .loading }).loadCheck 0 false (wimg.bytes 0 0x2D4) true = 0 := by
  have disp : (List.range 256).all (fun i => imgDisp (wimg.bytes 0 0x2D4) i / 2 ^ 13 % 4 == 0 && (imgDisp (wimg.bytes 0 0x2D4) i / 2 ^ 15 == 0 || decide (imgDisp (wimg.bytes 0 0x2D4) i % 2 ^ 13 < imgCount (wimg.bytes 0 0x2D4)))) = true := by
    rw [List.all_eq_true]; intro i hi; rw [wimg_disp i (List.mem_range.1 hi)]; rfl
  have k : imgKind (wimg.bytes 0 0x2D4) = 1 := by decide +kernel
  have fmt : imgFormatOk (wimg.bytes 0 0x2D4) = true := by
    unfold imgFormatOk
    simp only [k, show ((1 : Nat) = 3) = False from by simp, if_false, disp]
    decide +kernel
  have sl : imgSealed (wimg.bytes 0 0x2D4) = false := by decide +kernel
  have len : imgBodyLen (wimg.bytes 0 0x2D4) = 16 := by decide +kernel
  have crc : imgField (wimg.bytes 0 0x2D4) 0x2D0 4 = 3805607091 := by decide +kernel
  have kt : imgTileKind (wimg.bytes 0 0x2D4) = 1 := by decide +kernel
  have f7 : imgField (wimg.bytes 0 0x2D4) 7 1 = 1 := by decide +kernel
  have ps : (weng 0 { st := .loading }).patchSealed = false := by decide
  refine ⟨by decide +kernel, by simp [k], sl, ?_⟩
  simp [Dev.loadCheck, k, fmt, sl, len, kt, f7, ps, imgRecordsOk, imgHeader, crc, wimg_crc]

/-- A device with one pulse in the fabric. -/
def wfab (p : Pulse) (dst : Dest) (l : Tab Word) (e : Eng) : Dev := { weng 0 e with fabric := [⟨p, dst, 0, none, false⟩], regs := { live := l } }

theorem witness_tileControllers :
    (∀ p : Pulse, p = ⟨0, 5, 0⟩ → ∀ e, e = ({ st := .idle } : Eng) → ∀ d, d = wfab p .ctl [(A.TIRQ_CH 0 0, 0#32)] e → Awake (ws d) ∧ d.pwr.st ≠ .sleep ∧ d.fabric = ⟨p, .ctl, 0, none, false⟩ :: [] ∧ idTile p.id = some 0 ∧ tgtOf (d.viewAt p.stamp) 0 p % 2 = 0 ∧
      d.engInactive 0 = false ∧ (!d.engGated 0 && d.inboxRoom 0 (inboxDom d p)) = true) ∧
    (∀ p : Pulse, p = ⟨0, 5, 0⟩ → ∀ l, l = [(A.TIRQ_CH 0 0, fput 0 F.TIRQ_CH_TGT 1)] → tgtOf ((wfab p .ctl l {}).viewAt p.stamp) 0 p = 1 ∧ (wfab p .ctl l {}).engInactive 0 = true ∧ ((wfab p .ctl l { st := .idle }).engInactive 0 = false) ∧
      (wfab p .ctl l {}).engOf 0 = {} ∧ Eng.dropEpoch {} ≠ 0 + 1 ∧ ∀ x ∈ ([] : List FabEntry), Dest.forTile 0 x = false) ∧
    (∀ p : Pulse, p = ⟨0, 5, 0⟩ → ∀ l, l = [(A.TIRQ_CH 0 0, fput 0 F.TIRQ_CH_TGT 3)] → tgtOf ((wfab p .ctl l {}).viewAt p.stamp) 0 p = 3) ∧
    (∀ p : Pulse, p = ⟨0x3100, 5, 0⟩ → ∀ d, d = wfab p (.sub 0) [] { st := .idle } → d.fabric = ⟨p, .sub 0, 0, none, false⟩ :: [] ∧ d.engInactive 0 = false ∧ (!d.engGated 0 && d.inboxRoom 0 (inboxDom d p)) = true) ∧
    (∀ d : Dev, d = { weng 0 { st := .idle, inbox := List.replicate 128 (went houseDom) } with own := [] } → d.inboxRoom 0 houseDom = false) ∧
    (∀ x ∈ wd.fabric, Dest.forTile 0 x = false) := by
  refine ⟨?_, ?_, ?_, ?_, ?_, by decide⟩
  · rintro _ rfl _ rfl _ rfl; decide
  · rintro _ rfl _ rfl; decide
  · rintro _ rfl _ rfl; decide
  · rintro _ rfl _ rfl; decide
  · rintro _ rfl; decide +kernel

/-- Function 0 enabled, the house's word and the privileged one for function 0; a masking window of 5 µs. -/
def wirq : Dev :=
  { own := [(houseDom, { st := .owned, owner := 0 })]
    regs := { live := [(A.HIRQ_DOM 256, fput (fput 0 F.QIRQ_DOM_FMASK 1) F.QIRQ_DOM_MASK_W 5), (A.QIRQ_DOM 0 256, fput 0 F.QIRQ_DOM_FMASK 1), (A.HIRQ_PRIV, fput 0 F.HIRQ_PRIV_PMASK 1), (A.HIRQ_WAKE 0, fput (fput 0 F.HIRQ_WAKE_EN 1) F.HIRQ_WAKE_ID 0x3100)]
              imm := [(A.HPCI_FUNC 0, fput (fput 0 F.HPCI_FUNC_BME 1) F.HPCI_FUNC_MSIX_EN 1)] } }

theorem witness_controllers : Awake (ws wirq) ∧ wirq.pwr.st ≠ .sleep ∧ wirq.enabledOf 1 = [0] ∧ wirq.enabledOf 2 = [] ∧ nextIs wirq 4 256 0 ∧ nextIs wirq 0 256 0 ∧ wirq.enabledOf (fget (irqWord wirq 4 3) F.QIRQ_DOM_FMASK) = [] ∧
    (∀ p : Pulse, p = ⟨0x2102, 5, 0⟩ → idQuad p.id = 0 ∧ 0x2100 ≤ idLocal p.id ∧ idLocal p.id < 0x2300 ∧ (wirq.irqOf 0 256 (quadClass p.id)).st = .idle) ∧
    (∀ p : Pulse, p = ⟨0x3100, 5, 0⟩ → 0x3000 ≤ idLocal p.id ∧ privileged p.id = false ∧ pulseDom wirq p none = 256) ∧ (∀ p : Pulse, p = ⟨0x3400, 5, 0⟩ → 0x3000 ≤ idLocal p.id ∧ privileged p.id = true) ∧
    wirq.enabledOf (wirq.lv A.HIRQ_PRIV F.HIRQ_PRIV_PMASK) = [0] ∧ wd.enabledOf (wd.lv A.HIRQ_PRIV F.HIRQ_PRIV_PMASK) = [] ∧
    (∀ d : Dev, d = { wirq with pwr := { st := .sleep }, fabric := [⟨⟨0x3100, 5, 0⟩, .ctl, 0, none, false⟩] } → d.pwr.st = .sleep ∧ d.wakeMatch 0x3100 = true ∧ d.fabric = ⟨⟨0x3100, 5, 0⟩, .ctl, 0, none, false⟩ :: []) ∧
    (∀ d : Dev, d = { wirq with irq := [(irqKey 4 256 1, { st := .waiting })] } → d.irq = [(irqKey 4 256 1, { st := .waiting })] ∧ (d.irqOf 4 256 1).st = .waiting) ∧
    (∀ d : Dev, d = { wirq with irq := [(irqKey 4 256 1, { st := .holdPend, winEnd := 100 })] } → (d.irqOf 4 256 1).st = .holdPend) ∧
    (∀ d : Dev, d = { wirq with irq := [(irqKey 4 256 1, { st := .hold, winEnd := 100 })] } → (d.irqOf 4 256 1).st = .hold) ∧
    (∀ d : Dev, d = { wirq with msixTab := [(3, 0#32)], msixPend := [(0, 1)] } → fget (d.msixWord 0 (4 * (3 / 4) + 3)) ⟨0, 1⟩ = 0 ∧ Tab.get d.msixPend 0 (0 * 2048 + 3 / 4) = 1 ∧ 3 < 8192) ∧
    ¬ fget (wirq.msixWord 0 (4 * (8191 / 4) + 3)) ⟨0, 1⟩ = 0 ∧ Tab.get wirq.msixPend 0 5 ≠ 1 := by
  refine ⟨by decide, by decide, by decide, by decide, ?_, ?_, by decide, ?_, ?_, ?_, by decide, by decide, ?_, ?_, ?_, ?_, ?_, by decide, by decide⟩
  · rintro _ rfl; decide
  · rintro _ rfl; decide
  all_goals rintro _ rfl; decide

theorem witness_banks : Awake (ws wd) ∧ Reaches 0 (A.QMEM_BANK 0) (ws wd) ∧ ((wd.bankOf 0).pool.isNone && !(wd.pendingPool 0) && ((wd.bankOf 0).st == .held) && decide (fget (5#32 ||| 0x10000000#32) F.QMEM_BANK_TARGET ≤ 0x100)) = true ∧
    ¬ fget (0x1FF0000#32 ||| 0x10000000#32) F.QMEM_BANK_TARGET ≤ 0x100 ∧ (wd.bankOf 0).st ≠ .scrubbing ∧ (∀ x : Bank, x = { st := .scrubbing, target := 3 } → ({ wd with banks := [(0, x)] } : Dev).bankOf 0 = x ∧ x.st = .scrubbing) := by
  refine ⟨by decide, by decide, by decide, by decide, by decide, ?_⟩
  rintro _ rfl; decide

theorem witness_memoryTests : Reaches 0 (A.QMEM_MTCMD 0) (ws wd) ∧ (!(Tab.get wd.btest {} 0).running && ((wd.bankOf 0).holder == houseDom && (wd.bankOf 0).pool.isNone && (wd.bankOf 0).st == .held)) = true ∧
    (fget (0x400#32 ||| 0x400#32) F.QMEM_MTCMD_PRESERVE = 0 ∨ fget (0x400#32 ||| 0x400#32) F.QMEM_MTCMD_PRESERVE = 1) ∧ (Tab.get wd.btest {} 0).running = false ∧ (Tab.get ([(0, ⟨true, 3, false⟩)] : Tab MTest) {} 0).running = true ∧
    Reaches 0 (A.TPAN_MTCMD 0) (ws wd) ∧ (!(Tab.get wd.ptest {} 0).running && (wd.engOf 0).st == .offline) = true ∧ (Tab.get wd.ptest {} 0).running = false := by
  decide

theorem witness_pantryPort : (∀ d, d = weng 0 { st := .idle } → Awake (ws d) ∧ d.panDown 0 = false ∧ d.panQual 0 0 0 = true ∧ d.panQual 1 0 0 = false ∧ Reaches 0 (A.TPAN_PDATA1 0) (ws d) ∧ (1 : Nat) < 6 ∧ d.sq.refusedM.contains 1 = false) ∧
    wd.panDown 0 = true ∧ ({ refusedM := [1] } : Seq).refusedM.contains 1 = true := by
  refine ⟨?_, by decide, by decide⟩; rintro _ rfl; decide

/-- DMA channel 0 before the instruction at index 0 of the program at address 0. -/
def wdma (x : Dma) : Dev := { own := [(houseDom, { st := .owned, owner := 0 })], dma := [(0, x)] }

/-- A running channel of the house. -/
def wrunning : Dma := { st := .run, dom := houseDom }

/-- Programs of one instruction: a MOVE of four bytes, a LOOP, the three WAITs, a SIGNAL, an END, and an END that stores its check value. -/
def wprogs : List Mem := [{ store := [(0, 1), (2, 1), (4, 4), (9, 0x10), (17, 0x20)] }, { store := [(0, 2), (4, 3)] }, { store := [(0, 3)] }, { store := [(0, 0x13), (4, 1)] }, { store := [(0, 0x23), (4, 9)] },
  { store := [(0, 4)] }, { store := [(0, 5)] }, { store := [(0, 0x15), (8, 0x40)] }]

theorem witness_dmaPrograms : Awake (ws (wdma wrunning)) ∧ Reaches 0 (A.DMA_CMD 0) (ws (wdma wrunning)) ∧ wrunning.busy = true ∧ Dma.busy {} = false ∧ (wdma wrunning).dmaOf 0 = wrunning ∧
    wprogs.map (fun p => (dmaFetch p 0).op) = [1, 2, 3, 3, 3, 4, 5, 5] ∧ wprogs.map (fun p => (dmaFetch p 0).kind) = [0, 0, 0, 1, 2, 0, 0, 1] ∧ (∀ p ∈ wprogs, runsDma ⟨wdma wrunning, p, []⟩ 0 (dmaFetch p 0).op (dmaFetch p 0)) ∧
    (wdma wrunning).storeHeld houseDom (((wdma wrunning).dmaPc 0 : Nat) : Int) 32 = true ∧ (wdma wrunning).storeHeld 3 (((wdma wrunning).dmaPc 0 : Nat) : Int) 32 = false ∧ (dmaFetch {} 0).ok = false ∧
    (wdma wrunning).moveFault houseDom (dmaFetch (wprogs.headD {}) 0).move = 0 ∧ (wdma wrunning).moveFault 3 (dmaFetch (wprogs.headD {}) 0).move ≠ 0 ∧
    (∀ y mv, y = (wdma {}).dmaFresh 0 true → mv = (wdma {}).regMove 0 → (if mv.rowBytes = 0 then 1 else (wdma {}).moveFault y.dom mv) ≠ 0) ∧
    (∀ d : Dev, d = { wdma {} with regs := { imm := [(A.DMA_COUNT 0, 4#32), (A.DMA_DST0 0, 0x2000#32)] } } → ∀ y mv, y = d.dmaFresh 0 true → mv = d.regMove 0 → mv.rowBytes ≠ 0 ∧ d.moveFault y.dom mv = 0) ∧
    (∀ x : Dma, x = { wrunning with st := .wait, waitT := some 100 } → x.st = .wait ∧ x.waitT = some 100) ∧ (∀ x : Dma, x = { wrunning with st := .wait, waitId := some 3, waitTimeout := some 100 } → x.waitT = none ∧ x.waitTimeout = some 100) ∧
    (∀ d : Dev, d = { wdma { wrunning with st := .wait, waitId := some 3 } with fabric := [⟨⟨3, 5, 0⟩, .dma 0, 0, none, false⟩] } → (∃ e ∈ d.fabric, e.dest = .dma 0) ∧ (d.dmaOf 0).waitTimeout = none) := by
  refine ⟨by decide, by decide, by decide, by decide, by decide, by decide, by decide, ?_, by decide, by decide, by decide, by decide, by decide, ?_, ?_, ?_, ?_, ?_⟩
  · unfold runsDma; decide
  · rintro _ _ rfl rfl; decide
  · rintro _ rfl _ _ rfl rfl; decide
  · rintro _ rfl; decide
  · rintro _ rfl; decide
  · rintro _ rfl; exact ⟨⟨_, List.mem_singleton.2 rfl, rfl⟩, rfl⟩

theorem witness_dmaMoves :
    (∀ mv, mv = (dmaFetch (wprogs.headD {}) 0).move → sideUp (wdma wrunning) mv.srcSpace ∧ sideUp (wdma wrunning) mv.dstSpace ∧ mv.rows = 1 ∧ mv.rowBytes = 4 ∧ (moveRun mv false 0 (List.range mv.rows) {} 0).2 = 0 ∧ wrunning.regMode = false) ∧
    (∀ mv : DmaMove, mv = ⟨1, 4, A.TENG_DBGSEL 0, 2, 0x2000, 0, 0, 0, false⟩ → mv.srcSpace % 4 = 2 ∧ mv.srcSpace < 2 ^ 11 ∧ sideUp (wdma wrunning) mv.dstSpace ∧ (wdma wrunning).downAt mv.srcOff = false ∧
      (((wdma wrunning).domRead houseDom (dmaReader 0) mv.srcOff {}).1.dmaOf 0 = wrunning ∧ ((wdma wrunning).domRead houseDom (dmaReader 0) mv.srcOff {}).1.pwr.inReset = false)) ∧
    (∀ mv : DmaMove, mv = ⟨1, 4, 0x2000, 0, A.TENG_DBGSEL 0, 2, 0, 0, false⟩ → mv.dstSpace % 4 = 2 ∧ sideUp (wdma wrunning) mv.srcSpace ∧ (wdma wrunning).downAt mv.dstOff = false ∧
      (((wdma wrunning).domWrite houseDom (dmaReader 0) mv.dstOff 0 {}).1.dmaOf 0 = wrunning ∧ ((wdma wrunning).domWrite houseDom (dmaReader 0) mv.dstOff 0 {}).1.pwr.inReset = false)) ∧
    (∀ mv : DmaMove, mv = ⟨1, 4, 0, 1 + 4 * 5, 0x2000, 0, 0, 0, false⟩ → 0 < mv.rows ∧ mv.srcSpace = 1 + 4 * 5 ∧ (wdma wrunning).tileDown 5 = true) ∧
    (bitOf ((dmaFetch { store := [(0, 0x15), (8, 0x40)] } 0).w 0) 4 = true ∧ bitOf ((dmaFetch { store := [(0, 5)] } 0).w 0) 4 = false ∧ (wdma wrunning).sideFault houseDom 0x40 0 0 1 8 true = 0 ∧ (wdma wrunning).sideFault 3 0x40 0 0 1 8 true ≠ 0 ∧
      sideUp (wdma wrunning) 0 ∧ (wdma wrunning).sideFault houseDom 0x40 (1 + 4 * 5) 0 1 8 true = 0 ∧ (wdma wrunning).rowDown (1 + 4 * 5) 0x40 8 = true) := by
  refine ⟨?_, ?_, ?_, ?_, ?_⟩
  · rintro _ rfl; unfold sideUp; decide
  · rintro _ rfl; unfold sideUp; decide
  · rintro _ rfl; unfold sideUp; decide
  · rintro _ rfl; decide
  · unfold sideUp; decide

/-- Check-value unit 0 of a tile's registers. -/
theorem witness_scans : Awake (ws wd) ∧ Reaches 0 (A.CVU_CMD 0) (ws wd) ∧ (wd.cvuOf 0).st ≠ .scanning ∧ (wd.cvuOf 0).due = false ∧ wd.lv (A.CVU_CFG 0) F.CVU_CFG_TRIG = 0 ∧ wd.scanFault 0 = 0 ∧
    (∀ x : Cvu, x = { st := .scanning, due := true } → x.st = .scanning ∧ x.due = true) ∧ (∀ x : Cvu, x = { due := true } → x.due = true ∧ x.st ≠ .scanning) ∧
    (∀ d : Dev, d = { wd with cvu := [(0, { st := .scanning, len := 8, poly := 1 })], regs := { live := [(A.CVU_CFG 0, fput 0 F.CVU_CFG_CMP_EN 1)] } } → 
      (d.live.b (A.CVU_CFG 0) F.CVU_CFG_CMP_EN && crcOf 1 ((⟨[], []⟩ : Mem).bytes 0 8) != (d.live (A.CVU_EXP 0 0)).toNat + (d.live (A.CVU_EXP 0 1)).toNat * 2 ^ 32) = true) := by
  refine ⟨by decide, by decide, by decide, by decide, by decide, by decide, ?_, ?_, ?_⟩
  · rintro _ rfl; decide
  · rintro _ rfl; decide
  · rintro _ rfl; decide +kernel

/-- A device of side A whose pair is enabled and whose Zynjo lanes run; the twin's wire is watched. -/
def wzyn (z : Zyn) : Dev :=
  { own := [(houseDom, { st := .owned, owner := 0 })], zyn := z, regs := { live := [(A.ZYN_CFG, fput (fput 0 F.ZYN_CFG_PAIR_EN 1) F.ZYN_CFG_HBWIRE 1)] }
    pwr := { spllLock := [true], active := (List.range 8).map (fun i => (5, 128 + i)) } }

/-- A link that is UP. -/
def wup : Zyn := { link := .up, dead := false, lanes := 255 }

theorem witness_link : Awake (ws (wzyn wup)) ∧ (wzyn wup).zyn.link = .up ∧ (5 : Nat) ≠ (wzyn wup).zyn.rxSeq ∧ 0 = (wzyn wup).zyn.rxSeq ∧ wd.zyn.link ≠ .up ∧ namesFlit (wzyn wup) 0 0 ∧ (wzyn wup).zyn.waitq = [] ∧ (∀ n, ¬ namesFlit (wzyn wup) 7 n) ∧ plain (wzyn wup) ∧
    (∀ z : Zyn, z = { wup with replay := [⟨3, .leave⟩, ⟨4, .leave⟩] } → namesFlit (wzyn z) 4 1) ∧ wd.pairEn = false ∧ (wzyn {}).pairEn = true ∧ (wzyn {}).zynRuns = true ∧ (wzyn {}).zyn.link ≠ .up ∧ (wzyn {}).pwr.side = false ∧
    ((wzyn wup).pairEn && (wzyn wup).zynRuns) = true ∧ (wzyn {}).zyn.dead = true ∧ namesFlit (wzyn {}) 0 0 ∧
    (∀ z : Zyn, z = { dead := false } → plain (wzyn z) ∧ (wzyn z).zyn.dead = false) ∧
    (∀ a : AccessFlit, a = ⟨2, 1, false, 0, 0, false⟩ → ∀ z : Zyn, z = { dead := false, replay := [⟨3, .access a⟩], mbox := [(2, ⟨100⟩)] } → z.replay = [⟨3, .access a⟩] ∧ a.write = false ∧ Tab.get? z.mbox a.master = some ⟨100⟩) ∧
    (∀ a : AccessFlit, a = ⟨2, 1, false, 0, 0, true⟩ → ∀ z : Zyn, z = { dead := false, replay := [⟨3, .access a⟩] } → a.write = true ∧ (wzyn z).late.log.length < 64) ∧
    (∀ d : Dev, d = { wzyn { dead := false, replay := [⟨3, .decide 5 9⟩] } with sq := { commits := [(5, { st := .agreeing })] } } → d.zyn.replay = [⟨3, .decide 5 9⟩] ∧ flitPrio (.decide 5 9) = 0 ∧ d.sq.commits = [(5, { st := .agreeing })] ∧ (5 : Nat) ≠ houseDom) ∧
    (∀ d : Dev, d = { wzyn wup with sq := { commits := [(5, { st := .agreeing })] } } → d.zyn.link = .up ∧ d.sq.commits = [(5, { st := .agreeing })]) ∧ noneAgreeing (wzyn wup) := by
  refine ⟨by decide, by decide, by decide, by decide, by decide, .inl (by decide), by decide, ?_, by unfold plain; decide, ?_, by decide, by decide, by decide, by decide, by decide, by decide, by decide, .inl (by decide), ?_, ?_, ?_, ?_, ?_, by unfold noneAgreeing; decide⟩
  · rintro n (⟨_, h, _⟩ | ⟨f, l, h, _⟩)
    · exact absurd h (by decide)
    · cases h
  · rintro _ rfl; exact .inr ⟨_, _, rfl, by decide, by decide⟩
  · rintro _ rfl; unfold plain; decide
  · rintro _ rfl _ rfl; decide
  · rintro _ rfl _ rfl; decide
  · rintro _ rfl; decide
  · rintro _ rfl; decide

/-- A heartbeat and the 248 bytes of its flit before the CRC. -/
def whb : Heartbeat := ⟨0, 7, 0, 3, 0, 1, true, true, false, false, false, []⟩
def wbody : List Byte := [1, 0, 0, 0, 0, 0, 72, 0] ++ Heartbeat.payload whb ++ List.replicate 168 0

/-- Bytes that spell it. -/
theorem witness_heartbeatBytes : heartbeatOf (wbody ++ leBytes 8 16559291178427866857) = some whb := by
  have step : ∀ r xs ys, crcRun 3 r (xs ++ ys) = crcRun 3 (crcRun 3 r xs) ys := fun r xs ys => List.foldl_append ..
  have cut : ∀ n, wbody.take (n + 62) = wbody.take n ++ (wbody.drop n).take 62 := fun n => List.take_add
  have h0 : crcRun 3 (crcInit 3) ((wbody.drop 0).take 62) = 8908998449369879165 := by decide +kernel
  have h1 : crcRun 3 8908998449369879165 ((wbody.drop 62).take 62) = 245640016976666523 := by decide +kernel
  have h2 : crcRun 3 245640016976666523 ((wbody.drop 124).take 62) = 10196806236433106884 := by decide +kernel
  have h3 : crcRun 3 10196806236433106884 ((wbody.drop 186).take 62) = 16559291178427866857 := by decide +kernel
  have crc : crcOf 3 (wbody.take 248) = 16559291178427866857 := by
    rw [crcOf, cut 186, step, cut 124, step, cut 62, step, show wbody.take 62 = (wbody.drop 0).take 62 from rfl, h0, h1, h2, h3]
    decide +kernel
  have whole : (wbody ++ leBytes 8 16559291178427866857).take 248 = wbody.take 248 := by decide +kernel
  have is : flitIs 1 (wbody ++ leBytes 8 16559291178427866857) = true := by
    rw [flitIs, whole, crc]; decide +kernel
  rw [heartbeatOf, if_pos is]; decide +kernel

theorem witness_heartbeats :
    (∀ z, z = wup → Awake (ws (wzyn z)) ∧ (wzyn z).zyn = z ∧ z.link = .up ∧ (wzyn z).pairEn = true ∧ ¬ (z.hb.isSome ∧ 5 < z.hbArr + usTU) ∧ z.pair ≠ .joined ∧ z.pair ≠ .suspect ∧ z.pair ≠ .severed ∧ z.conflict = [] ∧ (wzyn z).lvb A.ZYN_CFG F.ZYN_CFG_HBWIRE = true ∧
      Zyn.link {} ≠ .up ∧ wd.pairEn = false ∧ wd.lvb A.ZYN_CFG F.ZYN_CFG_HBWIRE = false ∧ plain (wzyn z)) ∧
    (∀ h : Heartbeat, h = ⟨0, 0, 0, 3, 0, 1, true, true, false, false, false, []⟩ → h.echoSend = 0 ∧ h.echoArr = 0 ∧
      (∀ z : Zyn, z = { wup with hb := some h, hbArr := 5 } → z.hb.isSome ∧ 6 < z.hbArr + usTU)) ∧
    (∀ h : Heartbeat, h = ⟨0, 7, 0, 3, 0, 1, true, true, false, false, false, []⟩ → h.echoSend ≠ 0) ∧ heartbeatOf [] = none ∧
    (∀ z : Zyn, z = { wup with pair := .joined, misses := 2 } → z.pair = .joined ∧ 3 ≤ z.misses + 1 ∧ noneAgreeing (wzyn z)) ∧
    (∀ z : Zyn, z = { wup with pair := .suspect, tk := 10 ^ 9 } → z.pair = .suspect ∧ (wzyn z).now < z.tk ∧ ((wzyn z).lvb A.ZYN_CFG F.ZYN_CFG_HBWIRE && !z.wireSilent) = true) ∧
    (∀ z : Zyn, z = { wup with pair := .suspect, wireSilent := true } → z.tk ≤ (wzyn z).now ∧ ((wzyn z).lvb A.ZYN_CFG F.ZYN_CFG_HBWIRE && !z.wireSilent) = false) ∧
    (∀ z : Zyn, z = { wup with pair := .severed } → z.pair = .severed ∧ z.dead = false ∧ z.replay.length < 1024) ∧
    (∀ d : Dev, d = { wzyn { wup with conflict := [3], driving := [3] } with pwr := { side := true } } → d.zyn.conflict ≠ [] ∧ d.pwr.side = true ∧ d.zyn.conflict.filter (d.zyn.driving.contains ·) ≠ []) := by
  refine ⟨?_, ?_, ?_, by decide, ?_, ?_, ?_, ?_, ?_⟩ <;> rintro _ rfl
  · exact ⟨by decide, by decide, by decide, by decide, by decide, by decide, by decide, by decide, by decide, by decide, by decide, by decide, by decide, by unfold plain; decide⟩
  · refine ⟨by decide, by decide, ?_⟩; rintro _ rfl; decide
  · decide
  · unfold noneAgreeing; decide
  all_goals decide

/-- Side A waits for the twin's agreement to a commit of room 5; side B has it in hand. -/
def wtwin (side : Bool) (c : Commit) : Dev := { wzyn wup with pwr := { side := side }, sq := { commits := [(5, c)] } }

theorem witness_twinCommits :
    (∀ d, d = wtwin false { st := .agreeing, twin := true, target := 9 } → Awake (ws d) ∧ fits d 0 ∧ d.pwr.side = false ∧ (d.commitOf 5).st = .agreeing ∧ (d.commitOf 5).decided = false ∧ (9 : Nat) % 2 ^ 32 = (d.commitOf 5).target % 2 ^ 32 ∧ canSend (d.tookFlit 0) ∧
      twinned d 5 9 ∧ ¬ twinned d 5 8 ∧ (5 : Nat) ≠ houseDom) ∧
    (∀ d, d = wtwin true { st := .agreeing, twin := true, target := 9 } → d.pwr.side = true ∧ (d.commitOf 5).st = .agreeing ∧ twinned d 5 9 ∧ (d.commitOf 5).st ≠ .locked) ∧
    (∀ d, d = wtwin false { st := .agreeing, twin := true, target := 9, decided := true } → (d.commitOf 5).decided = true ∧ ¬ ((d.commitOf 5).target = d.sq.num + 1 ∧ d.lockPassed = true)) := by
  refine ⟨?_, ?_, ?_⟩ <;> rintro _ rfl
  · unfold fits canSend twinned; decide
  · unfold twinned; decide
  · decide

theorem witness_twinAccesses :
    Awake (ws (wzyn wup)) ∧ Reaches 0 A.ZYN_MGO (ws (wzyn wup)) ∧ Tab.get? (wzyn wup).zyn.mbox 0 = none ∧ canSend (wzyn wup) ∧ fits (wzyn wup) 0 ∧ Tab.get? ([(0, ⟨100⟩)] : Tab Mbox) 0 = some ⟨100⟩ ∧
    (∀ d, d = ({ wzyn wup with own := [(houseDom, { st := .owned, owner := 7 })] } : Dev).tookFlit 0 → (decide (0x1000 + 4 ≤ 2 ^ 29) && d.qualifies 7 (bankOfByte 0x1000)) = true ∧ canSend d) ∧
    (∀ d, d = (wzyn wup).tookFlit 0 → (decide (0x1000 + 4 ≤ 2 ^ 29) && d.qualifies 7 (bankOfByte 0x1000)) = false ∧ (∀ j, pageOf 0x30040 ≠ .zyn j) ∧ (∃ j, pageOf A.ZYN_CFG = .zyn j) ∧ d.sq.blocked = false ∧ Tab.get? d.zyn.digests 3 = none ∧
      (d.busRead 7 0x30040 {}).1.zyn = d.zyn ∧ (d.live.f (A.FCH_MODE 0) F.FCH_MODE_DIR == 1) = false) ∧
    (∀ d : Dev, d = { wzyn { wup with digests := [(3, [1, 2])] } with sq := { refusedM := [7], blocked := true } } → d.sq.refusedM.contains 7 = true ∧ d.sq.blocked = true ∧ Tab.get? (d.tookFlit 0).zyn.digests 3 = some [1, 2] ∧
      (List.range 257).filter (fun i => ([1, 2] : List Nat).getD i 0 != ([1, 3] : List Nat).getD i 0) = [1]) ∧
    (∀ d : Dev, d = { wzyn wup with regs := { live := [(A.FCH_MODE 0, fput (fput 0 F.FCH_MODE_DIR 1) F.FCH_MODE_MERGE 1), (A.FCH_KEYP 0 1, fput 0 F.FCH_KEYP_PORT 0xFE)] } } →
      (d.live.f (A.FCH_MODE 0) F.FCH_MODE_DIR == 1 && fcMode d.live 0 F.FCH_MODE_MERGE == 1 && d.live.f (A.FCH_KEYP 0 1) F.FCH_KEYP_PORT == 0xFE) = true) := by
  refine ⟨by decide, by decide, by decide, by unfold canSend; decide, by unfold fits; decide, by decide, ?_, ?_, ?_, ?_⟩ <;> rintro _ rfl
  · unfold canSend; decide
  · refine ⟨by decide, fun j h => ?_, ⟨_, rfl⟩, by decide, by decide, by decide, by decide⟩
    cases h
  · decide +kernel
  · decide

/-- Pin 0 paired as a shadow: the twin drives it. -/
def wshadow (z : Zyn) (it : List PinItem) : Dev := { wzyn z with regs := { live := Tab.set (wzyn z).regs.live (A.ZYN_PROLE 0) 1#32 }, pins := if it = [] then [] else [(0, {})] }

theorem witness_twinPins :
    (∀ d, d = wshadow wup [] → Awake (ws d) ∧ fits d 0 ∧ d.shadowed 0 = true ∧ d.shadowed 1 = false ∧ Reaches 0 A.ZYN_CTL (ws d) ∧ canSend d ∧ d.zyn.pair = .solo ∧ d.zyn.ho = none ∧ d.zyn.hoIn = none ∧ d.zyn.takeAt = none ∧ d.zyn.mirror = [] ∧ unshort d.now 7 ≥ d.now ∧
      d.itemChan (.load 0) = some 0 ∧ d.itemChan (.load 1) = some 1 ∧ d.shadowed (hsPin d.live 0) = true) ∧
    (∀ d : Dev, d = { wshadow wup [] with h := { ctr := 10 ^ 15 } } → unshort d.now 7 < d.now) ∧
    (∀ d : Dev, d = { wshadow wup [] with regs := { live := Tab.set (wshadow wup []).regs.live (A.AX_PINS 0) (fput 0 F.AX_PINS_STEP_EN 1) } } → d.axChan 0 = some 0 ∧ d.shadowed 0 = true) ∧
    (∀ z : Zyn, z = { wup with pair := .joined } → z.pair = .joined ∧ (wzyn z).now + usTU < unshort (wzyn z).now (2 * usTU) ∧ canSend ((wzyn z).tookFlit 0)) ∧
    (∀ z : Zyn, z = { wup with ho := some ⟨2 * usTU, [0], 1, true⟩, mirror := [(10, .load 0)], takeAt := some 50 } → (∃ h, z.ho = some h ∧ shortOf h.th = shortOf (2 * usTU) ∧ (wzyn z).now < h.th ∧ h.ack = true ∧ ∀ k ∈ z.hoIn, h.th ≤ k.th) ∧ z.mirror = (10, .load 0) :: [] ∧ z.takeAt = some 50) ∧
    (∀ z : Zyn, z = { wup with hoIn := some ⟨2 * usTU, [0], 0, true⟩ } → z.hoIn = some ⟨2 * usTU, [0], 0, true⟩ ∧ ∀ h ∈ z.ho, 2 * usTU < h.th) := by
  refine ⟨?_, ?_, ?_, ?_, ?_, ?_⟩ <;> rintro _ rfl
  · unfold fits canSend; decide
  · decide
  · decide
  · unfold canSend; decide
  · exact ⟨⟨_, rfl, by decide⟩, rfl, rfl⟩
  · decide

theorem witness_twinsJoin :
    (∀ d, d = wzyn wup → Awake (ws d) ∧ Reaches 0 A.ZYN_CTL (ws d) ∧ d.zyn.pair = .solo ∧ d.pairEn = true ∧ canSend d ∧ (∀ x ∈ d.zyn.twinReq, x.2 + 1000 * usTU < d.now) ∧ fits d 0 ∧ d.zyn.joinBoth = false ∧ d.zyn.tj = none ∧ noneAgreeing d ∧ d.zyn.pair ≠ .joining) ∧
    wd.pairEn = false ∧ (wzyn {}).zyn.link ≠ .up ∧
    (∀ z : Zyn, z = { wup with twinReq := some (5, 0) } → z.twinReq = some (5, 0) ∧ (wzyn z).now ≤ 0 + 1000 * usTU ∧ laterMod 32 (wzyn z).sq.num (((wzyn z).sq.num + 2) % 2 ^ 32) = true) ∧
    (∀ z : Zyn, z = { wup with pair := .joined } → z.pair = .joined ∧ canSend (wzyn z) ∧ noneAgreeing (wzyn z)) ∧
    (∀ d : Dev, d = { wzyn { wup with pair := .joining, prev := .solo, joinEj := 2 } with sq := { num := 5 } } → d.zyn.pair = .joining ∧ d.zyn.joinBoth = false ∧ d.zyn.prev ≠ .joining ∧ laterMod 32 d.sq.num 7 = true ∧ laterMod 32 d.sq.num 2 = false) ∧
    (∀ z : Zyn, z = { wup with pair := .joining, prev := .solo, joinBoth := true, joinOk := true, tj := some 9 } → z.tj = some 9 ∧ z.pair = .joining ∧ z.joinOk = true ∧ z.twinPins = [] ∧ Tab.get? z.digests ((wzyn z).sq.num % 2 ^ 32) = none ∧ z.prev ≠ .joining) := by
  refine ⟨?_, by decide, by decide, ?_, ?_, ?_, ?_⟩ <;> rintro _ rfl
  · unfold canSend fits noneAgreeing; decide
  · decide
  · unfold canSend noneAgreeing; decide
  · decide
  · decide

/-- A frame with its CRC. -/
def wsvc (l : List Byte) : List Byte := l ++ beBytes 2 (crcOf 2 l)

/-- Reads and writes of one word of BAR0 and of BAR2, a window read, a wrong CRC, a bad command and a short frame. -/
theorem witness_svc :
    (∀ b ∈ [[0x00#8, 0, 0, 0, 0x40], [0x20#8, 0, 0, 0, 0x40], [0x00#8, 4, 0, 0, 0x40]], ∀ bs, bs = wsvc b → 5 + 2 ≤ bs.length ∧ be16 bs 5 = crcOf 2 (bs.take 5) ∧ (svcCmd bs).op = 0 ∧ (svcCmd bs).resv = false ∧ (svcCmd bs).addr % 4 = 0 ∧ (svcCmd bs).addr + 4 * (svcCmd bs).words ≤ 2 ^ 27) ∧
    (∀ b ∈ [[0x40#8, 0, 0, 0, 0x40, 0, 0, 0, 1], [0x60#8, 0, 0, 0, 0x40, 0, 0, 0, 1]], ∀ bs, bs = wsvc b → 9 + 2 ≤ bs.length ∧ be16 bs 9 = crcOf 2 (bs.take 9) ∧ (svcCmd bs).op = 1 ∧ (svcCmd bs).resv = false ∧ 5 + 4 * (svcCmd bs).words = 9) ∧
    (svcCmd [0x20#8, 0, 0, 0, 0x40]).bar2 = true ∧ (svcCmd [0x00#8, 0, 0, 0, 0x40]).bar2 = false ∧ pageOf 0x40 ≠ .window ∧ pageOf 0x4000040 = .window ∧
    be16 [0x00#8, 0, 0, 0, 0x40, 0, 0] 5 ≠ crcOf 2 ([0x00#8, 0, 0, 0, 0x40, 0, 0].take 5) ∧ 2 ≤ (svcCmd [0xC0#8, 0, 0, 0, 0x40]).op ∧
    (∀ d : Dev, d = { own := [(houseDom, { st := .owned, owner := 6 })] } → Awake (ws d) ∧ ∀ i < 1, d.qualifies 6 (bankOfByte (0x40 + 4 * i)) = true) ∧ ¬ (∀ i < 1, wd.qualifies 6 (bankOfByte (0x40 + 4 * i)) = true) ∧
    ({ refusedM := [6] } : Seq).refusedM.contains 6 = true ∧ wd.sq.refusedM.contains 6 = false := by
  refine ⟨?_, ?_, by decide, by decide, by decide, by decide, by decide +kernel, by decide, ?_, by decide, by decide, by decide⟩
  · intro b h bs e; subst e; revert b; decide +kernel
  · intro b h bs e; subst e; revert b; decide +kernel
  · rintro _ rfl; decide

/-- A device with its power state. -/
def wpwr (p : Pwr) : Dev := { wd with pwr := p }

theorem witness_clocks : Awake (ws wd) ∧ wd.pwr.ocxoDone = false ∧ (3 : Nat) ≠ 4 ∧ clockCalm wd 0 true ∧ clockCalm (wpwr { clk := [(4, { good := 7 })] }) 4 true ∧
    (∀ c : ClkSrc, c = { good := 8, last := some 0, ready := true } → c.ready ≠ (Tab.get (wpwr { clk := [(0, { good := 7 })] }).pwr.clk {} 0).ready ∧ (wpwr { clk := [(0, { good := 7 })] }).pwr.msrc ≠ 0 + 1) ∧
    (∀ c : ClkSrc, c = {} → c.ready ≠ (Tab.get (wpwr { clk := [(0, { good := 8, ready := true })], msrc := 1 }).pwr.clk {} 0).ready ∧ (wpwr { msrc := 1 }).pwr.coast = false ∧ clockCalm (wpwr { msrc := 1 }) 0 c.ready) ∧
    (wpwr { ocxoWait := true }).pwr.ocxoWait = true ∧ Reaches 0 A.HCLK_MSEL (ws wd) ∧
    (∀ v, v = fput 0 F.HCLK_MSEL_MFREQ 8 → ((fget v F.HCLK_MSEL_MSRC == 0) && decide (8 ≤ fget v F.HCLK_MSEL_MFREQ) && decide (fget v F.HCLK_MSEL_MFREQ ≤ 32)) = true) ∧ decide (8 ≤ fget 0#32 F.HCLK_MSEL_MFREQ) = false ∧
    wd.pwr.glideTo = none ∧ (∀ e ∈ wd.ports, (wd.portOf e.1).up = false) ∧ wd.zynRuns = false ∧ wd.zyn.link = .down ∧ (wzyn {}).zynRuns = true ∧ (wzyn {}).pairEn = true ∧ (wzyn wup).zyn.link ≠ .down ∧ noneAgreeing (wzyn wup) := by
  refine ⟨by decide, by decide, by decide, .inl (by decide), .inr (by decide), ?_, ?_, by decide, by decide, ?_, by unfold noneAgreeing; decide⟩
  · rintro _ rfl; decide
  · rintro _ rfl; exact ⟨by decide, by decide, .inl (by decide)⟩
  · rintro _ rfl; decide

theorem witness_sleep : wd.pwr.inReset = false ∧ Awake (ws wd) ∧ Reaches 0 A.HPWR_CTL (ws wd) ∧ (wd.pwr.req.isSome || wd.pwr.deepAt.isSome) = false ∧ ((wpwr { req := some .deep }).pwr.req.isSome || wd.pwr.deepAt.isSome) = true ∧ wd.pwr.st = .run ∧
    (∀ d, d = wpwr { st := .sleep } → d.pwr.st = .sleep ∧ d.pwr.inReset = false ∧ Awake (ws d) ∧ Reaches 0 A.HPWR_CTL (ws d)) ∧ wd.deepReady = false ∧ (wpwr { deepAt := some 0 }).deepReady = true ∧ wd.zyn.ringRole = none ∧
    (∀ d : Dev, d = { wpwr { st := .deep } with regs := { imm := [(A.HPWR_ALARM1, fput 0 F.HPWR_ALARM1_EN 1)] }, h := { tpll := .slowHold } } → d.pwr.st = .deep ∧ d.im A.HPWR_ALARM1 F.HPWR_ALARM1_EN = 1 ∧ d.pwr.inReset = false ∧ d.h.tpll = .slowHold ∧ d.sq.armed = false ∧ d.im A.HSRC_SEL F.HSRC_SEL_AUTO = 0) ∧
    (∀ d : Dev, d = { wpwr { st := .deep } with regs := { imm := [(A.HSRC_SEL, fput 0 F.HSRC_SEL_AUTO 1)] }, h := { tpll := .slowHold } } → d.im A.HSRC_SEL F.HSRC_SEL_AUTO = 1 ∧ ∀ pr, pr = d.im A.HSRC_SEL F.HSRC_SEL_PRIO → [pr % 4, pr / 4 % 4, pr / 16 % 4, pr / 64 % 4].find? d.srcReady = some 0) := by
  refine ⟨by decide, by decide, by decide, by decide, by decide, by decide, ?_, by decide, by decide, by decide, ?_, ?_⟩ <;> rintro _ rfl
  · decide
  · decide
  · refine ⟨by decide, ?_⟩; rintro _ rfl; decide

theorem witness_voltageAndTemperature : Awake (ws wd) ∧ (wpwr { inReset := true }).pwr.inReset = true ∧ (wpwr { st := .deep }).pwr.st = .deep ∧
    (∀ tj : Int, tj = 100 → (decide (620 ≤ tj) || (!(wd.lv A.HCFG_MODE F.HCFG_MODE_MODE == 3) && decide (560 ≤ tj))) = false) ∧ (∀ tj : Int, tj = 620 → (decide (620 ≤ tj) || (!(wd.lv A.HCFG_MODE F.HCFG_MODE_MODE == 3) && decide (560 ≤ tj))) = true) := by
  refine ⟨by decide, by decide, by decide, ?_, ?_⟩ <;> rintro _ rfl <;> decide

theorem witness_governor : wd.pwr.govQ = [] ∧ (∀ r : GovReq, r = ⟨2, 5, 0, 1⟩ → ∀ p : Pwr, p = { govQ := [r] } → p.govQ = [r] ∧ r.order = 2 ∧ (p.tick + 1) - r.tk = 0 ∧
      (decide (([] : List Nat).foldl (· + ·) 0 + 20 ≤ (wpwr p).lv A.HGOV_CFG F.HGOV_CFG_BUDGET * 10) || (decide ((wpwr p).lv A.HGOV_CFG F.HGOV_CFG_BUDGET * 10 < 20) && true)) = true) ∧
    (∀ r : GovReq, r = ⟨2, 5, 0, 1⟩ → ∀ d : Dev, d = { wpwr { govQ := [r], govLog := [(0, 10 ^ 6)] } with regs := { live := [(A.HGOV_CFG, fput 0 F.HGOV_CFG_BUDGET 400)] } } →
      (decide (10 ^ 6 + 20 ≤ d.lv A.HGOV_CFG F.HGOV_CFG_BUDGET * 10) || (decide (d.lv A.HGOV_CFG F.HGOV_CFG_BUDGET * 10 < 20) && false)) = false ∧ r.tk = d.pwr.tick + 1 ∧ d.pwr.govDefEpoch ≠ d.sq.num + 1) ∧
    wd.sq.modes = [] ∧ Seq.modes { modes := [1] } ≠ [] := by
  refine ⟨by decide, ?_, ?_, by decide, by decide⟩
  · rintro _ rfl _ rfl; decide
  · rintro _ rfl _ rfl; decide

theorem witness_resets : Awake (ws wd) ∧ Reaches 0 A.HRST_CTL (ws wd) ∧ (∀ x ∈ (wpin 2 {}).pins, ∀ y ∈ (wpin 2 {}).pins, x.1 = y.1 → x = y) ∧ (∀ x ∈ (wpin 2 { oe := true }).pins, x.2.oe = true) ∧ wd.pwr.hallwayOpen = true ∧
    (wpwr { otpCmd := some (5, 1#32), otpFail := [3] }).pwr.otpCmd.toList.map (·.1) = [5] := by
  decide

theorem witness_release :
    (∀ p : Pwr, p = { inReset := true } → p.inReset = true ∧ p.thermalHold = false ∧ p.otpNew = []) ∧ (∀ p : Pwr, p = { inReset := true, otpNew := [(3, 7#32)] } → p.otpNew = [(3, 7#32)]) ∧ Pwr.inReset {} = false ∧
    (∀ fl : BootFlash, fl = { ok := true, dirA := some (1, []), dirB := none, areaA := [], areaB := [] } → fl.ok = true ∧ fl.dirA ≠ none ∧ fl.dirB = none ∧ dirOf fl false = some (1, [])) := by
  refine ⟨?_, ?_, by decide, ?_⟩ <;> rintro _ rfl <;> decide

theorem witness_tileResets :
    (∀ d, d = weng 0 { st := .run } → Awake (ws d) ∧ Reaches 0 A.HRST_TILE (ws d) ∧ Reaches 0 A.HRST_CTL (ws d) ∧ (d.engOf 0).wait = none ∧ (d.engOf 0).resetting = false ∧ d.pwr.qbusy.contains 0 = false ∧ (∀ e ∈ d.tileIn, e.1 / 64 ≠ 0) ∧
      (∀ e ∈ d.fout, e.1 / 8192 ≠ 0) ∧ (∀ e ∈ d.ports, e.1 / 32 = 0 → e.2.up = false) ∧ (∀ e ∈ d.irq, e.1 / 8 / 257 ≠ 0)) ∧ (∀ c < 32, moveMeets (weng 0 { st := .run }) [0] c = false ∧ scanMeets (weng 0 { st := .run }) [0] c = false) ∧
    (∀ d : Dev, d = { weng 0 { st := .run } with dma := [(1, { st := .run, move := some ⟨1, 4, 0, 1, 0, 0, 0, 0, false⟩ })], cvu := [(2, { st := .scanning, space := 2 })] } → moveMeets d [0] 1 = true ∧ scanMeets d [0] 2 = true) ∧
    (∀ U ∈ quadTiles 0, ((weng 0 { st := .run }).engOf U).wait = none ∧ ((weng 0 { st := .run }).engOf U).tags = [] ∧ ((weng 0 { st := .run }).engOf U).inbox = []) ∧
    (∀ e : Eng, e = { resetting := true, tags := [(3, ⟨true, 0x1000, 0x2000, 8⟩)] } → e.resetting = true ∧ e.inbox = [] ∧ e.tags = [(3, ⟨true, 0x1000, 0x2000, 8⟩)]) ∧ (wpwr { qbusy := [0] }).pwr.qbusy.contains 0 = true := by
  refine ⟨?_, by decide, ?_, ?_, ?_, by decide⟩
  · rintro _ rfl; decide
  · rintro _ rfl; decide
  · decide +kernel
  · rintro _ rfl; decide

theorem witness_fuses : Awake (ws wd) ∧ Reaches 0 A.HOTP_CMD (ws wd) ∧ (∀ p : Pwr, p = {} → (p.otpCmd.isSome || p.otpBad.contains 0 || Tab.get p.otp 0 0 != 0 || (Tab.get? p.otpNew 0).isSome || p.otpFail.contains 0 ||
      ((wpwr p).otpWord 0).testBit 1 && 0 != 0 || (wpwr p).sq.pfwActive) = false ∧ p.otpCmd = none) ∧ (∀ p : Pwr, p = { otpCmd := some (3, 7#32) } → p.otpCmd.isSome = true ∧ p.otpCmd = some (3, 7#32)) := by
  refine ⟨by decide, by decide, ?_, ?_⟩ <;> rintro _ rfl <;> decide

/-- A bank with its supply that carries an enabled trip with no window open, and one with a window open; one whose axis has a step pulse out; one that
feeds an encoder in SYNC; the same bank without supply, its trip's level active and not; a device held in reset, with the bank and without. -/
theorem witness_banksSupply : Awake (ws (wtrip {})) ∧ (wtrip {}).pwr.banksOff.contains 0 = false ∧ (wtrip {}).lvb (A.TRIP_CFG 0) F.TRIP_CFG_EN = true ∧ wd.lvb (A.TRIP_CFG 0) F.TRIP_CFG_EN = false ∧ ((wtrip {}).tripOf 0).asserted = false ∧ ((wtrip {}).tripOf 0).blank = [] ∧
    ((wtrip {}).tripOf 0).tripped = false ∧ (∀ a ∈ tileAxes (wtrip {}).live (0 / 4), ((wtrip {}).axOf a).moving = false) ∧ (∀ g ∈ tileGrps (wtrip {}).live (0 / 4), ((wtrip {}).grpOf g).demands = []) ∧ (∀ v < 8, ((wtrip {}).auOf v).st ≠ .sync) ∧
    (∀ x : Trip, x = { blank := [(0, 9)] } → x.blank.any (fun y => decide (y.1 ≤ (wtrip x).now) && decide ((wtrip x).now < y.2)) = true) ∧
    (∀ d : Dev, d = { wax {} with pins := [(0, { words := wmode 10, wlevel := true, oe := true })] } → 0 ∈ tileAxes d.live (0 / 4) ∧ 0 ∈ bankPcs 0 ∧ stepPin d.live 0 = some 0 ∧ (d.pcOf 0).mode = 10 ∧ (d.pcOf 0).wlevel = true) ∧
    (∀ d : Dev, d = { wau { st := .sync } with pwr := { active := [(6, 0), (4, 0)], banksOff := [0] } } → (d.auOf 0).st = .sync ∧ d.encSupplied 0 = false) ∧
    (∀ p : Pwr, p = { banksOff := [0], inReset := true } → (wpwr p).halted = true ∧ p.banksOff.contains 0 = true) ∧ (∀ p : Pwr, p = { inReset := true } → (wpwr p).halted = true ∧ p.banksOff.contains 0 = false) ∧
    (∀ d : Dev, d = { wtrip { level := true } with pwr := { banksOff := [0] } } → Awake (ws d) ∧ d.pwr.banksOff.contains 0 = true ∧ (d.tripOf 0).level = d.lvb (A.TRIP_CFG 0) F.TRIP_CFG_POL) ∧
    (∀ d : Dev, d = { wtrip {} with pwr := { banksOff := [0] }, pins := [(0, { cause := 1, inSafe := true })] } → (d.tripOf 0).level ≠ d.lvb (A.TRIP_CFG 0) F.TRIP_CFG_POL ∧ (d.pcOf 0).causes ≠ 0 ∧ (d.pcOf 1).causes = 0) := by
  refine ⟨by decide, by decide, by decide, by decide, by decide, by decide, by decide, by decide, by decide, by decide, ?_, ?_, ?_, ?_, ?_, ?_, ?_⟩ <;> rintro _ rfl <;> decide

/-- A queue of two commands and an empty one, on a device that runs and on one held in reset; a canonical memory; a register of the map. -/
theorem witness_machine : (∃ c rest, ({ ws wd with pending := [.takeover, .conflictRelease] } : State).pending = c :: rest) ∧ (ws wd).pending = [] ∧ (ws wd).dev.halted = false ∧ wd.h.slew = none ∧ (ws (wpwr { inReset := true })).dev.halted = true ∧
    actsHalted .takeover = false ∧ touchesMemory .takeover = false ∧ exec .conflictRelease (ws wd) = .next (ws wd) ∧ wimg.wf = true ∧ (ws wd).memOk ∧ (∃ r ix, descAt false A.HCFG_MODE = some (r, ix)) ∧
    (∃ t, step { ws wd with pending := [.takeover] } = .next t ∧ t.pending = []) := by
  refine ⟨⟨_, _, rfl⟩, by decide, by decide, by decide, by decide, by decide, by decide, rfl, by decide, by decide, ⟨_, _, rfl⟩, ⟨_, rfl, rfl⟩⟩

end Sys2Proof.Machine
end

section
/-! SUPPORT. The hearth's counter: what a write of HTIM_CTRL without STEP_GO does, what starting the hearth leaves alone, and the
statement that the counter is loaded, started and read (R53, R54, R55). -/
namespace Sys2Proof.Machine

/-! ## A register left out -/

theorem tab_get?_del {α : Type} (t : Tab α) (k j : Nat) : Tab.get? (Tab.del t k) j = if j = k then none else Tab.get? t j := by
  induction t with
  | nil => simp [Tab.del, Tab.get?]
  | cons e t ih =>
    unfold Tab.del at ih ⊢
    by_cases he : e.1 = k
    · rw [List.filter_cons_of_neg (by simp [he]), ih]
      by_cases hj : j = k <;> simp [Tab.get?, he, hj]
    · rw [List.filter_cons_of_pos (by simp [he])]
      simp only [Tab.get?, ih]
      by_cases hj : j = e.1 <;> simp [hj, he]

@[simp] theorem immW_lessImm (d : Dev) (a b : Nat) : (d.lessImm a).immW b = if b = a then resetWord false b else d.immW b := by
  simp only [Dev.immW, Dev.lessImm, tab_get?_del]; split <;> rfl

/-! ## What starting the hearth leaves alone -/

/-- HTIM_CTRL and ZYN_STAT are the words that starting the hearth writes. -/
theorem beginning_setImmW_agrees (d : Dev) {a : Nat} (v : Word) (h : a = A.HTIM_CTRL ∨ a = A.ZYN_STAT) :
    (beginning (d.setImmW a v)).agrees (beginning d) := by
  refine ⟨rfl, fun b _ => ?_⟩
  show (((d.setImmW a v).lessImm A.HTIM_CTRL).lessImm A.ZYN_STAT).immW b = ((d.lessImm A.HTIM_CTRL).lessImm A.ZYN_STAT).immW b
  simp only [immW_lessImm, immW_setImmW]
  by_cases hz : b = A.ZYN_STAT
  · simp only [if_pos hz]
  · by_cases hc : b = A.HTIM_CTRL
    · simp only [if_pos hc]
    · rw [if_neg (show b ≠ a by rintro rfl; exact h.elim hc hz)]

theorem beginning_accRun_agrees (d : Dev) (e r : Nat) (ops : List RecOp) : (beginning (d.accRun e r ops)).agrees (beginning d) :=
  agrees_refl _

theorem beginning_armGrid_agrees (d : Dev) : (beginning d.armGrid).agrees (beginning d) := by
  unfold Dev.armGrid; split <;> exact agrees_refl _

theorem beginning_tick_agrees (d : Dev) : (beginning d.tick).agrees (beginning d) := by
  unfold Dev.tick Dev.cycles
  cases d.h.slew with
  | none => exact agrees_refl _
  | some sl => dsimp only; split <;> exact agrees_refl _

theorem beginning_post_agrees (d : Dev) (m : Nat) : (beginning (d.post m)).agrees (beginning d) := by
  unfold Dev.post; split <;> exact agrees_refl _

theorem beginning_postAccepted_agrees (d : Dev) (m : Nat) : (beginning (d.postAccepted m)).agrees (beginning d) := by
  unfold Dev.postAccepted; split <;> exact agrees_refl _

theorem beginning_htimBits_agrees (d : Dev) (v : Word) : (beginning (htimBits d v)).agrees (beginning d) :=
  agrees_trans (beginning_setImmW_agrees _ _ (.inl rfl)) (beginning_setImmW_agrees _ _ (.inl rfl))

/-- Setting RUN leaves everything but the hearth, the epoch, the twin's numbering, HTIM_CTRL and ZYN_STAT (R53, R81, R434). -/
theorem beginning_setRun_agrees (d : Dev) : (beginning d.setRun).agrees (beginning d) := by
  unfold Dev.setRun
  split
  · exact agrees_refl _
  · extract_lets _ _ _ _ _ _ d2 d3 d4
    have online : (beginning d3).agrees (beginning d) :=
      foldl_inv (P := fun x : Dev => (beginning x).agrees (beginning d)) _
        (fun b a hb => by
          split
          · exact hb
          · exact agrees_trans (beginning_accRun_agrees _ _ _ _) hb)
        _ d2 (agrees_refl _)
    have failed : (beginning d4).agrees (beginning d3) := by
      dsimp only [d4]; split
      · exact beginning_setImmW_agrees _ _ (.inr rfl)
      · exact agrees_refl _
    exact agrees_trans (beginning_armGrid_agrees _)
      (agrees_trans (beginning_setImmW_agrees _ _ (.inl rfl)) (agrees_trans failed online))

/-! ## A write of HTIM_CTRL -/

/-- A load of the counter or a step at a cycle is still to come: RUN of the same write waits for it (R54). -/
def Dev.runWaits (d : Dev) : Bool :=
  d.h.tset.isSome || (match d.h.pstep with | some s => s.second.isNone | none => false)

/-- RUN asked for by a write of a stopped hearth: it waits, or is set at once. -/
def Dev.askRun (d : Dev) : Dev := if d.runWaits then { d with h := { d.h with runPend := true } } else d.setRun

theorem askRun_of_load {d : Dev} (h : d.h.tset.isSome) : d.askRun = { d with h := { d.h with runPend := true } } := by
  simp [Dev.askRun, Dev.runWaits, h]

theorem askRun_of_free {d : Dev} (ht : d.h.tset = none) (hp : d.h.pstep = none) : d.askRun = d.setRun := by
  simp [Dev.askRun, Dev.runWaits, ht, hp]

/-- HTIM_CTRL written without STEP_GO: METHOD and STEP_AT, then the load, then RUN (R54). -/
theorem writeHtimCtrl_noStep {v : Word} (hs : fget v F.HTIM_CTRL_STEP_GO = 0) {d e : Dev}
    (he : e = if fget v F.HTIM_CTRL_TSET_GO = 1 then (htimBits d v).doTset d.h.run else htimBits d v) :
    writeHtimCtrl v d = if fget v F.HTIM_CTRL_RUN = 1 ∧ d.h.run = false then e.askRun else e := by
  subst he
  unfold writeHtimCtrl
  simp only [b2n_fget v F.HTIM_CTRL_METHOD rfl, b2n_fget v F.HTIM_CTRL_STEP_AT rfl, hs, Nat.zero_ne_one, if_false]
  rfl

@[simp] theorem setIm_fabric (d : Dev) (a : Nat) (f : Fld) (v : Nat) : (d.setIm a f v).fabric = d.fabric := rfl
@[simp] theorem now_setIm (d : Dev) (a : Nat) (f : Fld) (v : Nat) : (d.setIm a f v).now = d.now := rfl
@[simp] theorem err_fabric (d : Dev) (p : Nat) : (d.err p).fabric = d.fabric := rfl
@[simp] theorem now_err (d : Dev) (p : Nat) : (d.err p).now = d.now := rfl
@[simp] theorem htimBits_h (d : Dev) (v : Word) : (htimBits d v).h = d.h := rfl
@[simp] theorem htimBits_fabric (d : Dev) (v : Word) : (htimBits d v).fabric = d.fabric := rfl
@[simp] theorem now_htimBits (d : Dev) (v : Word) : (htimBits d v).now = d.now := rfl

theorem immW_htimBits (d : Dev) (v : Word) {a : Nat} (h : a ≠ A.HTIM_CTRL) : (htimBits d v).immW a = d.immW a := by
  simp [htimBits, Dev.setIm, h]

/-- TSET_GO admitted (R54): the instant HTIM_TSET names waits for the next TPLL cycle. -/
theorem doTset_of_good {d : Dev} (h : tsetGood d) :
    d.doTset false = { d with h := { d.h with tset := some (tsetInstant d), tsetCyc := d.h.cycle + 1 } } := by
  unfold Dev.doTset
  exact if_neg (by simpa using h)

theorem doTset_of_refused {d : Dev} {run : Bool} (h : run = true ∨ ¬ tsetGood d) :
    d.doTset run = ((d.setIm A.HTIM_STAT F.HTIM_STAT_TSET_REFUSED 1).err 0x1000).house pgHTIM 0x3004 1 := by
  unfold Dev.doTset
  exact if_pos (h.imp_right Nat.lt_of_not_le)

theorem tsetInstant_htimBits (d : Dev) (v : Word) : tsetInstant (htimBits d v) = tsetInstant d := by
  unfold tsetInstant
  rw [immW_htimBits d v (by decide), immW_htimBits d v (by decide), immW_htimBits d v (by decide)]

theorem tsetGood_htimBits (d : Dev) (v : Word) : tsetGood (htimBits d v) ↔ tsetGood d := by
  unfold tsetGood
  rw [immW_htimBits d v (by decide), immW_htimBits d v (by decide)]

theorem tsetGood_post (d : Dev) (m : Nat) : tsetGood (d.post m) ↔ tsetGood d := by
  unfold tsetGood; rw [immW_post, immW_post]

theorem fget_tsetGo_set (v : Word) : fget (v ||| 2#32) F.HTIM_CTRL_TSET_GO = 1 := by
  rw [F.HTIM_CTRL_TSET_GO, fget_bit, BitVec.getLsbD_or]; simp

theorem fget_run_set (v : Word) : fget (v ||| 1#32) F.HTIM_CTRL_RUN = 1 := by
  rw [F.HTIM_CTRL_RUN, fget_bit, BitVec.getLsbD_or]; simp

/-- A write with TSET_GO that is admitted: the load waits, and so does RUN where the write asks for it. -/
theorem writeHtimCtrl_load {v : Word} {d : Dev} (hg : fget v F.HTIM_CTRL_TSET_GO = 1) (hs : fget v F.HTIM_CTRL_STEP_GO = 0)
    (hr : d.h.run = false) (h : tsetGood d) :
    writeHtimCtrl v d = { htimBits d v with h := { d.h with
      tset := some (tsetInstant d), tsetCyc := d.h.cycle + 1, runPend := d.h.runPend || fget v F.HTIM_CTRL_RUN == 1 } } := by
  rw [writeHtimCtrl_noStep hs rfl, if_pos hg, hr, doTset_of_good ((tsetGood_htimBits d v).2 h), tsetInstant_htimBits]
  by_cases hv : fget v F.HTIM_CTRL_RUN = 1
  · rw [if_pos ⟨hv, rfl⟩, askRun_of_load rfl, hv]; simp [htimBits, Dev.setIm]
  · rw [if_neg (fun hh => hv hh.1), beq_eq_false_iff_ne.2 hv]; simp [htimBits, Dev.setIm]

/-- A write with TSET_GO that is refused: the status, the count and the pulse, and no start. -/
theorem writeHtimCtrl_loadRefused {v : Word} {d : Dev} (hg : fget v F.HTIM_CTRL_TSET_GO = 1) (hs : fget v F.HTIM_CTRL_STEP_GO = 0)
    (h : d.h.run = true ∨ ¬ tsetGood d ∧ fget v F.HTIM_CTRL_RUN = 0) :
    writeHtimCtrl v d = (((htimBits d v).setIm A.HTIM_STAT F.HTIM_STAT_TSET_REFUSED 1).err 0x1000).house pgHTIM 0x3004 1 := by
  have noRun : ¬ (fget v F.HTIM_CTRL_RUN = 1 ∧ d.h.run = false) := by
    rintro ⟨h1, h0⟩
    rcases h with h | ⟨_, h⟩
    · simp [h] at h0
    · omega
  rw [writeHtimCtrl_noStep hs rfl, if_pos hg, if_neg noRun,
    doTset_of_refused (h.imp_right fun h => fun hh => h.1 ((tsetGood_htimBits d v).1 hh))]

/-- A write of RUN alone: nothing more while the hearth runs. -/
theorem writeHtimCtrl_running {v : Word} {d : Dev} (hg : fget v F.HTIM_CTRL_TSET_GO = 0) (hs : fget v F.HTIM_CTRL_STEP_GO = 0)
    (hr : d.h.run = true) : writeHtimCtrl v d = htimBits d v := by
  rw [writeHtimCtrl_noStep hs rfl, if_neg (by simp [hr]), if_neg (by omega)]

theorem writeHtimCtrl_start {v : Word} {d : Dev} (hg : fget v F.HTIM_CTRL_TSET_GO = 0) (hs : fget v F.HTIM_CTRL_STEP_GO = 0)
    (hv : fget v F.HTIM_CTRL_RUN = 1) (hr : d.h.run = false) : writeHtimCtrl v d = (htimBits d v).askRun := by
  rw [writeHtimCtrl_noStep hs rfl, if_pos ⟨hv, hr⟩, if_neg (by omega)]

/-! ## The load's cycle -/

/-- The counter as TSET_LOAD sets it, before a RUN that waits for it (R54). -/
def Dev.loaded (d : Dev) (t : Nat) : Dev :=
  { d with h := { d.h with
    ctr := t * 65536, atTU := 0, cycle := max d.h.cycle d.h.tsetCyc, tset := none,
    pstep := d.h.pstep.map (fun p => { p with second := p.second.map (fun _ => nextWhole secTU t) }) } }

theorem runAfter_eq (d : Dev) : d.runAfter = if d.h.runPend ∧ d.runWaits = false then d.tick.setRun else d := rfl

theorem tsetLoad_of_some {d : Dev} {t : Nat} (h : d.h.tset = some t) : tsetLoad d = (d.loaded t).runAfter := by
  unfold tsetLoad; rw [h]; rfl

theorem tsetLoad_alone {d : Dev} {t : Nat} (h : d.h.tset = some t) (hp : d.h.runPend = false) : tsetLoad d = d.loaded t := by
  rw [tsetLoad_of_some h, runAfter_eq]
  exact if_neg (by simp [Dev.loaded, hp])

theorem tsetLoad_starting {d : Dev} {t : Nat} (h : d.h.tset = some t) (hp : d.h.runPend = true) (hs : d.h.pstep = none) :
    tsetLoad d = (d.loaded t).tick.setRun := by
  rw [tsetLoad_of_some h, runAfter_eq]
  exact if_pos ⟨hp, by simp [Dev.runWaits, Dev.loaded, hs]⟩

/-- A cycle without a slew adds the increment and changes no more of the hearth than the cycle count (R51). -/
theorem tick_h_of_noSlew {d : Dev} (h : d.h.slew = none) : d.tick.h = { d.h with cycle := d.h.cycle + 1, ctr := d.h.ctr + d.increment } := by
  have hi : d.increment = d.plainInc := by simp [Dev.increment, Dev.slewPpm, Dev.plainInc, h]
  simp [Dev.tick, Dev.cycles, h, hi]

theorem beginning_loaded_agrees (d : Dev) (t : Nat) : (beginning (d.loaded t)).agrees (beginning d) := agrees_refl _

/-! ## The commands -/

/-- R54: TSET_GO schedules the load, or is refused. -/
theorem tsetGo_loads_or_refuses {s : State} {m : Nat} {v w : Word} (h : Awake s) (hr : Reaches m A.HTIM_CTRL s) (hw : w = v ||| 2#32)
    (hs : fget w F.HTIM_CTRL_STEP_GO = 0) :
    (s.dev.h.run = false → tsetGood s.dev → Does (.tsetGo m v) s (s.dev.wrote m fun d => { htimBits d w with h := { d.h with
        tset := some (tsetInstant d), tsetCyc := d.h.cycle + 1, runPend := d.h.runPend || fget w F.HTIM_CTRL_RUN == 1 } })) ∧
    (s.dev.h.run = true ∨ ¬ tsetGood s.dev ∧ fget w F.HTIM_CTRL_RUN = 0 →
      Tells (.tsetGo m v) s (s.dev.wrote m fun d => (htimBits d w).setIm A.HTIM_STAT F.HTIM_STAT_TSET_REFUSED 1) pgHTIM 0x3004 1) := by
  subst hw
  have hg := fget_tsetGo_set v
  constructor
  · intro hrun hgood
    refine does_hostWrite (act := writeHtimCtrl (v ||| 2#32)) rfl h hr ?_
    rw [writeHtimCtrl_load hg hs (by rwa [post_h]) ((tsetGood_post _ _).2 hgood)]
    exact agrees_refl _
  · intro hno
    have hw := writeHtimCtrl_loadRefused (d := s.dev.post m) hg hs (by rwa [post_h, tsetGood_post])
    refine tells_hostWrite (act := writeHtimCtrl (v ||| 2#32)) rfl h hr ?_ ?_ <;> rw [hw]
    · exact agrees_trans (house_agrees _ _ _ _) (err_agrees _ _ rfl)
    · exact house_told (by simp) (by simp) _ _ _

/-- R54: TSET_LOAD sets the counter, and RUN one cycle later when it waits for the load. -/
theorem tsetLoad_sets_and_starts {s : State} {t : Nat} (h : Awake s) (ht : s.dev.h.tset = some t) :
    (s.dev.h.runPend = false → Does .tsetLoad s (s.dev.loaded t)) ∧
    (s.dev.h.runPend = true → s.dev.h.run = false → s.dev.h.pstep = none → s.dev.h.slew = none → Within .tsetLoad s beginning (fun u =>
      u.h.run = true ∧ u.im A.HTIM_CTRL F.HTIM_CTRL_RUN = 1 ∧ u.h.ctr = t * 65536 + s.dev.increment)) := by
  constructor
  · intro hp
    refine does_of_onDev (f := tsetLoad) rfl h ?_
    rw [tsetLoad_alone ht hp]; exact agrees_refl _
  · intro hp hrun hstep hslew
    have hh : (s.dev.loaded t).tick.h = { (s.dev.loaded t).h with
        cycle := (s.dev.loaded t).h.cycle + 1, ctr := t * 65536 + s.dev.increment } := tick_h_of_noSlew hslew
    obtain ⟨run, bit, ctr, _⟩ := setRun_facts (s.dev.loaded t).tick (by rw [hh]; exact hrun)
    refine within_of_onDev (f := tsetLoad) rfl h ?_ ?_ <;> rw [tsetLoad_starting ht hp hstep]
    · exact agrees_trans (beginning_setRun_agrees _) (agrees_trans (beginning_tick_agrees _) (beginning_loaded_agrees _ _))
    · exact ⟨run, bit, by rw [ctr, hh]⟩

/-- R53: RUN is kept, waits for a load, or begins the epoch in progress at the counter. -/
theorem hearthRun_starts {s : State} {m : Nat} {v w : Word} (h : Awake s) (hr : Reaches m A.HTIM_CTRL s) (hw : w = v ||| 1#32)
    (hg : fget w F.HTIM_CTRL_TSET_GO = 0) (hs : fget w F.HTIM_CTRL_STEP_GO = 0) :
    (s.dev.h.run = true → Does (.hearthRun m v) s (s.dev.wrote m fun d => htimBits d w)) ∧
    (s.dev.h.run = false → s.dev.h.tset.isSome → Does (.hearthRun m v) s
      (s.dev.wrote m fun d => { htimBits d w with h := { d.h with runPend := true } })) ∧
    (s.dev.h.run = false → s.dev.h.tset = none → s.dev.h.pstep = none → Within (.hearthRun m v) s beginning (fun u =>
      u.h.run = true ∧ u.im A.HTIM_CTRL F.HTIM_CTRL_RUN = 1 ∧ u.h.ctr = s.dev.h.ctr ∧ u.sq.bnd = s.dev.now)) := by
  subst hw
  have hv := fget_run_set v
  refine ⟨fun hrun => ?_, fun hrun htset => ?_, fun hrun htset hstep => ?_⟩
  · refine does_hostWrite (act := writeHtimCtrl (v ||| 1#32)) rfl h hr ?_
    rw [writeHtimCtrl_running hg hs (by rwa [post_h])]
    exact agrees_refl _
  · refine does_hostWrite (act := writeHtimCtrl (v ||| 1#32)) rfl h hr ?_
    rw [writeHtimCtrl_start hg hs hv (by rwa [post_h]), askRun_of_load (by rwa [htimBits_h, post_h])]
    exact agrees_refl _
  · let e := htimBits (s.dev.post m) (v ||| 1#32)
    have he : e.h = s.dev.h := post_h s.dev m
    have hdev : htimCmd m v 1#32 s.dev = e.setRun.postAccepted m := by
      rw [htimCmd, hostWrite_act _ hr, writeHtimCtrl_start hg hs hv (by rwa [post_h]),
        askRun_of_free (show e.h.tset = none by rwa [he]) (show e.h.pstep = none by rwa [he])]
    obtain ⟨run, bit, ctr, bnd⟩ := setRun_facts e (by rwa [he])
    refine within_of_onDev (f := htimCmd m v 1#32) rfl h ?_ ?_ <;> rw [hdev]
    · exact agrees_trans (beginning_postAccepted_agrees _ _) (agrees_trans (beginning_setRun_agrees _)
        (agrees_trans (beginning_htimBits_agrees _ _) (beginning_post_agrees _ _)))
    · rw [im_postAccepted, postAccepted_h, postAccepted_sq]
      exact ⟨run, bit, ctr.trans (congrArg Hearth.ctr he), bnd.trans (now_post s.dev m)⟩

/-- R55: a read of HTIM_NOW0 latches the counter for its master. -/
theorem nowRead_latches {s : State} {m : Nat} (h : Awake s) :
    Does (.nowRead m) s ((s.dev.setLatch (A.HTIM_NOW 0) m (fullTime s.dev.now)).emit (.readData m [(fullTime s.dev.now).headD 0])) :=
  does_of_onDev (f := fun d => d.hostReadBy m (readNow m)) rfl h (agrees_refl _)

/-- Settles O1, command by command: each does what the write's or the load's equation says, and starting the hearth stays within
what `beginning` names. -/
theorem counterLoadStartAndRead : Obligations.CounterLoadStartAndRead := by
  intro s m v h
  exact ⟨fun hr _ hw hs => tsetGo_loads_or_refuses h hr hw hs, fun _ ht => tsetLoad_sets_and_starts h ht,
    fun hr _ hw hg hs => hearthRun_starts h hr hw hg hs, nowRead_latches h⟩

end Sys2Proof.Machine
end

section
/-! SUPPORT. Reads with an effect: the RC registers, the latches, the snapshot slots and their pins, and the pantry port (R20, R75, R81,
R103, R106, R371, R383). -/
namespace Sys2Proof.Machine

/-! ## A master's latches -/

theorem perW_setPerW_ne (d : Dev) {a b : Nat} (m : Nat) (v : Word) (h : b ≠ a) : (d.setPerW a m v).perW b m = d.perW b m := by
  unfold Dev.perW Dev.setPerW
  rw [tab_get?_set, if_neg (show 1024 * b + m ≠ 1024 * a + m by omega)]

/-- A latch changes per-master words and nothing else. -/
theorem setLatch_changes_per (d : Dev) (a m : Nat) (l : List Nat) :
    ∃ per, d.setLatch a m l = { d with regs := { d.regs with per := per } } := by
  induction l generalizing d a with
  | nil => exact ⟨d.regs.per, rfl⟩
  | cons v t ih => exact ih (d.setPerW a m (BitVec.ofNat 32 v)) (a + 4)

@[simp] theorem late_setLatch (d : Dev) (a m : Nat) (l : List Nat) : (d.setLatch a m l).late = d.late := by
  obtain ⟨per, hl⟩ := setLatch_changes_per d a m l
  rw [hl]

@[simp] theorem out_setLatch (d : Dev) (a m : Nat) (l : List Nat) : (d.setLatch a m l).out = d.out := by
  obtain ⟨per, hl⟩ := setLatch_changes_per d a m l
  rw [hl]

@[simp] theorem ownsReg_setLatch (d : Dev) (a m : Nat) (l : List Nat) (n r : Nat) : (d.setLatch a m l).ownsReg n r = d.ownsReg n r := by
  obtain ⟨per, hl⟩ := setLatch_changes_per d a m l
  rw [hl]; rfl

theorem perW_setLatch_before (d : Dev) {a b : Nat} (m : Nat) (l : List Nat) (h : b < a) : (d.setLatch a m l).perW b m = d.perW b m := by
  induction l generalizing d a with
  | nil => rfl
  | cons v t ih => exact (ih _ (by omega)).trans (perW_setPerW_ne d m _ (by omega))

/-- A latch holds its list, word by word. -/
theorem perW_setLatch (d : Dev) (a m : Nat) {l : List Nat} {i : Nat} (h : i < l.length) :
    (d.setLatch a m l).perW (a + 4 * i) m = BitVec.ofNat 32 (l.getD i 0) := by
  induction l generalizing d a i with
  | nil => exact absurd h (Nat.not_lt_zero i)
  | cons v t ih =>
    cases i with
    | zero => exact (perW_setLatch_before _ m t (by omega)).trans (perW_setPerW d a m _)
    | succ i =>
      rw [show a + 4 * (i + 1) = a + 4 + 4 * i by omega]
      exact ih _ _ (Nat.lt_of_succ_lt_succ h)

@[simp] theorem late_emit (d : Dev) (o : Output) : (d.emit o).late = d.late := rfl
@[simp] theorem out_emit (d : Dev) (o : Output) : (d.emit o).out = o :: d.out := rfl
@[simp] theorem perW_emit (d : Dev) (o : Output) (a m : Nat) : (d.emit o).perW a m = d.perW a m := rfl

/-! ## Registers that a read clears -/

/-- R20, R146: a command that reads an RC word answers it, and clears the RC bits for the owner alone. -/
theorem does_hostReadRC {i : Instr} {s : State} {m r mask : Nat} (he : exec i s = onDev (fun d => d.hostReadRC m r mask) s) (h : Awake s) :
    (s.dev.ownsReg m r = true →
      Does i s ((s.dev.setImmW r (s.dev.immW r &&& ~~~(BitVec.ofNat 32 mask))).emit (.readData m [(s.dev.immW r).toNat]))) ∧
    (s.dev.ownsReg m r = false → Does i s (s.dev.emit (.readData m [(s.dev.immW r).toNat]))) := by
  constructor <;> intro own <;> refine does_of_onDev he h ?_ <;> simp only [Dev.hostReadRC, Dev.readRC, own]
  · exact agrees_refl _
  · exact agrees_refl _

/-- Every command of `rcRead` is a read of its RC register under its mask. -/
theorem exec_of_rcRead {m x y : Nat} {b : Bool} {i : Instr} {r : Nat} {mask : Word} (h : rcRead m x y b i r mask) :
    ∃ n, mask = BitVec.ofNat 32 n ∧ ∀ s, exec i s = onDev (fun d => d.hostReadRC m r n) s := by
  have counted (base : Nat) {k : Nat} (s : State) :
      onDev (fun d => d.hostReadRC m (base + 4 * (x % k % k)) 0xFFFFFFFF) s = onDev (fun d => d.hostReadRC m (base + 4 * (x % k)) 0xFFFFFFFF) s := by
    rw [Nat.mod_mod]
  rcases h with ⟨rfl, rfl, rfl⟩ | ⟨rfl, rfl, rfl⟩ | ⟨rfl, rfl, rfl⟩ | ⟨rfl, rfl, rfl⟩ | ⟨rfl, rfl, rfl⟩ | ⟨rfl, rfl, rfl⟩ | ⟨rfl, rfl, rfl⟩ |
    ⟨rfl, rfl, rfl⟩ | ⟨rfl, rfl, rfl⟩ | ⟨rfl, rfl, rfl⟩ | ⟨rfl, rfl, rfl⟩ | ⟨rfl, rfl, rfl⟩ | ⟨rfl, rfl, rfl⟩ | governor | twin
  iterate 13 exact ⟨_, rfl, fun _ => rfl⟩
  · obtain ⟨rfl, rfl, rfl⟩ := governor; exact ⟨_, rfl, counted A.HGOV_STAT⟩
  · obtain ⟨rfl, rfl, rfl⟩ := twin; exact ⟨_, rfl, counted A.ZYN_HBMISS⟩

theorem readsThatClear : ReadsThatClear := by
  intro s m x y b h i r mask hi
  obtain ⟨n, rfl, he⟩ := exec_of_rcRead hi
  exact does_hostReadRC (he s) h

/-! ## Reads through a latch -/

theorem readCapE3_empty {d : Dev} (m : Nat) (h : d.h.cap = []) : readCapE3 m d = (d.setLatch (A.HCAP_E 0) m [0, 0, 0, 0, 0], 0) := by
  unfold readCapE3; rw [h]

/-- R75, R146: the head of the capture FIFO goes into the latch, and the owner's read removes it. -/
theorem readCapE3_head {d e : Dev} (m : Nat) {w : List Nat} {t : List (List Nat)} (h : d.h.cap = w :: t) (he : e = d.setLatch (A.HCAP_E 0) m w) :
    readCapE3 m d = (if d.ownsReg m (A.HCAP_E 3) then
      { e with h := { e.h with cap := t, capArmed := e.h.capArmed || decide (t.length < e.lv A.HCAP_CFG F.HCAP_CFG_THRESH) } } else e, w.getD 3 0) := by
  unfold readCapE3; rw [h, he]
  simp only [ownsReg_setLatch]

/-- The words of the late-fault log's entry as HLFL_E0 to HLFL_E4 show them (R383). -/
def latchedEntry (e : List Nat) : List Nat := [e.getD 0 0, e.getD 1 0, e.getD 2 0, e.getD 3 0, e.getD 4 0, e.getD 5 0]

theorem latchedEntry_getD (e : List Nat) {i : Nat} (h : i < 6) : (latchedEntry e).getD i 0 = e.getD i 0 := by
  have cases6 : i = 0 ∨ i = 1 ∨ i = 2 ∨ i = 3 ∨ i = 4 ∨ i = 5 := by omega
  rcases cases6 with rfl | rfl | rfl | rfl | rfl | rfl <;> rfl

/-- HLFL_E0 to HLFL_E4 stand one after another, so writing them in turn is one latch. -/
theorem setPerW_entry (d : Dev) (m : Nat) (e : List Nat) :
    ((((d.setPerW A.HLFL_E0 m (BitVec.ofNat 32 (e.getD 0 0))).setPerW A.HLFL_E1 m (BitVec.ofNat 32 (e.getD 1 0))).setPerW A.HLFL_E2 m
      (BitVec.ofNat 32 (e.getD 2 0))).setPerW A.HLFL_E3 m (BitVec.ofNat 32 (e.getD 3 0))).setLatch (A.HLFL_E4 0) m [e.getD 4 0, e.getD 5 0] =
    d.setLatch A.HLFL_E0 m (latchedEntry e) := by
  simp only [latchedEntry, Dev.setLatch, A.HLFL_E0, A.HLFL_E1, A.HLFL_E2, A.HLFL_E3, A.HLFL_E4, Nat.reduceMul, Nat.reduceAdd]

theorem readHlflE0_empty {d : Dev} (m : Nat) (h : d.late.log = []) : readHlflE0 m d = (d.setLatch A.HLFL_E0 m (latchedEntry []), 0) := by
  unfold readHlflE0; rw [h]; simp only [setPerW_entry]

/-- R383: the owner's read moves the head of the late-fault log into the latch. -/
theorem readHlflE0_head {d : Dev} {m : Nat} {e : List Nat} {l : List (List Nat)} (h : d.late.log = e :: l) (own : d.ownsReg m A.HLFL_E0 = true) :
    readHlflE0 m d = ({ d.setLatch A.HLFL_E0 m (latchedEntry e) with late := { d.late with log := l } }, e.getD 0 0) := by
  unfold readHlflE0; rw [h]
  simp only [setPerW_entry, ownsReg_setLatch, late_setLatch, own, if_true]

theorem perW_latchedEntry (d : Dev) (m : Nat) (e : List Nat) {i : Nat} (h : i < 6) :
    (d.setLatch A.HLFL_E0 m (latchedEntry e)).perW (A.HLFL_E0 + 4 * i) m = BitVec.ofNat 32 (e.getD i 0) := by
  rw [perW_setLatch d A.HLFL_E0 m (l := latchedEntry e) h, latchedEntry_getD e h]

theorem captureFifoPop_latches {s : State} {m : Nat} (h : Awake s) :
    (s.dev.h.cap = [] → Does (.captureFifoPop m) s ((s.dev.setLatch (A.HCAP_E 0) m [0, 0, 0, 0, 0]).emit (.readData m [0]))) ∧
    (∀ e t, s.dev.h.cap = e :: t → ∀ d : Dev, d = s.dev.setLatch (A.HCAP_E 0) m e →
      (s.dev.ownsReg m (A.HCAP_E 3) = true → Does (.captureFifoPop m) s ({ d with h := { d.h with
          cap := t, capArmed := d.h.capArmed || decide (t.length < d.lv A.HCAP_CFG F.HCAP_CFG_THRESH) } }.emit (.readData m [e.getD 3 0]))) ∧
      (s.dev.ownsReg m (A.HCAP_E 3) = false → Does (.captureFifoPop m) s (d.emit (.readData m [e.getD 3 0])))) := by
  refine ⟨fun hc => ?_, fun e t hc d hd => ⟨fun own => ?_, fun own => ?_⟩⟩ <;>
    refine does_of_onDev (f := fun d => d.hostReadBy m (readCapE3 m)) rfl h ?_ <;> unfold Dev.hostReadBy
  · rw [readCapE3_empty m hc]; exact agrees_refl _
  · rw [readCapE3_head m hc hd, if_pos own]; exact agrees_refl _
  · rw [readCapE3_head m hc hd, if_neg (by simp [own])]; exact agrees_refl _

theorem lateFaultLogPop_latches {s : State} {m : Nat} (h : Awake s) :
    (s.dev.late.log = [] → Within (.lateFaultLogPop m) s (fun d => { d with regs := { d.regs with per := [] }, out := [] })
      (fun t => (∀ i < 6, t.perW (A.HLFL_E0 + 4 * i) m = 0) ∧ t.out = .readData m [0] :: s.dev.out)) ∧
    (∀ e l, s.dev.late.log = e :: l → s.dev.ownsReg m A.HLFL_E0 = true →
      Within (.lateFaultLogPop m) s (fun d => { d with regs := { d.regs with per := [] }, late := { d.late with log := [] }, out := [] })
        (fun t => t.late.log = l ∧ (∀ i < 6, t.perW (A.HLFL_E0 + 4 * i) m = BitVec.ofNat 32 (e.getD i 0)) ∧
          t.out = .readData m [e.getD 0 0] :: s.dev.out)) := by
  refine ⟨fun hl => ?_, fun e l hl own => ?_⟩ <;>
    refine within_of_onDev (f := fun d => d.hostReadBy m (readHlflE0 m)) rfl h ?_ ?_ <;> unfold Dev.hostReadBy
  · obtain ⟨per, hper⟩ := setLatch_changes_per s.dev A.HLFL_E0 m (latchedEntry [])
    rw [readHlflE0_empty m hl, hper]; exact agrees_refl _
  · simp only [readHlflE0_empty m hl, Dev.answer, perW_emit, out_emit, out_setLatch, and_true]
    exact fun i hi => perW_latchedEntry s.dev m [] hi
  · obtain ⟨per, hper⟩ := setLatch_changes_per s.dev A.HLFL_E0 m (latchedEntry e)
    rw [readHlflE0_head hl own, hper]; exact agrees_refl _
  · simp only [readHlflE0_head hl own, Dev.answer, late_emit, perW_emit, out_emit, out_setLatch, true_and, and_true]
    exact fun i hi => perW_latchedEntry s.dev m e hi

theorem latchingReads : LatchingReads := by
  intro s m h
  obtain ⟨capEmpty, capHead⟩ := captureFifoPop_latches (m := m) h
  obtain ⟨logEmpty, logHead⟩ := lateFaultLogPop_latches (m := m) h
  exact ⟨capEmpty, capHead, logEmpty, logHead, does_of_onDev (f := fun d => d.hostReadBy m (readEpoch m)) rfl h (agrees_refl _)⟩

/-! ## Pins of the snapshot slots -/

@[simp] theorem pinOf_post (d : Dev) (m n : Nat) : (d.post m).pinOf n = d.pinOf n := by simp [Dev.pinOf]
@[simp] theorem slotOf_post (d : Dev) (m n : Nat) : (d.post m).slotOf n = d.slotOf n := by simp [Dev.slotOf]

/-- No publication waits for a slot, so a pin that moves lets none start (R101). -/
theorem startPub_of_slotted {d : Dev} (h : ∀ p ∈ d.sq.pubs, p.slot.isSome) : d.startPub = d := by
  unfold Dev.startPub
  split
  · next p t hp => rw [if_pos (h p (by simp [hp]))]
  · rfl

/-- The slots that would be held with slot `c` pinned for master `m` (R106). -/
def Dev.slotsHeldWith (d : Dev) (m c : Nat) : List Nat :=
  (c :: (d.sq.pins.filter (fun e => e.1 != m && e.2.held)).map (·.2.slot)).eraseDups

/-- A write of PIN alone: refused without a CURRENT slot, or where a third slot would be held; else CURRENT is pinned (R106). -/
theorem writeHsnpPin_pin (m : Nat) (d : Dev) :
    (d.sq.cur = none → writeHsnpPin m 1#32 d = d.setPin m { d.pinOf m with refused := true }) ∧
    (∀ c, d.sq.cur = some c → 2 < (d.slotsHeldWith m c).length → writeHsnpPin m 1#32 d = d.setPin m { d.pinOf m with refused := true }) ∧
    (∀ c, d.sq.cur = some c → (d.slotsHeldWith m c).length ≤ 2 → writeHsnpPin m 1#32 d =
      (d.setPin m { d.pinOf m with held := true, slot := c, epoch := (d.slotOf c).epoch, age := 0 }).startPub) := by
  have pin : fget 1#32 F.HSNP_PIN_PIN = 1 := by decide
  have unpin : fget 1#32 F.HSNP_PIN_UNPIN = 0 := by decide
  have refused : fget 1#32 F.HSNP_PIN_PIN_REFUSED = 0 := by decide
  have lapsed : fget 1#32 F.HSNP_PIN_PIN_LAPSED = 0 := by decide
  refine ⟨fun hc => ?_, fun c hc hl => ?_, fun c hc hl => ?_⟩
  · simp [writeHsnpPin, pin, unpin, lapsed, hc]
  · rw [Dev.slotsHeldWith] at hl; simp [writeHsnpPin, pin, unpin, lapsed, hc, hl]
  · rw [Dev.slotsHeldWith] at hl; simp [writeHsnpPin, pin, unpin, refused, lapsed, hc, Nat.not_lt_of_le hl]

theorem writeHsnpPin_unpin (m : Nat) (d : Dev) :
    writeHsnpPin m 2#32 d = (d.setPin m { d.pinOf m with held := false, slot := 0, epoch := 0, age := 0 }).startPub := by
  have pin : fget 2#32 F.HSNP_PIN_PIN = 0 := by decide
  have unpin : fget 2#32 F.HSNP_PIN_UNPIN = 1 := by decide
  have refused : fget 2#32 F.HSNP_PIN_PIN_REFUSED = 0 := by decide
  have lapsed : fget 2#32 F.HSNP_PIN_PIN_LAPSED = 0 := by decide
  simp [writeHsnpPin, pin, unpin, refused, lapsed]

/-- R106: PIN pins CURRENT or is refused; UNPIN releases. -/
theorem snapshotPin_pins_or_refuses {s : State} {m : Nat} {p : Pin} (h : Awake s) (hp : p = s.dev.pinOf m) (hr : Reaches m A.HSNP_PIN s)
    (hs : ∀ p ∈ s.dev.sq.pubs, p.slot.isSome) :
    (∀ c, s.dev.sq.cur = some c → (s.dev.slotsHeldWith m c).length ≤ 2 →
      Does (.snapshotPin m) s (s.dev.wrote m fun d => d.setPin m { p with held := true, slot := c, epoch := (s.dev.slotOf c).epoch, age := 0 })) ∧
    (∀ c, s.dev.sq.cur = some c → 2 < (s.dev.slotsHeldWith m c).length →
      Does (.snapshotPin m) s (s.dev.wrote m fun d => d.setPin m { p with refused := true })) ∧
    (s.dev.sq.cur = none → Does (.snapshotPin m) s (s.dev.wrote m fun d => d.setPin m { p with refused := true })) ∧
    Does (.snapshotUnpin m) s (s.dev.wrote m fun d => d.setPin m { p with held := false, slot := 0, epoch := 0, age := 0 }) := by
  subst hp
  have cur : (s.dev.post m).sq.cur = s.dev.sq.cur := by rw [post_sq]
  have held (c : Nat) : (s.dev.post m).slotsHeldWith m c = s.dev.slotsHeldWith m c := by unfold Dev.slotsHeldWith; rw [post_sq]
  have stays (p : Pin) : ((s.dev.post m).setPin m p).startPub = (s.dev.post m).setPin m p :=
    startPub_of_slotted (by simpa [Dev.setPin] using hs)
  obtain ⟨hnone, hfull, hfree⟩ := writeHsnpPin_pin m (s.dev.post m)
  refine ⟨fun c hc hl => ?_, fun c hc hl => ?_, fun hc => ?_, ?_⟩
  · refine does_hostWrite (act := writeHsnpPin m 1#32) rfl h hr ?_
    rw [hfree c (cur.trans hc) (by rwa [held]), stays, pinOf_post, slotOf_post]; exact agrees_refl _
  · refine does_hostWrite (act := writeHsnpPin m 1#32) rfl h hr ?_
    rw [hfull c (cur.trans hc) (by rwa [held]), pinOf_post]; exact agrees_refl _
  · refine does_hostWrite (act := writeHsnpPin m 1#32) rfl h hr ?_
    rw [hnone (cur.trans hc), pinOf_post]; exact agrees_refl _
  · refine does_hostWrite (act := writeHsnpPin m 2#32) rfl h hr ?_
    rw [writeHsnpPin_unpin, stays, pinOf_post]; exact agrees_refl _

/-! ## Reads of the snapshot slots -/

theorem readSlot_empty {d : Dev} {n : Nat} (h : (d.slotOf n).st = .empty) (off : Nat) : d.readSlot n off = 0 := by simp [Dev.readSlot, h]

theorem readSlot_filling {d : Dev} {n : Nat} (h : (d.slotOf n).st = .filling) (off : Nat) :
    d.readSlot n off = if off = 4 then 1 + 4 * n else 0xFFFFFFFF := by simp [Dev.readSlot, h]

theorem readSlot_published {d : Dev} {n : Nat} (h : (d.slotOf n).st = .published) (off : Nat) :
    d.readSlot n off = slotWord n (d.slotOf n) off := by simp [Dev.readSlot, h]

theorem straddle_of_not_filling {d : Dev} {n : Nat} (h : (d.slotOf n).st ≠ .filling) (m k : Nat) : d.straddle m n k = d :=
  if_neg fun hf => h hf.1

theorem straddle_of_filling {d : Dev} {n : Nat} (h : (d.slotOf n).st = .filling) (m k : Nat) :
    d.straddle m n k = if m < 8 then d.setPer A.HSNP_STRADDLE m F.HSNP_STRADDLE_COUNT
      (min (d.per A.HSNP_STRADDLE m F.HSNP_STRADDLE_COUNT + k) (2 ^ 32 - 1)) else d := by
  simp [Dev.straddle, h, sat, F.HSNP_STRADDLE_COUNT]

/-- R103, R133: a read counts as straddling, and answers each word as its slot has it. -/
theorem does_snapshotRead {s : State} {m n off len : Nat} {d : Dev} {word : Nat → Nat} (h : Awake s)
    (hd : s.dev.straddle m n ((len + 511) / 512) = d) (hw : ∀ x, s.dev.readSlot n x = word x) :
    Does (.snapshotRead m n off len) s (d.emit (.readData m ((List.range (len / 4)).map (fun i => word (off + 4 * i))))) := by
  refine does_of_onDev (f := snapshotRead m n off len) rfl h ?_
  simp only [snapshotRead, hd, hw]
  exact agrees_refl _

theorem snapshotPinsAndReads : SnapshotPinsAndReads := by
  intro s m n off len h p hp
  refine ⟨snapshotPin_pins_or_refuses h hp, fun hs => ?_, fun hs => ?_, fun hs d hd => ?_,
    does_of_onDev (f := fun d => d.hostReadBy m (readStraddle m)) rfl h (agrees_refl _)⟩
  · exact does_snapshotRead (word := fun _ => 0) h (straddle_of_not_filling (by simp [hs]) _ _) (readSlot_empty hs)
  · exact does_snapshotRead h (straddle_of_not_filling (by simp [hs]) _ _) (readSlot_published hs)
  · exact does_snapshotRead (word := fun x => if x = 4 then 1 + 4 * n else 0xFFFFFFFF) h
      ((straddle_of_filling hs _ _).trans hd.symm) (readSlot_filling hs)

/-! ## The host pantry port -/

/-- R371: the port's eight bytes at PADDR: the high half goes into the latch, the low half is answered; 0 where no byte is to be read. -/
theorem readPdata0_served {d : Dev} {m T : Nat} (mem : Mem) (hup : d.panDown T = false) (hq : d.panQual m T (d.panAddr m T) = true) :
    readPdata0 m T mem d = (d.setPerW (A.TPAN_PDATA1 T) m (BitVec.ofNat 32 (leNat (mem.pbytes T (d.panAddr m T) 8) / 2 ^ 32)),
      leNat (mem.pbytes T (d.panAddr m T) 8) % 2 ^ 32) := by
  simp [readPdata0, hup, hq]

theorem readPdata0_denied {d : Dev} {m T : Nat} (mem : Mem) (hno : d.panDown T = true ∨ d.panQual m T (d.panAddr m T) = false) :
    readPdata0 m T mem d = (d.setPerW (A.TPAN_PDATA1 T) m 0, 0) := by
  simp [readPdata0, hno]

theorem pantryRead_latches {s : State} {m T : Nat} (h : Awake s) :
    (s.dev.panDown T = false → s.dev.panQual m T (s.dev.panAddr m T) = true → ∀ x, x = leNat (s.mem.pbytes T (s.dev.panAddr m T) 8) →
      Does (.pantryRead m T) s ((s.dev.setPerW (A.TPAN_PDATA1 T) m (BitVec.ofNat 32 (x / 2 ^ 32))).emit (.readData m [x % 2 ^ 32]))) ∧
    (s.dev.panDown T = true ∨ s.dev.panQual m T (s.dev.panAddr m T) = false →
      Does (.pantryRead m T) s ((s.dev.setPerW (A.TPAN_PDATA1 T) m 0).emit (.readData m [0]))) := by
  refine ⟨fun hup hq x hx => ?_, fun hno => ?_⟩ <;>
    refine does_of_onMem (f := fun d mem => (d.hostReadBy m (readPdata0 m T mem), [])) rfl h ?_ rfl <;> simp only [Dev.hostReadBy]
  · rw [readPdata0_served s.mem hup hq, ← hx]; exact agrees_refl _
  · rw [readPdata0_denied s.mem hno]; exact agrees_refl _

theorem writePdata1_refused {d : Dev} {m T : Nat} (v : Word) (hq : d.panQual m T (d.panAddr m T) = false) :
    writePdata1 m T v d = ((d.post m).refuse m, []) := if_pos hq

/-- R371: a write of PDATA1 that qualifies stores both halves as one word. -/
theorem pantryWrite_stores {s : State} {m T : Nat} {v : Word} (h : Awake s) (hup : s.dev.panDown T = false)
    (hq : s.dev.panQual m T (s.dev.panAddr m T) = true) (hr : Reaches m (A.TPAN_PDATA1 T) s) :
    Stores (.pantryWrite m T v) s (s.dev.wrote m id)
      [.pantry T (s.dev.panAddr m T) (leBytes 4 (s.dev.perW (A.TPAN_PDATA0 T) m).toNat ++ leBytes 4 v.toNat)] := by
  have he : writePdata1 m T v s.dev = (s.dev.hostWrite m (A.TPAN_PDATA1 T) id,
      [.pantry T (s.dev.panAddr m T) (leBytes 4 (s.dev.perW (A.TPAN_PDATA0 T) m).toNat ++ leBytes 4 v.toNat)]) := by
    simp [writePdata1, hup, hq]
  refine stores_of_onMem (f := fun d _ => writePdata1 m T v d) rfl h ?_ ?_ <;> simp only [he]
  rw [hostWrite_act id hr]; exact agrees_refl _

/-- A PCIe function's refused write is counted (R144); its pulse goes out once in an epoch. -/
theorem refuse_again {d : Dev} {m : Nat} (hm : m < 6) (hc : d.sq.refusedM.contains m = true) :
    d.refuse m = d.incIm (A.HOWN_WREFUSED m) F.HOWN_WREFUSED_COUNT 1 := by
  unfold Dev.refuse
  rw [if_neg (by omega)]
  simp only [if_neg (show ¬ m = 6 by omega)]
  exact if_pos hc

theorem refuse_first {d e : Dev} {m : Nat} (hm : m < 6) (hc : d.sq.refusedM.contains m = false)
    (he : e = d.incIm (A.HOWN_WREFUSED m) F.HOWN_WREFUSED_COUNT 1) :
    d.refuse m = ({ e with sq := { e.sq with refusedM := m :: e.sq.refusedM } } : Dev).house pgHOWN 0x3405 m := by
  subst he
  unfold Dev.refuse
  rw [if_neg (by omega)]
  simp only [if_neg (show ¬ m = 6 by omega)]
  exact if_neg (show ¬ d.sq.refusedM.contains m = true by simp only [hc, Bool.false_eq_true, not_false_eq_true])

theorem pantryWrite_refused {s : State} {m T : Nat} {v : Word} (h : Awake s) (hq : s.dev.panQual m T (s.dev.panAddr m T) = false) (hm : m < 6) :
    (s.dev.sq.refusedM.contains m = true →
      Does (.pantryWrite m T v) s ((s.dev.post m).incIm (A.HOWN_WREFUSED m) F.HOWN_WREFUSED_COUNT 1)) ∧
    (s.dev.sq.refusedM.contains m = false → ∀ d : Dev, d = (s.dev.post m).incIm (A.HOWN_WREFUSED m) F.HOWN_WREFUSED_COUNT 1 →
      Tells (.pantryWrite m T v) s { d with sq := { d.sq with refusedM := m :: d.sq.refusedM } } pgHOWN 0x3405 m) := by
  refine ⟨fun hc => ?_, fun hc d hd => ?_⟩
  · refine does_of_onMem (f := fun d _ => writePdata1 m T v d) rfl h ?_ ?_ <;> simp only [writePdata1_refused v hq]
    rw [refuse_again hm (by rwa [post_sq])]; exact agrees_refl _
  · refine doesAnd_of_onMem (f := fun d _ => writePdata1 m T v d) rfl h ?_ ?_ ?_ <;> simp only [writePdata1_refused v hq]
    · rw [refuse_first hm (by rwa [post_sq]) hd]; exact house_agrees _ _ _ _
    · rw [refuse_first hm (by rwa [post_sq]) hd]
      exact house_told (by rw [hd]; exact post_fabric s.dev m) (by rw [hd]; exact now_post s.dev m) _ _ _

theorem pantryPort : PantryPort := by
  rintro s m T v h _ rfl
  obtain ⟨served, denied⟩ := pantryRead_latches (m := m) (T := T) h
  exact ⟨served, denied, pantryWrite_stores h, fun hq hm => (pantryWrite_refused h hq hm).1, fun hq hm => (pantryWrite_refused h hq hm).2⟩

/-- Settles O37: the reads that clear, the reads through a latch, the snapshot slots and the pantry port, each by the equations of its
register. -/
theorem readsLatchAndClear : Obligations.ReadsLatchAndClear :=
  ⟨readsThatClear, latchingReads, snapshotPinsAndReads, pantryPort⟩

end Sys2Proof.Machine
end

section
/-! SUPPORT. Words of an engine: what charging, completing, waiting, ending and trapping leave of the device but for reports (R317, R327,
R331, R345), and what a command of a word comes to when the engine runs it now (R315, R328, R332). -/
namespace Sys2Proof.Machine

/-! ## An engine set twice -/

@[simp] theorem tab_set_set {α : Type} (t : Tab α) (k : Nat) (a b : α) : Tab.set (Tab.set t k a) k b = Tab.set t k b := by
  induction t with
  | nil => simp [Tab.set]
  | cons e t ih =>
    by_cases he : k = e.1
    · simp [Tab.set, he]
    · by_cases hl : k < e.1
      · simp [Tab.set, he, hl]
      · simp [Tab.set, he, hl, ih]

@[simp] theorem setEng_setEng (d : Dev) (T : Nat) (x y : Eng) : (d.setEng T x).setEng T y = d.setEng T y := by
  unfold Dev.setEng; rw [tab_set_set]

theorem engOf_setEng_same (d : Dev) (T : Nat) (x : Eng) : (d.setEng T x).engOf T = x := by simp

/-! ## Agreement under an update that reports do not touch -/

/-- An update that neither reads nor writes what reports change keeps agreement. -/
theorem agrees_map {d e : Dev} (k : d.agrees e) (f : Dev → Dev) (hs : ∀ x : Dev, (f x).silent = (f x.silent).silent)
    (hi : ∀ (x : Dev) (a : Nat), (f x).immW a = x.immW a) : (f d).agrees (f e) :=
  ⟨by rw [hs d, hs e, k.1], fun a ha => by rw [hi, hi]; exact k.2 a ha⟩

theorem agrees_setEng {d e : Dev} (k : d.agrees e) (T : Nat) (x : Eng) : (d.setEng T x).agrees (e.setEng T x) :=
  agrees_map k (·.setEng T x) (fun _ => rfl) fun _ _ => rfl

/-- An engine set again where it was the last thing set. -/
theorem agrees_setEng_again {d e : Dev} {T : Nat} {x : Eng} (k : d.agrees (e.setEng T x)) (y : Eng) : (d.setEng T y).agrees (e.setEng T y) := by
  have := agrees_setEng k T y
  rwa [setEng_setEng] at this

theorem agrees_engOf {d e : Dev} (k : d.agrees e) (T : Nat) : d.engOf T = e.engOf T :=
  (congrArg (fun x : Dev => x.engOf T) k.1 : d.silent.engOf T = e.silent.engOf T)

theorem agrees_pcOf {d e : Dev} (k : d.agrees e) (j : Nat) : d.pcOf j = e.pcOf j :=
  (congrArg (fun x : Dev => x.pcOf j) k.1 : d.silent.pcOf j = e.silent.pcOf j)

theorem agrees_now {d e : Dev} (k : d.agrees e) : d.now = e.now := (congrArg Dev.now k.1 : d.silent.now = e.silent.now)

theorem agrees_bankLost {d e : Dev} (k : d.agrees e) (j : Nat) : d.bankLost j = e.bankLost j :=
  (congrArg (fun x : Dev => x.bankLost j) k.1 : d.silent.bankLost j = e.silent.bankLost j)

/-! ## What an engine's counts and pulses leave alone -/

theorem tileCount_agrees (d : Dev) (T : Nat) (ops : List RecOp) : (d.tileCount T ops).agrees d := count_agrees _ _ _

theorem usage_agrees (d : Dev) (T dom stamp : Nat) (room share : List RecOp) : (d.usage T dom stamp room share).agrees d := by
  unfold Dev.usage
  dsimp only
  split
  · exact agrees_refl _
  · split
    · exact spillItem_agrees _ _
    · exact agrees_trans (accRun_agrees _ _ _ _) (accRun_agrees _ _ _ _)

theorem engPulse_agrees (d : Dev) (T n arg stamp : Nat) : (d.engPulse T n arg stamp).agrees d :=
  happen_agrees _ _ _ _ _ _ (by unfold tengPage; omega)

theorem engPulse1_agrees (d : Dev) (T n arg stamp : Nat) : (d.engPulse1 T n arg stamp).agrees d := by
  unfold Dev.engPulse1 Dev.engFirst
  split
  · exact agrees_trans (engPulse_agrees _ _ _ _ _) (accRun_agrees _ _ _ _)
  · exact agrees_refl _

theorem consumed_agrees (d : Dev) (T : Nat) : (d.consumed T).agrees d := by
  unfold Dev.consumed
  dsimp only
  split
  · exact agrees_trans (spillItem_agrees _ _) (tileCount_agrees _ _ _)
  · exact agrees_refl _

/-- Going to IDLE, or leaving it, changes the engine's own mark alone (R340). -/
theorem engBusy_agrees (d : Dev) (T : Nat) (next : Option Nat) : (d.engBusy T next).agrees (d.setEng T { d.engOf T with busyAt := next }) := by
  unfold Dev.engBusy
  dsimp only
  split
  · exact agrees_refl _
  · exact agrees_setEng (agrees_trans (tileCount_agrees _ _ _) (accRun_agrees _ _ _ _)) _ _

/-! ## Charging (R327, R345) -/

/-- The device with the engine `e` of tile `T`, `n` words taken from the budget of the domain. -/
def Dev.billed (d : Dev) (T n dom : Nat) (e : Eng) : Dev :=
  { d.setEng T e with budget := if dom < 256 then Tab.upd d.budget 0 (budKey T dom) (· - (n : Int)) else d.budget }

@[simp] theorem engOf_billed (d : Dev) (T n dom : Nat) (e : Eng) : (d.billed T n dom e).engOf T = e := engOf_setEng_same d T e

@[simp] theorem billed_setEng (d : Dev) (T n dom : Nat) (e x : Eng) : (d.billed T n dom e).setEng T x = d.billed T n dom x := by
  simp [Dev.billed, Dev.setEng]

@[simp] theorem setEng_billed (d : Dev) (T n dom : Nat) (e x : Eng) : (d.setEng T x).billed T n dom e = d.billed T n dom e := by
  simp [Dev.billed, Dev.setEng]

/-- Two bills in turn are one of their sum. -/
@[simp] theorem billed_billed (d : Dev) (T m n dom : Nat) (e x : Eng) : (d.billed T m dom e).billed T n dom x = d.billed T (m + n) dom x := by
  by_cases h : dom < 256 <;> simp [Dev.billed, Dev.setEng, Tab.upd, h, Int.sub_sub]

theorem agrees_billed {d e : Dev} (k : d.agrees e) (T n dom : Nat) (x : Eng) : (d.billed T n dom x).agrees (e.billed T n dom x) :=
  agrees_map k (·.billed T n dom x) (fun _ => rfl) fun _ _ => rfl

theorem agrees_setEng_of_billed {d e : Dev} {T n dom : Nat} {x : Eng} (k : d.agrees (e.billed T n dom x)) (y : Eng) :
    (d.setEng T y).agrees (e.billed T n dom y) := by
  have := agrees_setEng k T y
  rwa [billed_setEng] at this

/-- INIT is not charged. -/
theorem charge_agrees_of_init {d : Dev} {T : Nat} (hi : (d.engOf T).inInit = true) (n waits : Nat) (cls : Option Nat) :
    (d.charge T n waits cls).agrees d := by
  unfold Dev.charge
  dsimp only
  rw [if_pos hi]
  exact tileCount_agrees _ _ _

/-- A dispatch is charged, and its domain's budget. -/
theorem charge_agrees {d : Dev} {T : Nat} {e : Eng} (he : d.engOf T = e) (hi : e.inInit = false) (n waits : Nat) (cls : Option Nat) :
    (d.charge T n waits cls).agrees (d.billed T n e.dom { e with charged := e.charged + n }) := by
  unfold Dev.charge
  dsimp only
  rw [he, if_neg (by simp [hi])]
  have bill : ∀ (x : Dev) (y : Eng), (if e.dom < 256 then
      { x.setEng T y with budget := Tab.upd (x.setEng T y).budget 0 (budKey T e.dom) (· - (n : Int)) } else x.setEng T y) = x.billed T n e.dom y := by
    intro x y; unfold Dev.billed; split <;> rfl
  rw [bill]
  exact agrees_billed (agrees_trans (usage_agrees _ _ _ _ _ _) (tileCount_agrees _ _ _)) _ _ _ _

/-! ## Completing a word -/

/-- The engine after a word that charged `n` words and goes on at `pc`. -/
def Eng.after (e : Eng) (n pc : Nat) : Eng :=
  { e with
    charged := if e.inInit then e.charged else e.charged + n, pc := pc, hwords := if e.st = .trap then e.hwords + 1 else e.hwords
    sliceLeft := if e.st = .trap then e.sliceLeft else e.sliceLeft - 1, passBp := false, wait := none }

theorem after_of_run {e : Eng} (hs : e.st = .run) (hi : e.inInit = false) (n pc : Nat) :
    e.after n pc = { e with charged := e.charged + n, pc := pc, sliceLeft := e.sliceLeft - 1, passBp := false, wait := none } := by
  simp [Eng.after, hs, hi]

theorem wordOver_of_init {e : Eng} (hi : e.inInit = true) (d : Dev) (T n pc : Nat) : d.wordOver T n pc e = d.setEng T (e.after n pc) := by
  simp [Dev.wordOver, Eng.after, hi, Dev.setEng]

theorem wordOver_of_dispatch {e : Eng} (hi : e.inInit = false) (d : Dev) (T n pc : Nat) :
    d.wordOver T n pc e = d.billed T n e.dom (e.after n pc) := by
  simp [Dev.wordOver, Dev.billed, Eng.after, hi]

@[simp] theorem engOf_wordOver (d : Dev) (T n pc : Nat) (e : Eng) : (d.wordOver T n pc e).engOf T = e.after n pc := engOf_setEng_same d T _

@[simp] theorem setEng_wordOver (d : Dev) (T n pc : Nat) (e x : Eng) : (d.setEng T x).wordOver T n pc e = d.wordOver T n pc e := by
  simp [Dev.wordOver, Dev.setEng]

/-- A word that completes in RUN or TRAP leaves the device as `Dev.wordOver` says. -/
theorem wordDone_agrees {d : Dev} {T : Nat} {e : Eng} (he : d.engOf T = e) (hs : e.st ≠ .halted) (c n waits pc : Nat) :
    (d.wordDone T c n waits pc).agrees (d.wordOver T n pc e) := by
  have inTrap : (e.st == .trap || (e.st == .halted && e.back == .trap)) = true ↔ e.st = .trap := by simp [hs]
  unfold Dev.wordDone
  dsimp only
  cases hi : e.inInit with
  | true =>
    have k := charge_agrees_of_init (he ▸ hi) n waits (some c)
    rw [agrees_engOf k T, he, wordOver_of_init hi]
    simp only [inTrap, Eng.after, hi, if_true]
    exact agrees_setEng k _ _
  | false =>
    have k := charge_agrees he hi n waits (some c)
    rw [agrees_engOf k T, engOf_billed, wordOver_of_dispatch hi]
    simp only [inTrap, Eng.after, hi, Bool.false_eq_true, if_false]
    exact agrees_setEng_of_billed k _

/-! ## The end of a routine (R312, R330) -/

/-- A dispatch ends: the engine is IDLE. -/
theorem endRoutine_agrees {d : Dev} {T : Nat} {e : Eng} (he : d.engOf T = e) (hi : e.inInit = false) :
    (d.endRoutine T).agrees (d.setEng T { e with st := .idle, wait := none, lastDom := e.dom, busyAt := none }) := by
  have k := agrees_trans (engBusy_agrees (d.consumed T) T none) (agrees_setEng (consumed_agrees d T) T _)
  rw [agrees_engOf (consumed_agrees d T) T, he] at k
  unfold Dev.endRoutine
  dsimp only
  rw [he, if_neg (by simp [hi]), agrees_engOf k T, engOf_setEng_same]
  exact agrees_setEng_again k _

/-- INIT ends: the engine is online and IDLE, and on a pin tile its channels lose the cause of its loss (R266). -/
theorem endRoutine_of_init {d : Dev} {T : Nat} {e : Eng} (he : d.engOf T = e) (hi : e.inInit = true) :
    ∃ u : Dev, u.agrees (d.setEng T { e with st := .idle, inInit := false, wait := none, busyAt := none }) ∧ d.endRoutine T = u.engineBack T false := by
  have k := engBusy_agrees d T none
  rw [he] at k
  unfold Dev.endRoutine
  dsimp only
  rw [he, if_pos hi]
  refine ⟨_, ?_, rfl⟩
  refine agrees_trans (engPulse_agrees _ _ _ _ _) ?_
  rw [agrees_engOf k T, engOf_setEng_same]
  exact agrees_setEng_again k _

/-! ## Traps (R331) -/

/-- The engine in its handler: the trap's cause, TRAP_VEC. -/
def Eng.trapped (e : Eng) (cause : Nat) : Eng := { e with st := .trap, hwords := 0, wait := none, lastCause := cause, pc := e.img.trapVec }

/-- A trap in RUN is charged as 16 words, writes the frame and goes to TRAP_VEC. -/
theorem trapTo_agrees {d : Dev} {T : Nat} {e : Eng} (he : d.engOf T = e) (hs : e.st = .run) (hi : e.inInit = false) (cause rpc detail : Nat) :
    (d.trapTo T cause rpc detail).1.agrees (d.billed T 16 e.dom ({ e with charged := e.charged + 16 }.trapped cause)) ∧
    (d.trapTo T cause rpc detail).2 = [.pantry T trapFrame ((frameWords e cause rpc detail).flatMap (leBytes 8))] := by
  have k (ops : List RecOp) (arg stamp : Nat) :=
    agrees_trans (engPulse1_agrees ((d.charge T 16 0 none).tileCount T ops) T 1 arg stamp)
      (agrees_trans (tileCount_agrees _ T ops) (charge_agrees he hi 16 0 none))
  unfold Dev.trapTo
  dsimp only
  rw [he, if_neg (by simp [hi]), if_neg (by simp [hs])]
  refine ⟨?_, rfl⟩
  rw [agrees_engOf (k _ _ _) T, engOf_billed]
  exact agrees_setEng_of_billed (k _ _ _) _

/-- A word that traps is charged too: 17 words in all. -/
theorem wordTrap_agrees {d : Dev} {T : Nat} {e : Eng} (he : d.engOf T = e) (hs : e.st = .run) (hi : e.inInit = false) (cause detail : Nat) :
    (d.wordTrap T cause detail).1.agrees (d.billed T 17 e.dom ({ e with charged := e.charged + 17 }.trapped cause)) ∧
    (d.wordTrap T cause detail).2 = [.pantry T trapFrame ((frameWords e cause e.pc detail).flatMap (leBytes 8))] := by
  have k := charge_agrees he hi 1 0 none
  have hc : (d.charge T 1 0 none).engOf T = { e with charged := e.charged + 1 } := (agrees_engOf k T).trans (engOf_billed _ _ _ _ _)
  obtain ⟨hd, hm⟩ := trapTo_agrees hc hs hi cause e.pc detail
  unfold Dev.wordTrap
  rw [he]
  refine ⟨agrees_trans hd ?_, hm⟩
  have := agrees_billed k T 16 e.dom ({ e with charged := e.charged + 17 }.trapped cause)
  rwa [billed_billed] at this

/-- A TRAP word completes before its trap is entered: 17 words in all, one of the slice. -/
theorem softTrap_agrees {d : Dev} {T : Nat} {e : Eng} (he : d.engOf T = e) (hs : e.st = .run) (hi : e.inInit = false) (c cause rpc : Nat) :
    ((d.wordDone T c 1 0 e.pc).trapTo T cause rpc 0).1.agrees
      (d.billed T 17 e.dom ({ e with charged := e.charged + 17, sliceLeft := e.sliceLeft - 1, passBp := false }.trapped cause)) ∧
    ((d.wordDone T c 1 0 e.pc).trapTo T cause rpc 0).2 =
      [.pantry T trapFrame ((frameWords { e with sliceLeft := e.sliceLeft - 1 } cause rpc 0).flatMap (leBytes 8))] := by
  have k := wordDone_agrees he (by simp [hs]) c 1 0 e.pc
  have hw := agrees_engOf k T
  rw [engOf_wordOver, after_of_run hs hi] at hw
  rw [wordOver_of_dispatch hi] at k
  obtain ⟨entry, frame⟩ := trapTo_agrees hw hs hi cause rpc 0
  have bill := agrees_billed k T 16 e.dom ({ e with charged := e.charged + 17, sliceLeft := e.sliceLeft - 1, passBp := false }.trapped cause)
  rw [billed_billed] at bill
  exact ⟨agrees_trans entry bill, frame⟩

/-! ## The word an engine runs now -/

/-- The engine with its dispatch's time begun: the first word begins it. -/
def Eng.begun (e : Eng) (now : Nat) : Eng := { e with began := if e.charged = 0 then now else e.began }

theorem begun_eq (e : Eng) (now : Nat) : e.begun now = if e.charged = 0 then { e with began := now } else e := by
  unfold Eng.begun; split <;> rfl

theorem not_halted_of_between {e : Eng} (h : e.between = true) : e.st ≠ .halted := by
  intro hs
  simp [Eng.between, hs] at h

theorem not_halted_of_runsWord {d : Dev} {T op : Nat} (hr : runsWord d T op) : (d.engOf T).st ≠ .halted :=
  not_halted_of_between (hr _ rfl).1

/-- The device as the engine of `T` begins its word. -/
def Dev.starting (d : Dev) (T : Nat) : Dev := d.setEng T ((d.engOf T).begun d.now)

theorem engOf_starting (d : Dev) (T : Nat) : (d.starting T).engOf T = (d.engOf T).begun d.now := engOf_setEng_same _ _ _

/-- What the word that the engine of `T` stands at does, when its operation is `f`. -/
def State.answer (s : State) (T : Nat) (f : Eng → Micro → Dev → Mem → WordRes) : WordRes :=
  f ((s.dev.engOf T).begun s.dev.now) (s.dev.engOf T).word (s.dev.starting T) s.mem

/-- The device and the memory writes that a word's answer leaves. -/
def Dev.settled (d : Dev) (T : Nat) (r : WordRes) : Dev × List MemOp := (d.starting T).settleWord T (d.engOf T).word r

/-- A command of an operation carries out what its word answers, on the device with the dispatch's time begun. -/
theorem runWord_of_runsWord {s : State} {T op : Nat} (hr : runsWord s.dev T op) {f : Eng → Micro → Dev → Mem → WordRes} :
    s.dev.runWord T op f s.mem = s.dev.settled T (s.answer T f) := by
  obtain ⟨hb, hsl, hh, hres, hg, hop, hill, hbrk⟩ := hr _ rfl
  have running : ((s.dev.engOf T).st == .halted) = false := by simp [not_halted_of_between hb]
  have now : s.dev.runWord T op f s.mem = (s.dev.starting T).runNow T op f s.mem := by
    unfold Dev.runWord Dev.starting
    rw [begun_eq]
    by_cases first : (s.dev.engOf T).charged = 0 <;>
      simp only [running, hb, hsl, hh, hres, hg, hbrk, first, Bool.false_and, Bool.and_false, Bool.or_false, Bool.not_true, Bool.false_eq_true,
        if_false, if_true]
  have legal : illegalWord (decide (256 ≤ T)) (((s.dev.engOf T).begun s.dev.now).st == .trap) ((s.dev.engOf T).begun s.dev.now).word = false := hill
  have named : mOp ((s.dev.engOf T).begun s.dev.now).word = op := hop
  rw [now]
  unfold Dev.runNow Dev.settled State.answer
  dsimp only
  rw [engOf_starting, if_neg (ne_true_of_eq_false legal), if_neg (not_not_intro named)]
  rfl

theorem afterWord_eq (d : Dev) (T n pc : Nat) (e : Eng) : d.afterWord T n pc e = d.wordOver T n pc (e.begun d.now) := rfl

end Sys2Proof.Machine
end

section
/-! SUPPORT. Causes of safe state cleared: what it changes, channel by channel (R260, R266). -/
namespace Sys2Proof.Machine

@[simp] theorem setPc_setPc (d : Dev) (k : Nat) (x y : PinCh) : (d.setPc k x).setPc k y = d.setPc k y := by
  unfold Dev.setPc; rw [tab_set_set]

theorem pcOf_setPc_same (d : Dev) (k : Nat) (x : PinCh) : (d.setPc k x).pcOf k = x := by simp

theorem agrees_setPc {d e : Dev} (k : d.agrees e) (j : Nat) (x : PinCh) : (d.setPc j x).agrees (e.setPc j x) :=
  agrees_map k (·.setPc j x) (fun _ => rfl) fun _ _ => rfl

theorem agrees_ite {p : Prop} [Decidable p] {a b d : Dev} (ha : a.agrees d) (hb : b.agrees d) : (if p then a else b).agrees d := by
  split
  · exact ha
  · exact hb

theorem pchPage_aligned (pc : Nat) : pchPage pc % 0x1000 = 0 := by unfold pchPage; omega

theorem protPage_aligned (q : Nat) : protPage q % 0x1000 = 0 := by unfold protPage tengPage; omega

theorem pcPulse_agrees (d : Dev) (pc kind arg stamp : Nat) : (d.pcPulse pc kind arg stamp).agrees d := by
  unfold Dev.pcPulse
  exact agrees_ite (happen_agrees _ _ _ _ _ _ (pchPage_aligned pc)) (agrees_refl d)

theorem protPulse_agrees (d : Dev) (q j k arg stamp : Nat) : (d.protPulse q j k arg stamp).agrees d :=
  happen_agrees _ _ _ _ _ _ (protPage_aligned q)

/-- Time in safe state is counted up to `t`, from where it goes on (R285). -/
theorem safeTime_agrees {d : Dev} {pc : Nat} {c : PinCh} (hc : d.pcOf pc = c) (h : c.cause ≠ 0) (t : Nat) :
    (d.safeTime pc t).agrees (d.setPc pc { c with causeAt := t }) := by
  unfold Dev.safeTime
  dsimp only
  rw [hc, if_neg h]
  exact agrees_setPc (agrees_trans (accRun_agrees _ _ _ _) (accRun_agrees _ _ _ _)) _ _

/-- A channel that loses cause bits now (R260). -/
def Dev.relieved (d : Dev) (pc bits : Nat) : PinCh :=
  let c := d.pcOf pc
  { c with
    cause := c.cause &&& (511 ^^^ bits), causeAt := d.now
    resume := if c.causes ≠ 0 ∧ (c.cause &&& (511 ^^^ bits)) % 256 = 0 ∧ d.bankLost pc = false then some (d.now + pinLead) else c.resume }

theorem clearCauses_cons (d : Dev) (pc : Nat) (pcs : List Nat) (bits : Nat) :
    d.clearCauses (pc :: pcs) bits = (d.clearCauses [pc] bits).clearCauses pcs bits := rfl

theorem clearCauses_without {d : Dev} {pc bits : Nat} (h : (d.pcOf pc).cause &&& bits = 0) : d.clearCauses [pc] bits = d := by
  unfold Dev.clearCauses
  rw [List.foldl_cons, List.foldl_nil]
  exact if_pos h

theorem clearCauses_agrees {d : Dev} {pc bits : Nat} (h : (d.pcOf pc).cause &&& bits ≠ 0) :
    (d.clearCauses [pc] bits).agrees (d.setPc pc (d.relieved pc bits)) := by
  have held : (d.pcOf pc).cause ≠ 0 := fun h0 => h (by rw [h0, Nat.zero_and])
  have k := safeTime_agrees rfl held d.now
  have kept := agrees_pcOf k pc
  rw [pcOf_setPc_same] at kept
  unfold Dev.clearCauses
  rw [List.foldl_cons, List.foldl_nil]
  dsimp only
  rw [if_neg h, kept, pcOf_setPc_same, setPc_setPc]
  have set (x : PinCh) : ((d.safeTime pc d.now).setPc pc x).agrees (d.setPc pc x) := by
    have := agrees_setPc k pc x
    rwa [setPc_setPc] at this
  have lost (x : PinCh) : ((d.safeTime pc d.now).setPc pc x).bankLost pc = d.bankLost pc := (agrees_bankLost (set x) pc).trans rfl
  have now (x : PinCh) : ((d.safeTime pc d.now).setPc pc x).now = d.now := (agrees_now (set x)).trans rfl
  simp only [lost, now]
  unfold Dev.relieved
  split
  next resumes =>
    simp only [if_pos resumes]
    exact agrees_trans (pcPulse_agrees _ _ _ _ _) (set _)
  next stays =>
    simp only [if_neg stays]
    exact set _

/-- The device without its channels. -/
def Dev.lessPins (d : Dev) : Dev := { d with pins := [] }

theorem agrees_lessPins {d e : Dev} (k : d.agrees e) : d.lessPins.agrees e.lessPins := agrees_map k Dev.lessPins (fun _ => rfl) fun _ _ => rfl

theorem clearCauses_lessPins (d : Dev) (pcs : List Nat) (bits : Nat) : (d.clearCauses pcs bits).lessPins.agrees d.lessPins := by
  induction pcs generalizing d with
  | nil => exact agrees_refl _
  | cons pc pcs ih =>
    rw [clearCauses_cons]
    refine agrees_trans (ih _) ?_
    by_cases h : (d.pcOf pc).cause &&& bits = 0
    · rw [clearCauses_without h]; exact agrees_refl _
    · have k := agrees_lessPins (clearCauses_agrees h)
      exact k

/-- A channel after causes of several are cleared (R260). -/
theorem pcOf_clearCauses (d : Dev) {pcs : List Nat} (nodup : pcs.Nodup) (bits k : Nat) :
    (d.clearCauses pcs bits).pcOf k = if pcs.contains k && (d.pcOf k).cause &&& bits != 0 then d.relieved k bits else d.pcOf k := by
  induction pcs generalizing d with
  | nil => rfl
  | cons pc pcs ih =>
    obtain ⟨fresh, nodup⟩ := List.nodup_cons.1 nodup
    rw [clearCauses_cons, ih _ nodup]
    by_cases h : (d.pcOf pc).cause &&& bits = 0
    · rw [clearCauses_without h]
      by_cases hk : k = pc
      · subst hk; simp [fresh, h]
      · simp [hk]
    · have one := agrees_pcOf (clearCauses_agrees h) k
      by_cases hk : k = pc
      · subst hk
        rw [pcOf_setPc_same] at one
        simp [fresh, one, h]
      · rw [pcOf_setPc, if_neg hk] at one
        have rel : (d.clearCauses [pc] bits).relieved k bits = d.relieved k bits := by
          unfold Dev.relieved
          rw [one, agrees_now (clearCauses_agrees h), agrees_bankLost (clearCauses_agrees h)]
          rfl
        simp [one, rel, hk]

theorem causesCleared_clearCauses (d : Dev) {pcs : List Nat} (nodup : pcs.Nodup) (bits : Nat) : causesCleared d (d.clearCauses pcs bits) pcs bits := by
  rintro k _ rfl _ rfl
  exact pcOf_clearCauses d nodup bits k

/-- What clearing causes changes is the same after any report. -/
theorem causesCleared_agrees {d e u v : Dev} (hd : d.agrees e) (hu : u.agrees v) {pcs : List Nat} {bits : Nat} (h : causesCleared e v pcs bits) :
    causesCleared d u pcs bits := by
  rintro k _ rfl _ rfl
  rw [agrees_pcOf hu, h k _ rfl _ rfl, agrees_pcOf hd, agrees_now hd, agrees_bankLost hd]

theorem tilePcs_nodup (q : Nat) : (tilePcs q).Nodup :=
  List.Pairwise.map (64 * q + ·) (fun _ _ ne h => ne (Nat.add_left_cancel h)) List.nodup_range

/-- The engine of a pin tile is back online: its channels lose the cause of its loss, and nothing else changes (R266). -/
theorem engineBack_of_pinTile {T : Nat} (h : 256 ≤ T) (d : Dev) :
    (d.engineBack T false).lessPins.agrees d.lessPins ∧ causesCleared d (d.engineBack T false) (tilePcs (T - 256)) 64 := by
  unfold Dev.engineBack
  simp only [if_neg (show ¬ T < 256 by omega), Bool.false_eq_true, if_false]
  have k := protPulse_agrees (d.clearCauses (tilePcs (T - 256)) 64) (T - 256) 32 4 2 d.now
  exact ⟨agrees_trans (agrees_lessPins k) (clearCauses_lessPins _ _ _),
    causesCleared_agrees (agrees_refl d) k (causesCleared_clearCauses d (tilePcs_nodup _) 64)⟩

theorem engineBack_of_tile {T : Nat} (h : T < 256) (d : Dev) (resumed : Bool) : d.engineBack T resumed = d := if_pos h

end Sys2Proof.Machine
end

section
/-! SUPPORT. The words that steer an engine: calls, waits, traps and the special registers (R316, R321, R323, R329-R331). First what a
command comes to for each thing a word can do, then each operation, then the statement. -/
namespace Sys2Proof.Machine

/-! ## What a command comes to, for each thing a word does -/

/-- A word that completes with an engine leaves the device as `Dev.afterWord` says. -/
theorem wordDone_of_starting (d : Dev) (T : Nat) {e : Eng} (hs : e.st ≠ .halted) (c n pc : Nat) :
    (((d.starting T).setEng T (e.begun d.now)).wordDone T c n 0 pc).agrees (d.afterWord T n pc e) := by
  have k := wordDone_agrees (engOf_setEng_same (d.starting T) T (e.begun d.now)) hs c n 0 pc
  rwa [setEng_wordOver, Dev.starting, setEng_wordOver] at k

/-- A word that completes and leaves the engine as it is. -/
theorem wordDone_starting {d : Dev} {T : Nat} (hs : (d.engOf T).st ≠ .halted) (c n pc : Nat) :
    ((d.starting T).wordDone T c n 0 pc).agrees (d.afterWord T n pc (d.engOf T)) := by
  have k := wordDone_of_starting d T hs c n pc
  rwa [Dev.starting, setEng_setEng] at k

@[simp] theorem engOf_afterWord (d : Dev) (T n pc : Nat) (e : Eng) : (d.afterWord T n pc e).engOf T = (e.begun d.now).after n pc :=
  engOf_wordOver _ _ _ _ _

section
variable {i : Instr} {s : State} {T op : Nat} {f : Eng → Micro → Dev → Mem → WordRes} {r : WordRes}
variable (he : exec i s = onMem (fun d m => d.runWord T op f m) s) (h : Awake s) (hr : runsWord s.dev T op)
include he h hr

/-- The command leaves what its word's answer leaves. -/
theorem stores_of_word (hf : s.answer T f = r) {e : Dev} {ops : List MemOp} (hd : (s.dev.settled T r).1.agrees e)
    (hm : (s.dev.settled T r).2 = ops) : Stores i s e ops := by
  rw [← hf, ← runWord_of_runsWord hr] at hd hm
  exact stores_of_onMem he h hd hm

theorem within_of_word (hf : s.answer T f = r) {hide : Dev → Dev} {P : Dev → Prop} (hd : (hide (s.dev.settled T r).1).agrees (hide s.dev))
    (hm : (s.dev.settled T r).2 = []) (hp : P (s.dev.settled T r).1) : Within i s hide P := by
  rw [← hf, ← runWord_of_runsWord hr] at hd hm hp
  exact within_of_onMem he h hd hm hp

theorem does_of_word (hf : s.answer T f = r) {e : Dev} (hd : (s.dev.settled T r).1.agrees e) (hm : (s.dev.settled T r).2 = []) : Does i s e :=
  stores_of_word he h hr hf hd hm

/-- A word completes with an engine and a result: it goes on where its condition says. -/
theorem does_of_done {e' : Eng} {v : Option Word64} (hs : e'.st = (s.dev.engOf T).st)
    (hf : s.answer T f = .done (s.dev.starting T) (e'.begun s.dev.now) [] v) :
    Does i s (s.dev.afterWord T 1 (e'.nextPc (s.dev.engOf T).word v) e') :=
  does_of_word he h hr hf (wordDone_of_starting s.dev T (hs ▸ not_halted_of_runsWord hr) _ _ _) rfl

/-- A word completes and names its own next address. -/
theorem does_of_goto {e' : Eng} {pc : Nat} (hs : e'.st = (s.dev.engOf T).st)
    (hf : s.answer T f = .goto (e'.begun s.dev.now) pc) : Does i s (s.dev.afterWord T 1 pc e') :=
  does_of_word he h hr hf (wordDone_of_starting s.dev T (hs ▸ not_halted_of_runsWord hr) _ _ _) rfl

/-- A word begins to wait. -/
theorem does_of_wait {k : Wait} {st : EngSt}
    (hst : st = match k with | .finish => (s.dev.engOf T).st | _ => if (s.dev.engOf T).st = .run then .wait else (s.dev.engOf T).st)
    (hf : s.answer T f = .wait ((s.dev.engOf T).begun s.dev.now) k) : Does i s (s.dev.waiting T (s.dev.engOf T) k st) := by
  refine does_of_word he h hr hf ?_ rfl
  subst hst
  unfold Dev.settled Dev.settleWord Dev.starting
  dsimp only
  rw [setEng_setEng]
  exact agrees_refl _

/-- A word traps before any effect. -/
theorem traps_of_trap {cause detail : Nat} (hf : s.answer T f = .trap cause detail) : Traps i s T cause detail := by
  rintro _ rfl hs hi
  obtain ⟨hd, hm⟩ := wordTrap_agrees (engOf_starting s.dev T) hs hi cause detail
  rw [Dev.starting, setEng_billed] at hd
  exact stores_of_word he h hr hf hd hm

/-- A word returns from a trap: it is charged as 16 words. -/
theorem does_of_rett {e' : Eng} (hs : e'.st = .run)
    (hf : s.answer T f = .rett (e'.begun s.dev.now)) :
    Does i s (s.dev.afterWord T 16 e'.pc { e' with sliceLeft := e'.sliceLeft + 1 }) :=
  does_of_word he h hr hf
    (wordDone_of_starting s.dev T (e := { e' with sliceLeft := e'.sliceLeft + 1 }) (show e'.st ≠ .halted by simp [hs]) _ 16 e'.pc) rfl

/-- A TRAP word: it completes, and the trap entry follows with the frame's RPC at NXT. -/
theorem stores_of_soft {cause : Nat} (hs : (s.dev.engOf T).st = .run) (hi : (s.dev.engOf T).inInit = false)
    (hf : s.answer T f = .soft cause)
    {d : Dev} (hd : d = s.dev.afterWord T 17 (s.dev.engOf T).img.trapVec (s.dev.engOf T)) :
    Stores i s (d.setEng T { d.engOf T with st := .trap, hwords := 0, lastCause := cause })
      [.pantry T 0x3FE00 ((frameWords { s.dev.engOf T with sliceLeft := (s.dev.engOf T).sliceLeft - 1 } cause (mNxt (s.dev.engOf T).word) 0).flatMap (leBytes 8))] := by
  have begun := engOf_starting s.dev T
  have run : ((s.dev.engOf T).begun s.dev.now).st = .run := hs
  have online : ((s.dev.engOf T).begun s.dev.now).inInit = false := hi
  obtain ⟨entry, frame⟩ := softTrap_agrees (e := (s.dev.starting T).engOf T) rfl (by rw [begun, run]) (by rw [begun, online])
    (mClass (s.dev.engOf T).word) cause (mNxt (s.dev.engOf T).word)
  refine stores_of_word he h hr hf (agrees_trans entry ?_) (frame.trans ?_) <;> rw [begun]
  · rw [hd, afterWord_eq, wordOver_of_dispatch online, engOf_billed, billed_setEng, after_of_run run online, Dev.starting, setEng_billed]
    exact agrees_refl _
  · rfl

end

/-! ## The operations -/

/-- The device without its channels and engines. -/
def Dev.lessPinsEng (d : Dev) : Dev := { d with pins := [], eng := [] }

theorem agrees_lessPinsEng {d e : Dev} (k : d.lessPins.agrees e.lessPins) : d.lessPinsEng.agrees e.lessPinsEng :=
  agrees_map (d := d.lessPins) (e := e.lessPins) k Dev.lessPinsEng (fun _ => rfl) fun _ _ => rfl

theorem opRet_of_cons {e : Eng} {x : Nat} {l : List Nat} (h : e.stack = x :: l) (w : Micro) (d : Dev) (m : Mem) :
    opRet e w d m = .goto { e with stack := l, above := x :: e.above } x := by
  unfold opRet; rw [h]

theorem opRet_of_nil {e : Eng} (h : e.stack = []) (w : Micro) (d : Dev) (m : Mem) : opRet e w d m = .trap 2 0 := by
  unfold opRet; rw [h]

/-- A write of a register leaves everything but the registers. -/
theorem wr_eq (e : Eng) (r : Nat) (v : Word64) : e.wr r v = { e with x := (e.wr r v).x } := by
  unfold Eng.wr; split <;> rfl

theorem wr_begun (e : Eng) (r : Nat) (v : Word64) (now : Nat) : (e.begun now).wr r v = (e.wr r v).begun now := by
  unfold Eng.wr; split <;> rfl

theorem evPend_wr (e : Eng) (r : Nat) (v : Word64) : (e.wr r v).evPend = e.evPend := by rw [wr_eq]; rfl

section
variable {s : State} {T : Nat} {e : Eng} (h : Awake s) (e_eq : e = s.dev.engOf T)
include h e_eq

/-- CALL pushes NXT, or traps at a full stack. -/
theorem call_steers (hr : runsWord s.dev T 0x18) :
    (e.stack.length < 8 → Does (.call T) s (s.dev.afterWord T 1 (mAlt e.word) { e with stack := mNxt e.word :: e.stack, above := e.above.tail })) ∧
    (8 ≤ e.stack.length → Traps (.call T) s T 2 0) := by
  subst e_eq
  exact ⟨fun room => does_of_goto (f := opCall) rfl h hr rfl (if_neg (Nat.not_le.2 room)), fun full => traps_of_trap (f := opCall) rfl h hr (if_pos full)⟩

/-- RET pops the newest return address, or traps at an empty stack. -/
theorem ret_steers (hr : runsWord s.dev T 0x19) :
    (∀ x l, e.stack = x :: l → Does (.ret T) s (s.dev.afterWord T 1 x { e with stack := l, above := x :: e.above })) ∧
    (e.stack = [] → Traps (.ret T) s T 2 0) := by
  subst e_eq
  exact ⟨fun x l top => does_of_goto (f := opRet) rfl h hr rfl (opRet_of_cons (e := (s.dev.engOf T).begun s.dev.now) top _ _ _),
    fun empty => traps_of_trap (f := opRet) rfl h hr (opRet_of_nil (e := (s.dev.engOf T).begun s.dev.now) empty _ _ _)⟩

/-- WAITEV with transfers in progress waits for them. -/
theorem waitev_waits (hr : runsWord s.dev T 0x1B) (busy : e.tags ≠ []) : Does (.waitev T) s (s.dev.waiting T e .finish e.st) := by
  subst e_eq
  exact does_of_wait (f := opWaitev) rfl h hr rfl (if_neg busy)

/-- WAITEV with no transfer ends the dispatch. -/
theorem waitev_ends (hr : runsWord s.dev T 0x1B) (free : e.tags = []) (hi : e.inInit = false) {d : Dev} (hd : d = s.dev.afterWord T 1 (mNxt e.word) e) :
    Does (.waitev T) s (d.setEng T { d.engOf T with st := .idle, lastDom := e.dom, busyAt := none }) := by
  subst e_eq hd
  have k := wordDone_starting (not_halted_of_runsWord hr) (mClass (s.dev.engOf T).word) 1 (mNxt (s.dev.engOf T).word)
  have idle := endRoutine_agrees ((agrees_engOf k T).trans (engOf_afterWord _ _ _ _ _)) hi
  rw [engOf_afterWord]
  exact does_of_word (f := opWaitev) rfl h hr (if_pos free) (agrees_trans idle (agrees_setEng k _ _)) rfl

/-- WAITEV ends INIT: the engine is online; on a pin tile its channels lose the cause of its loss. -/
theorem waitev_ends_init (hr : runsWord s.dev T 0x1B) (free : e.tags = []) (hi : e.inInit = true) {d : Dev} (hd : d = s.dev.afterWord T 1 (mNxt e.word) e)
    {e' : Eng} (he' : e' = { d.engOf T with st := .idle, inInit := false, busyAt := none }) :
    (T < 256 → Does (.waitev T) s (d.setEng T e')) ∧
    (256 ≤ T → Within (.waitev T) s (fun d => { d with pins := [], eng := [] })
      (fun u => u.engOf T = e' ∧ causesCleared s.dev u (tilePcs (T - 256)) 64)) := by
  subst e_eq hd
  have k := wordDone_starting (not_halted_of_runsWord hr) (mClass (s.dev.engOf T).word) 1 (mNxt (s.dev.engOf T).word)
  obtain ⟨u, online, back⟩ := endRoutine_of_init ((agrees_engOf k T).trans (engOf_afterWord _ _ _ _ _)) hi
  have ends := agrees_trans online (agrees_setEng k T _)
  rw [engOf_afterWord] at he'
  subst he'
  refine ⟨fun tile => ?_, fun pin => ?_⟩
  · rw [engineBack_of_tile tile] at back
    rw [← back] at ends
    exact does_of_word (f := opWaitev) rfl h hr (if_pos free) ends rfl
  · have init : ((s.dev.engOf T).begun s.dev.now).inInit = true := hi
    rw [afterWord_eq, wordOver_of_init init, setEng_setEng] at ends
    obtain ⟨others, cleared⟩ := engineBack_of_pinTile pin u
    have hidden := agrees_trans (agrees_lessPinsEng others) (agrees_lessPinsEng (agrees_lessPins ends))
    have here : (u.engineBack T false).engOf T = _ := (agrees_engOf others T).trans ((agrees_engOf ends T).trans (engOf_setEng_same _ _ _))
    have gone := causesCleared_agrees (agrees_symm ends) (agrees_refl _) cleared
    rw [← back] at hidden here gone
    exact within_of_word (f := opWaitev) rfl h hr (if_pos free) hidden rfl ⟨here, gone⟩

/-- JX goes on at a + IMM, modulo the control store. -/
theorem jx_steers (hr : runsWord s.dev T 0x1A) : Does (.jx T) s (s.dev.afterWord T 1 (((e.opA e.word).toNat + mImm e.word) % 8192) e) := by
  subst e_eq
  exact does_of_goto (f := opJx) rfl h hr rfl rfl

/-- WAITT traps beyond WAIT_MAX before it waits, goes on with Z = 1 at an instant that has passed, and waits for one to come. -/
theorem waitt_steers (hr : runsWord s.dev T 0x1C) {t lim : Nat} (ht : t = unshort s.dev.now (e.opA e.word).toNat)
    (hl : lim = s.dev.now + s.dev.lv (A.TENG_CFG T) F.TENG_CFG_WAIT_MAX * nsTU) :
    (lim < t → Traps (.waitt T) s T 7 (e.opA e.word).toNat) ∧
    (t ≤ s.dev.now → Does (.waitt T) s (s.dev.afterWord T 1 (({ e with fz := true } : Eng).nextPc e.word none) { e with fz := true })) ∧
    (s.dev.now < t → t ≤ lim → Does (.waitt T) s (s.dev.waiting T e (.untilT t) (if e.st = .run then .wait else e.st))) := by
  subst e_eq ht hl
  refine ⟨fun far => ?_, fun past => ?_, fun ahead near => ?_⟩
  · exact traps_of_trap (f := opWaitt T) rfl h hr (if_pos far)
  · exact does_of_done (f := opWaitt T) rfl h hr rfl ((if_neg (Nat.not_lt.2 (Nat.le_trans past (Nat.le_add_right _ _)))).trans (if_pos past))
  · exact does_of_wait (f := opWaitt T) rfl h hr rfl ((if_neg (Nat.not_lt.2 near)).trans (if_neg (Nat.not_le.2 ahead)))

/-- WAITM goes on when none of its tags is busy, and waits for them otherwise. -/
theorem waitm_steers (hr : runsWord s.dev T 0x1D) {busy : Bool} (hb : busy = e.tags.any (fun x => (mImm e.word % 256).testBit x.1)) :
    (busy = false → Does (.waitm T) s (s.dev.afterWord T 1 (e.nextPc e.word none) e)) ∧
    (busy = true → Does (.waitm T) s (s.dev.waiting T e (.tags (mImm e.word % 256)) (if e.st = .run then .wait else e.st))) := by
  subst e_eq hb
  refine ⟨fun free => ?_, fun busy => ?_⟩
  · exact does_of_done (f := opWaitm) rfl h hr rfl (if_neg (ne_true_of_eq_false free))
  · exact does_of_wait (f := opWaitm) rfl h hr rfl (if_pos busy)

/-- TRAP completes and enters the handler with its cause; the frame's RPC is NXT. -/
theorem trap_steers (hr : runsWord s.dev T 0x1E) (hs : e.st = .run) (hi : e.inInit = false) {d : Dev} (hd : d = s.dev.afterWord T 17 e.img.trapVec e)
    {cause : Nat} (hc : cause = 16 + mImm e.word % 16) :
    Stores (.trap T) s (d.setEng T { d.engOf T with st := .trap, hwords := 0, lastCause := cause })
      [.pantry T 0x3FE00 ((frameWords { e with sliceLeft := e.sliceLeft - 1 } cause (mNxt e.word) 0).flatMap (leBytes 8))] := by
  subst e_eq
  exact stores_of_soft (f := opTrap) rfl h hr hs hi (by rw [hc]; rfl) hd

/-- RETT takes the frame back and goes on at its RPC, in RUN. -/
theorem rett_steers (hr : runsWord s.dev T 0x1F) {e' : Eng} (he' : e' = e.fromFrame s.mem T) :
    Does (.rett T) s (s.dev.afterWord T 16 e'.pc { e' with sliceLeft := e'.sliceLeft + 1 }) := by
  subst e_eq he'
  exact does_of_rett (f := opRett T) rfl h hr rfl rfl

/-- RDS reads a special register. -/
theorem rds_reads (hr : runsWord s.dev T 0x20) {v : Word64} (hv : v = BitVec.ofNat 64 (s.dev.special T e (mImm e.word % 256))) {e' : Eng}
    (he' : e' = e.wr (mDst e.word) v) : Does (.rds T) s (s.dev.afterWord T 1 (e'.nextPc e.word (some v)) e') := by
  subst e_eq hv he'
  refine does_of_done (f := opRds T) rfl h hr (by rw [wr_eq]) ?_
  rw [← wr_begun]
  rfl

/-- WRS writes CB or the flags. -/
theorem wrs_writes (hr : runsWord s.dev T 0x21) {b : Nat} (hb : b = (e.opB e.word).toNat) {e' : Eng}
    (he' : e' = if mImm e.word % 256 = 5 then { e with cb := b % 2 ^ 18, cbOwn := e.cbOwn && b % 2 ^ 18 == e.cb }
      else e.flags4 (b.testBit 0) (b.testBit 1) (b.testBit 2) (b.testBit 3)) : Does (.wrs T) s (s.dev.afterWord T 1 (e'.nextPc e.word none) e') := by
  subst e_eq hb
  refine does_of_done (f := opWrs) rfl h hr (by rw [he']; split <;> rfl) ?_
  subst he'
  unfold State.answer opWrs
  by_cases cb : mImm (s.dev.engOf T).word % 256 = 5
  · simp only [if_pos cb]; rfl
  · simp only [if_neg cb]; rfl

end

/-- Settles O29, operation by operation: what the word answers is one of the things a word can do, and each of them has its rule above. -/
theorem wordsSteer : Obligations.WordsSteer := by
  rintro s T h e _ he rfl go hgo _ rfl
  have follows (r : Option Word64) (e' : Eng) (hp : e'.evPend = e.evPend) : go r e' = e'.nextPc e.word r := by
    rw [hgo, Eng.nextPc, hp]; rfl
  refine ⟨call_steers h he, ret_steers h he, jx_steers h he, fun hr => ⟨waitev_waits h he hr, ?_, ?_⟩, ?_, ?_, ?_, ?_, ?_, ?_⟩
  · exact fun free hi _ hd => waitev_ends h he hr free hi hd
  · exact fun free hi _ hd _ he' => waitev_ends_init h he hr free hi hd he'
  · intro hr t ht lim hl
    rw [follows none { e with fz := true } rfl]
    exact waitt_steers h he hr ht hl
  · intro hr busy hb
    rw [follows none e rfl]
    exact waitm_steers h he hr hb
  · exact fun hr hs hi _ hd _ hc => trap_steers h he hr hs hi hd hc
  · exact fun hr _ he' => rett_steers h he hr he'
  · intro hr v hv e' he'
    rw [follows (some v) e' (by rw [he', evPend_wr])]
    exact rds_reads h he hr hv he'
  · intro hr b hb e' he'
    rw [follows none e' (by rw [he']; split <;> rfl)]
    exact wrs_writes h he hr hb he'

end Sys2Proof.Machine
end
